-- ==== Sys2Proof/Word.lean ====
section
/-! DEFINITION. The words of the GA58: widths only (spec/00_scope.md, Conventions; R22). -/

namespace Sys2Proof

/-- A memory word: 32 bits in four byte lanes. -/
abbrev Word := BitVec 32

/-- A word address, 0 to 0x3FFFFFF. -/
abbrev Addr := BitVec 26

/-- One byte of a management frame. -/
abbrev Byte := BitVec 8

/-- Lane enables of a write: bit i enables byte lane i (R22). -/
abbrev Lanes := BitVec 4

/-- A free-running ring index or SEQUENCE: arithmetic is mod 65,536 (R32). -/
abbrev RingIndex := BitVec 16

/-- A COMMAND code as written, 0 to 7 (R38): 0 is NONE. -/
abbrev CommandCode := BitVec 3

/-- A channel number, 0 to 7. -/
abbrev ChanId := Fin 8

/-- A cell index, 0 to 15. -/
abbrev CellId := Fin 16

end Sys2Proof
end

