-- ==== Sys2Proof/Syntax.lean ====
section
/-! DEFINITION. The commands: one constructor per row of spec/opcode_table.json, with the row's operands. -/

namespace Sys2Proof

/-- A response of the memory to one access (R2): OKAY, with the word for a read (the word is not used when the access
is a write: a write's OKAY carries no data), or ERROR. -/
inductive MemResponse where
  | okay (data : Word)
  | error
deriving DecidableEq, Repr

/-- DIRECTION of a device request and of a channel's setup: IN is device to memory, OUT memory to device (R24, R87). -/
inductive Direction where
  | dirIn
  | dirOut
deriving DecidableEq, Repr

/-- The request message a device places on its channel port (R87). -/
structure DeviceRequest where
  direction : Direction
  holdAddress : Bool
  address : Addr
  data : Word
deriving DecidableEq, Repr

/-- The commands of the part (the rows of the table of operations and events). -/
inductive Instr where
  /-- READ_REQUEST (R1) -/
  | readRequest (addr : Addr)
  /-- WRITE_REQUEST (R1) -/
  | writeRequest (addr : Addr) (lanes : Lanes) (data : Word)
  /-- GRANT_DECISION (R139) -/
  | grantDecision
  /-- GROUP_ACCESS_ISSUE (R142) -/
  | groupAccessIssue
  /-- START (R68): the command reaches the channel's controller (log 5) -/
  | start (n : ChanId)
  /-- STOP (R70) -/
  | stop (n : ChanId)
  /-- RESUME (R71) -/
  | resume (n : ChanId)
  /-- ABORT (R72) -/
  | abort (n : ChanId)
  /-- CLEAR (R73) -/
  | clear (n : ChanId)
  /-- UNKNOWN_COMMAND (R67): a COMMAND code of 6 or 7 -/
  | unknownCommand (n : ChanId) (code : CommandCode)
  /-- FORWARDED_RESPONSE (R10) -/
  | forwardedResponse (r : MemResponse)
  /-- CELLHIT_READ_RESPONSE (R12) -/
  | cellhitReadResponse (r : MemResponse)
  /-- CELL_WRITE_BACK_RESPONSE (R129) -/
  | cellWriteBackResponse (r : MemResponse)
  /-- BREAK_CELL_READ_RESPONSE (R100) -/
  | breakCellReadResponse (r : MemResponse)
  /-- BREAK_DATA_RESPONSE (R101) -/
  | breakDataResponse (r : MemResponse)
  /-- STRICT_WRITE_RESPONSE (R99) -/
  | strictWriteResponse (r : MemResponse)
  /-- FILL_READ_RESPONSE (R49) -/
  | fillReadResponse (r : MemResponse)
  /-- WRITEBACK_WRITE_RESPONSE (R53) -/
  | writebackWriteResponse (r : MemResponse)
  /-- LINK_READ_RESPONSE (R113) -/
  | linkReadResponse (r : MemResponse)
  /-- CELL_LOAD_RESPONSE (R124) -/
  | cellLoadResponse (r : MemResponse)
  /-- CELL_STATUS_WRITE_RESPONSE (R132) -/
  | cellStatusWriteResponse (r : MemResponse)
  /-- POST_WRITE_RESPONSE (R153) -/
  | postWriteResponse (r : MemResponse)
  /-- RECOVERY_READ_RESPONSE (R161) -/
  | recoveryReadResponse (r : MemResponse)
  /-- ENABLE_STEP_RESPONSE (R179) -/
  | enableStepResponse (r : MemResponse)
  /-- ORPHANED_RESPONSE (R15) -/
  | orphanedResponse (r : MemResponse)
  /-- CHANNEL_REQUEST (R89) -/
  | channelRequest (n : ChanId) (req : DeviceRequest)
  /-- QUIET_TIMER_EXPIRY (R57) -/
  | quietTimerExpiry (n : ChanId)
  /-- HOLDOFF_EXPIRY (R158) -/
  | holdoffExpiry
  /-- ENABLE_WINDOW (R179): a WINDOW_CONTROL frame with ENABLE 1; the operand is its data word -/
  | enableWindow (data : Word)
  /-- DISABLE_WINDOW (R181): a WINDOW_CONTROL frame with ENABLE 0; the operand is its data word -/
  | disableWindow (data : Word)
  /-- DISABLE_END (R182) -/
  | disableEnd
  /-- REGISTER_WRITE (R176): a frame of six bytes, given as its operation byte, index byte and data word (log 7) -/
  | registerWrite (op index : Byte) (data : Word)
  /-- FAULT_STATUS_CLEAR (R170): the data word of a WRITE frame to FAULT_STATUS -/
  | faultStatusClear (data : Word)
  /-- FLUSH (R183) -/
  | flush
  /-- FLUSH_AT_BOUNDARY (R183) -/
  | flushAtBoundary
  /-- EVENT_PATH_RESET (R171) -/
  | eventPathReset
  /-- CHANNEL_RESET (R183): bit n of the mask selects channel n -/
  | channelReset (mask : BitVec 8)
  /-- CHANNEL_RESET_TAKES_EFFECT (R84) -/
  | channelResetTakesEffect (n : ChanId)
  /-- SOFT_RESET (R183) -/
  | softReset
  /-- SOFT_RESET_TAKEN (R183) -/
  | softResetTaken
  /-- DISCARDED_FRAME (R175): the bytes shifted in -/
  | discardedFrame (bytes : List Byte)
  /-- POWER_ON_RESET (R184) -/
  | powerOnReset
deriving DecidableEq, Repr

end Sys2Proof
end

