-- ==== Sys2Proof/Decode.lean ====
section
/-! DEFINITION. The decoder over the table's bits: no row of spec/opcode_table.json gives bits, so no word spells a
command (log 24). -/

namespace Sys2Proof

/-- The command that a word spells by the table's bits: none, since no row has bits (spec/98_reader.md:
n_rows_with_fixed 0). -/
def decodeTableWord (_nbits _w : Nat) : Option Instr := none

end Sys2Proof
end

