-- ==== Sys2Proof/Config.lean ====
section
/-! DEFINITION. What is fixed for the part, and the free values: what the spec leaves open. -/

namespace Sys2Proof

/-- Pass Queue capacity (R3). -/
def Config.passCapacity : Nat := 8

/-- In-flight list capacity (R14). -/
def Config.inflightCapacity : Nat := 4

/-- Pending Event Queue capacity, counting the event in post (R148). -/
def Config.queueCapacity : Nat := 8

/-- The age at which an UPKEEP claim is granted ahead of every other class (R139, R141). -/
def Config.agedAt : Nat := 16

/-- The number of consecutive empty segments that faults a channel (R114). -/
def Config.emptyRunLimit : Nat := 16

/-- PART_ID: part number 0x58, revision 1 (R176). -/
def Config.partId : Word := 0x00580001#32

/-- FREE VALUE (log 8, DESIGN CHOICE): the data bytes of the held response after an ACK to a WRITE frame.
R175 gives them for a READ and for a NAK only. Applied to State's free counter. -/
opaque Config.freeAckData : Nat → Word

/-- FREE VALUE (log 8, DESIGN CHOICE): a byte shifted out after the sixth byte of a frame that is too long (R175
gives the first six). Applied to State's free counter. -/
opaque Config.freeShiftedByte : Nat → Byte

end Sys2Proof
end

