-- ==== Sys2Proof/Machine/State.lean ====
section
/-! DEFINITION. The state of the GA58 as plain data, and the state after power-on reset. Each part cites the rule of
spec/ that names it; INVENTORY.md lists every part with its reset value. -/

namespace Sys2Proof.Machine

/-- Why a step stops. The spec names nothing that stops the part: every trouble it describes is a change of state (a
faulted channel, a latch, an ERROR response, a NAK), so no constructor stands here and no step faults. -/
inductive Fault where
deriving DecidableEq, Repr

/-- What the model does not do. -/
inductive Refusal where
  /-- Raised by an arm of exec that has no meaning yet, with the row's mnemonic; no arm uses it. Safe: the model stops
  where the part goes on. -/
  | notModelled (mnemonic : String)
deriving DecidableEq, Repr

/-! ## The memory path (R1 to R19) -/

/-- The kind of a request or an access (R1, R2). -/
inductive Kind where
  | read
  | write
deriving DecidableEq, Repr

/-- The classes of a passing request (R7). -/
inductive PassClass where
  | plain
  | record
  | cellrec
  | ringctl
  | ringbody
  | cellhit
deriving DecidableEq, Repr

/-- A request of the initiator (R1); a READ carries no lanes and no data, and its two fields are not used. -/
structure Request where
  kind : Kind
  addr : Addr
  lanes : Lanes
  data : Word
deriving DecidableEq, Repr

/-- A response at the I-port (R1): OKAY with a word for a READ, OKAY for a WRITE, or ERROR. -/
inductive PassResponse where
  | okayRead (data : Word)
  | okayWrite
  | error
deriving DecidableEq, Repr

/-- The phase of a Pass Queue entry (01, section 1.2); an ANSWERED entry holds its response. -/
inductive PassPhase where
  | waiting
  | issued
  | answered (response : PassResponse)
deriving DecidableEq, Repr

/-- A Pass Queue entry (01, section 1.2). `cls` is the class in force at the entry's grant (R8); before the grant the
class is a view of the state (State.classify). -/
structure PassEntry where
  id : Nat
  request : Request
  phase : PassPhase
  cls : Option PassClass
deriving DecidableEq, Repr

/-- The Pass Queue (R3), the requests that stay offered while it is full, in the order offered (R1), and the identity
that the next entry takes (R10; model's own numbering, log 9). -/
structure PassQueue where
  entries : List PassEntry
  offered : List Request
  nextId : Nat
deriving DecidableEq, Repr

/-! ## The channel record and its line (R39) -/

/-- The words of a channel record, at record words 0 to 7 (02, section 2.4). -/
inductive RecWord where
  | count
  | address
  | control
  | status
  | chain
  | cookie
  | done
  | segments
deriving DecidableEq, Repr

/-- One thing per record word. -/
structure Record (α : Type) where
  count : α
  address : α
  control : α
  status : α
  chain : α
  cookie : α
  done : α
  segments : α
deriving DecidableEq, Repr

/-- A held value and its held lanes: one word of an overlay (R39, R109, R119). -/
structure HeldLanes where
  value : Word
  lanes : Lanes
deriving DecidableEq, Repr

/-- The merge overlay of a granted fill (R39): held lanes of five words, and the written-since marks of the part-written
words. -/
structure FillOverlay where
  count : HeldLanes
  address : HeldLanes
  control : HeldLanes
  chain : HeldLanes
  cookie : HeldLanes
  status : Bool
  done : Bool
  segments : Bool
deriving DecidableEq, Repr

/-- The fill phase (R39); a granted fill keeps the words returned so far (R46) and the overlay. -/
inductive FillPhase where
  | claimed
  | granted (words : List Word) (overlay : FillOverlay)
deriving DecidableEq, Repr

/-- The writeback phase (R39); a granted writeback has responses outstanding and perhaps a failed word, the first in
word order (R53, R164). -/
inductive WbPhase where
  | none
  | claimed
  | granted (outstanding : Nat) (failed : Option RecWord)
deriving DecidableEq, Repr

/-- What waits for the end of a writeback (R55): a reload (R59), the final event of ENDING (R80), the invalidation of a
CLEAR from FAULTED (R73), or nothing. -/
inductive WbConsequence where
  | nothing
  | reload
  | finalEvent
  | clear
deriving DecidableEq, Repr

/-- The triggers that one writeback serves (R55): what waits for its end, and whether it belongs to the disable
sequence (R164, R181). -/
structure WbServes where
  consequence : WbConsequence
  disable : Bool
deriving DecidableEq, Repr

/-- The parts of a VALID line (R39): words, dirty marks, writeback phase and what the writeback serves, and the writeback
requested flag with what the requested writeback will serve. -/
structure ValidLine where
  words : Record Word
  dirty : Record Bool
  wbPhase : WbPhase
  serves : WbServes
  requested : Option WbServes
deriving DecidableEq, Repr

/-- A Descriptor Cache line (R39): each state holds the parts that are present in it. -/
inductive Line where
  | invalid
  | filling (phase : FillPhase) (waiting : CommandCode)
  | valid (v : ValidLine)
deriving DecidableEq, Repr

/-! ## Events (R35) -/

/-- The event kinds (R35, 09 section 9.6). -/
inductive EventKind where
  | terminal
  | segmentDone
  | halted
  | aborted
  | fault
  | commandRefused
  | cellLimit
  | cellRange
  | cellRejected
  | cellFault
  | consumerRejected
deriving DecidableEq, Repr

/-- An event: every field but SEQUENCE, which the post assigns (R35). SOURCE_TYPE is fixed by the kind. -/
structure Event where
  kind : EventKind
  source : BitVec 4
  word1 : Word
  detailA : Word
  detailB : Word
deriving DecidableEq, Repr

/-! ## Channels (R62, R88, R109) -/

/-- The channel states (R26, R62). -/
inductive ChanState where
  | off
  | loading
  | ready
  | pending
  | moving
  | linking
  | draining
  | halted
  | ending
  | faulted
deriving DecidableEq, Repr

/-- The fault codes (R38). -/
inductive FaultCode where
  | badSetup
  | windowTarget
  | addressRange
  | memoryData
  | memoryDescriptor
  | memoryChain
  | chainEmptyRun
  | cellGone
  | cellFetch
  | portProtocol
deriving DecidableEq, Repr

/-- The refusal reasons of a command (R38). -/
inductive RefusalReason where
  | notAllowedInState
  | setupLocked
  | unknownCommand
deriving DecidableEq, Repr

/-- MODE (R24). -/
inductive Mode where
  | counted
  | cell
  | direct
deriving DecidableEq, Repr

/-- TRACK (R24). -/
inductive Track where
  | lazy
  | strict
deriving DecidableEq, Repr

/-- A channel's latched setup (R62). -/
structure Setup where
  mode : Mode
  direction : Direction
  track : Track
deriving DecidableEq, Repr

/-- The ending kind (R62); ABORTED keeps the COUNT that stood in the line at the entry to ENDING (R80). -/
inductive EndingKind where
  | terminal
  | aborted (count : BitVec 24)
deriving DecidableEq, Repr

/-- A channel fault waiting to be taken (R62, R78): code, offending address, and whether the entry to FAULTED it makes
counts as one by a writeback failure, which triggers no writeback (R54, R164, R165). -/
structure PendingFault where
  code : FaultCode
  address : Addr
  noWriteback : Bool
deriving DecidableEq, Repr

/-- EV_END and HOLD of a segment (R109). -/
structure SegFlags where
  evEnd : Bool
  hold : Bool
deriving DecidableEq, Repr

/-- What the completion of a break group found in the line (R74, R116), and whether the segment-end handling has reached
its step 3 (R116). -/
structure BreakEnd where
  countZero : Bool
  chainZero : Bool
  evSegment : Bool
  segmentDone : Bool
deriving DecidableEq, Repr

/-- What the completion of a link found in the line after the load (R114), the flags loaded and the segment's address. -/
structure LinkEnd where
  countZero : Bool
  chainZero : Bool
  flags : SegFlags
  segment : Addr
deriving DecidableEq, Repr

/-- A completion whose transition waits for the end of a stall (R62, R82). -/
inductive HeldCompletion where
  | breakGroup (e : BreakEnd)
  | install
  | link (e : LinkEnd)
  | ending
deriving DecidableEq, Repr

/-- A Channel Controller (R62). -/
structure Controller where
  state : ChanState
  startCount : BitVec 8
  lastFault : Option FaultCode
  lastRefusal : Option RefusalReason
  setup : Option Setup
  ending : Option EndingKind
  abortRecorded : Bool
  pendingFault : Option PendingFault
  stalled : Option Event
  heldCompletion : Option HeldCompletion
  mailbox : CommandCode
  clearing : Bool
deriving DecidableEq, Repr

/-- How the word of a granted break stands (R101): not moved yet; moved (with the word of an OUT); ended without moving
with a code; the empty-count completion (R94). -/
inductive BreakResult where
  | outstanding
  | moved (data : Option Word)
  | failed (code : FaultCode)
  | emptyCount
deriving DecidableEq, Repr

/-- The Break Engine slot of a granted break (R88): whether the grant stepped the line, and whether it touched ADDRESS
(stepped it, or marked it clean for a STRICT write; log 16), the values captured before the step (R96, R102), which of
COUNT and ADDRESS a passing write has replaced since (R102), the data address and the result. -/
structure BreakProgress where
  stepped : Bool
  addressTouched : Bool
  prevCount : Word
  prevAddress : Word
  prevDone : Word
  countReplaced : Bool
  addressReplaced : Bool
  dataAddr : Addr
  result : BreakResult
deriving DecidableEq, Repr

/-- A channel port in its phase (R88), with the request copy and the granted group's progress. -/
inductive Port where
  | idle
  | held (req : DeviceRequest)
  | accepted (req : DeviceRequest)
  | granted (req : DeviceRequest) (progress : BreakProgress)
deriving DecidableEq, Repr

/-- The link overlay (R109). -/
structure LinkOverlay where
  count : HeldLanes
  address : HeldLanes
  chain : HeldLanes
deriving DecidableEq, Repr

/-- The link phase with the parts present in it (R109). -/
inductive LinkPhase where
  | none
  | claimed (segment : Addr)
  | granted (segment : Addr) (words : List Word) (overlay : LinkOverlay)
deriving DecidableEq, Repr

/-- A channel's Chain Walker (R109). -/
structure Walker where
  phase : LinkPhase
  emptyRun : Nat
  flags : SegFlags
deriving DecidableEq, Repr

/-- One channel: its controller, port and Break Engine slot, line, quiet timer (remaining µs while running, R57) and
Chain Walker. -/
structure Channel where
  ctl : Controller
  port : Port
  line : Line
  quiet : Option Nat
  walker : Walker
deriving DecidableEq, Repr

/-! ## Step cells (R119) -/

/-- The fields of a LIVE cell (R119): STEP, BOUND_MODE (set is SATURATE), EV_LIMIT, EV_RANGE, LOW, HIGH. -/
structure CellFields where
  step : BitVec 8
  saturate : Bool
  evLimit : Bool
  evRange : Bool
  low : Word
  high : Word
deriving DecidableEq, Repr

/-- The load overlay (R119). -/
structure CellOverlay where
  setup : HeldLanes
  low : HeldLanes
  high : HeldLanes
deriving DecidableEq, Repr

/-- The load phase (R119); a granted load keeps the words returned OKAY so far. -/
inductive LoadPhase where
  | due
  | claimed
  | granted (words : List Word) (overlay : CellOverlay)
deriving DecidableEq, Repr

/-- REJECT_REASON (R31). -/
inductive RejectReason where
  | inWindow
  | duplicate
  | zeroStep
  | badBounds
  | tableReadError
deriving DecidableEq, Repr

/-- CSTATE with the parts present in it (R119). -/
inductive CellState where
  | off
  | loading (phase : LoadPhase)
  | live (fields : CellFields)
  | rejected (reason : RejectReason)
deriving DecidableEq, Repr

/-- The kinds of a cell occurrence (R130). -/
inductive OccKind where
  | limit
  | range
  | rejected
  | fault
deriving DecidableEq, Repr

/-- A held occurrence (R119, R131): kind, detail value, MERGE. -/
structure Occurrence where
  kind : OccKind
  detail : Word
  merge : BitVec 8
deriving DecidableEq, Repr

/-- A cell entry (R119). -/
structure Cell where
  cstate : CellState
  copy : Word
  atLimit : Bool
  statusDue : Bool
  queuedMark : Bool
  held : Option Occurrence
deriving DecidableEq, Repr

/-! ## The M-port (R14, R136, R142) -/

/-- The accesses of a break that the break owns (R98). -/
inductive BreakAccess where
  | cellRead
  | data
  | countWrite
  | addressWrite
deriving DecidableEq, Repr

/-- The owner of an in-flight access (R14), with the place of the access in its owner's operation. `passCell` is the
read of a CELLHIT pair: owned by the Pass Queue entry, performed for the cell (R12). -/
inductive Owner where
  | pass (id : Nat)
  | passCell (id : Nat) (k : CellId)
  | brk (n : ChanId) (a : BreakAccess)
  | fill (n : ChanId) (word : Nat)
  | writeback (n : ChanId) (word : RecWord)
  | link (n : ChanId) (word : Nat)
  | cellLoad (k : CellId) (word : Nat)
  | cellStatus (k : CellId)
  | cellWriteBack (k : CellId)
  | post (write : Nat)
  | recovery
  | enable (access : Nat) (last : Bool)
deriving DecidableEq, Repr

/-- An entry of the in-flight list (R14); `orphan` marks an entry whose owner's operation was abandoned (R15). -/
structure InFlight where
  owner : Owner
  kind : Kind
  addr : Addr
  lanes : Lanes
  orphan : Bool
deriving DecidableEq, Repr

/-- An access decided and not issued yet: what will leave at the M-port (R2). -/
structure Access where
  owner : Owner
  kind : Kind
  addr : Addr
  lanes : Lanes
  data : Word
deriving DecidableEq, Repr

/-- The UPKEEP claims (R136). -/
inductive UpkeepKind where
  | fill (n : ChanId)
  | writeback (n : ChanId)
  | link (n : ChanId)
  | cellLoad (k : CellId)
  | cellStatus (k : CellId)
  | post
  | recovery
  | enable
deriving DecidableEq, Repr

/-- An UPKEEP claim in the arbiter's list, with its age (R141). -/
structure UpkeepClaim where
  kind : UpkeepKind
  age : Nat
deriving DecidableEq, Repr

/-- The identity of the group that holds the lock: the claim it was granted for (R142). -/
inductive GroupSource where
  | pass (id : Nat)
  | brk (n : ChanId)
  | upkeep (kind : UpkeepKind)
deriving DecidableEq, Repr

/-- The fetch whose cell read a group waits for (R144): the cell, and its address and fields as the entry held them at
the group's grant (R127). -/
structure Fetch where
  cell : CellId
  addr : Addr
  fields : CellFields
deriving DecidableEq, Repr

/-- The group that holds the lock (R142): its accesses still to be issued, and the fetch it waits for, if any. -/
structure Group where
  source : GroupSource
  todo : List Access
  fetch : Option Fetch
deriving DecidableEq, Repr

/-- The M-port: the in-flight list, oldest first (R14), and the lock (R142). -/
structure MPort where
  inflight : List InFlight
  lock : Option Group
deriving DecidableEq, Repr

/-- The arbiter's claims and counter (R136, R140): the UPKEEP list, oldest first, and the break-run counter. -/
structure Arbiter where
  upkeep : List UpkeepClaim
  breakRun : Nat
deriving DecidableEq, Repr

/-! ## The Event Unit (R147) -/

/-- The event in post (R147, R152): its SEQUENCE, and the pre-grant values kept for the rollback of R154. -/
structure InPost where
  event : Event
  sequence : RingIndex
  prevProducer : RingIndex
  prevSequence : RingIndex
  restored : Bool
deriving DecidableEq, Repr

/-- The post phase (R147); a granted post has responses outstanding. -/
inductive PostPhase where
  | none
  | claimed
  | granted (outstanding : Nat)
deriving DecidableEq, Repr

/-- EVENT_PATH (R33). -/
inductive EventPath where
  | ok
  | failed
deriving DecidableEq, Repr

/-- Intake (R147). -/
inductive Intake where
  | opened
  | closed
deriving DecidableEq, Repr

/-- The ATTENTION copy (R147). -/
structure Attention where
  enable : Bool
  threshold : BitVec 9
  holdoff : BitVec 16
deriving DecidableEq, Repr

/-- The recovery read (R147). -/
inductive Recovery where
  | none
  | claimed
  | granted
deriving DecidableEq, Repr

/-- The Event Unit (R147) and its ATTN output (R159). `queue` is the Pending Event Queue less the event in post; the
holdoff timer is stopped, or running with its elapsed µs (R158). -/
structure EventUnit where
  queue : List Event
  inPost : Option InPost
  postPhase : PostPhase
  producer : RingIndex
  consumer : RingIndex
  nextSequence : RingIndex
  path : EventPath
  restoreOwed : Bool
  heldRejection : Option Event
  intake : Intake
  attention : Attention
  holdoff : Option Nat
  recovery : Recovery
  overtaken : Bool
  attn : Bool
deriving DecidableEq, Repr

/-! ## The Management Unit (R174) -/

/-- The window states (R174). -/
inductive WindowState where
  | disabled
  | enabling
  | enabled
  | disabling
deriving DecidableEq, Repr

/-- FAULT_STATUS (R169). -/
structure FaultStatus where
  eventPathFailed : Bool
  ringMisuse : Bool
  enableReadError : Bool
  statusWriteLost : Bool
deriving DecidableEq, Repr

/-- The step of the enable sequence (R179) or of the disable sequence (R181) under way; `e4` keeps the words its group
has returned, `d3` is the wait for the boundary after D2 (R182). -/
inductive SeqStep where
  | e1
  | e2
  | e3
  | e4 (k : CellId) (words : List Word)
  | e5
  | d1
  | d2
  | d3
deriving DecidableEq, Repr

/-- The status byte of a frame response (R175). -/
inductive FrameStatus where
  | ack
  | nakIndex
  | nakValue
  | nakState
deriving DecidableEq, Repr

/-- The held response (R174). -/
structure FrameResponse where
  status : FrameStatus
  data : Word
deriving DecidableEq, Repr

/-- The Management Unit (R174). -/
structure Mgmt where
  windowState : WindowState
  windowBase : Addr
  enable : Bool
  ringSize : BitVec 3
  breakRunLimit : BitVec 4
  quietInterval : BitVec 12
  faults : FaultStatus
  sequence : Option SeqStep
  softWaiting : Bool
  flushWaiting : Bool
  resetMask : BitVec 8
  frame : List Byte
  response : FrameResponse
deriving DecidableEq, Repr

/-! ## What the part sends -/

/-- The port refusals (R87). -/
inductive PortRefusal where
  | notArmed
  | directionMismatch
  | channelFaulted
deriving DecidableEq, Repr

/-- The part's answers on a channel port (R87). -/
inductive Answer where
  | granted
  | complete (data : Option Word) (last segmentEnd : Bool)
  | failed (code : FaultCode)
  | cancelled
  | refused (reason : PortRefusal)
deriving DecidableEq, Repr

/-- A message the part sends at one of its ports: an access at the M-port (a read carries no lanes and no data: `read`),
a response at the I-port, an answer on a channel port, the bytes shifted out during a frame. -/
inductive PortMessage where
  | memRead (addr : Addr)
  | memWrite (addr : Addr) (lanes : Lanes) (data : Word)
  | response (r : PassResponse)
  | answer (n : ChanId) (a : Answer)
  | shifted (bytes : List Byte)
deriving DecidableEq, Repr

/-- The state of the part, with the model's own fields: the position in the free values (log 8), the messages sent so
far, oldest first (log 9), and the queue of commands that are waiting. -/
structure State where
  pass : PassQueue
  mport : MPort
  arb : Arbiter
  channels : Vector Channel 8
  cells : Vector Cell 16
  events : EventUnit
  mgmt : Mgmt
  freeCounter : Nat
  out : List PortMessage
  pending : List Instr
deriving DecidableEq, Repr

/-- What a command answers. -/
abbrev Result := Host.Outcome State Fault Refusal

/-! ## Reset -/

/-- A Channel Controller after power-on reset (R62). -/
def Controller.reset : Controller where
  state := .off
  startCount := 0#8
  lastFault := none
  lastRefusal := none
  setup := none
  ending := none
  abortRecorded := false
  pendingFault := none
  stalled := none
  heldCompletion := none
  mailbox := 0#3
  clearing := false

/-- A Chain Walker after reset (R109). -/
def Walker.reset : Walker where
  phase := .none
  emptyRun := 0
  flags := { evEnd := false, hold := false }

/-- A channel after power-on reset (R39, R62, R88, R109). -/
def Channel.reset : Channel where
  ctl := .reset
  port := .idle
  line := .invalid
  quiet := none
  walker := .reset

/-- A cell entry after reset (R119). -/
def Cell.reset : Cell where
  cstate := .off
  copy := 0#32
  atLimit := false
  statusDue := false
  queuedMark := false
  held := none

/-- The Event Unit's reset values (R147); ATTN is low (R159). -/
def EventUnit.reset : EventUnit where
  queue := []
  inPost := none
  postPhase := .none
  producer := 0#16
  consumer := 0#16
  nextSequence := 0#16
  path := .ok
  restoreOwed := false
  heldRejection := none
  intake := .opened
  attention := { enable := false, threshold := 1#9, holdoff := 0#16 }
  holdoff := none
  recovery := .none
  overtaken := false
  attn := false

/-- FAULT_STATUS with every latch clear (R169). -/
def FaultStatus.clear : FaultStatus where
  eventPathFailed := false
  ringMisuse := false
  enableReadError := false
  statusWriteLost := false

/-- The Management Unit after power-on reset (R174). -/
def Mgmt.reset : Mgmt where
  windowState := .disabled
  windowBase := 0#26
  enable := false
  ringSize := 0#3
  breakRunLimit := 4#4
  quietInterval := 0#12
  faults := .clear
  sequence := none
  softWaiting := false
  flushWaiting := false
  resetMask := 0#8
  frame := []
  response := { status := .ack, data := 0#32 }

/-- The part right after power-on reset (R18, R62, R119, R146, R147, R174); the model's own fields empty (log 8, log 9). -/
def State.reset : State where
  pass := { entries := [], offered := [], nextId := 0 }
  mport := { inflight := [], lock := none }
  arb := { upkeep := [], breakRun := 0 }
  channels := Vector.replicate 8 .reset
  cells := Vector.replicate 16 .reset
  events := .reset
  mgmt := .reset
  freeCounter := 0
  out := []
  pending := []

end Sys2Proof.Machine
end

