-- ==== Sys2Proof/Machine/Ops.lean ====
section
/-! DEFINITION. The named operations over words, record words, the window map, the parts of State, the claims, the
M-port and the outputs. Everything a meaning does goes through these. -/

namespace Sys2Proof.Machine

/-! ## Words and lanes (R13, R22) -/

/-- The bits of the enabled lanes (R22: lane 0 is bits 7:0). -/
def laneMask (l : Lanes) : Word :=
  (if l.getLsbD 0 then 0x000000FF#32 else 0#32) ||| (if l.getLsbD 1 then 0x0000FF00#32 else 0#32) |||
  (if l.getLsbD 2 then 0x00FF0000#32 else 0#32) ||| (if l.getLsbD 3 then 0xFF000000#32 else 0#32)

/-- The enabled lanes of `data` laid over `old` (R13). -/
def lay (l : Lanes) (data old : Word) : Word := (data &&& laneMask l) ||| (old &&& ~~~laneMask l)

/-- All four lanes: every write of the part's own carries them (R2). -/
def allLanes : Lanes := 0xF#4

/-- The field of `len` bits at bit `start` of a word. -/
def field (start len : Nat) (w : Word) : BitVec len := w.extractLsb' start len

/-- A word with the field of `len` bits at bit `start` replaced, its other bits kept (R22). -/
def setField (start len : Nat) (v : BitVec len) (w : Word) : Word :=
  let m : Word := (BitVec.allOnes len).setWidth 32 <<< start
  (w &&& ~~~m) ||| ((v.setWidth 32 <<< start) &&& m)

/-- Overlay bytes: the enabled lanes of `data` replace the held bytes, and join the held lanes (R48). -/
def HeldLanes.merge (h : HeldLanes) (l : Lanes) (data : Word) : HeldLanes :=
  { value := lay l data h.value, lanes := h.lanes ||| l }

/-- The held lanes laid over a word (R49, R113, R124). -/
def HeldLanes.over (h : HeldLanes) (w : Word) : Word := lay h.lanes h.value w

/-- No lane held. -/
def HeldLanes.empty : HeldLanes := { value := 0#32, lanes := 0#4 }

/-- The empty fill overlay (R46). -/
def FillOverlay.empty : FillOverlay where
  count := .empty
  address := .empty
  control := .empty
  chain := .empty
  cookie := .empty
  status := false
  done := false
  segments := false

/-- The empty link overlay (R111). -/
def LinkOverlay.empty : LinkOverlay := { count := .empty, address := .empty, chain := .empty }

/-- The empty load overlay (R123). -/
def CellOverlay.empty : CellOverlay := { setup := .empty, low := .empty, high := .empty }

/-! ## Channel and cell numbers, record words -/

/-- The channels in channel order. -/
def chanIds : List ChanId := [0, 1, 2, 3, 4, 5, 6, 7]

/-- The cells in index order. -/
def cellIds : List CellId := [0, 1, 2, 3, 4, 5, 6, 7, 8, 9, 10, 11, 12, 13, 14, 15]

/-- The record words in word order. -/
def recWords : List RecWord := [.count, .address, .control, .status, .chain, .cookie, .done, .segments]

/-- The record word's place in the record (02, section 2.4). -/
def RecWord.index : RecWord → Nat
  | .count => 0
  | .address => 1
  | .control => 2
  | .status => 3
  | .chain => 4
  | .cookie => 5
  | .done => 6
  | .segments => 7

/-- The record word at a place, taken modulo 8 (R21). -/
def RecWord.ofIndex (i : Nat) : RecWord :=
  match i % 8 with
  | 0 => .count
  | 1 => .address
  | 2 => .control
  | 3 => .status
  | 4 => .chain
  | 5 => .cookie
  | 6 => .done
  | _ => .segments

/-- One thing of a record. -/
def Record.get {α : Type} (r : Record α) : RecWord → α
  | .count => r.count
  | .address => r.address
  | .control => r.control
  | .status => r.status
  | .chain => r.chain
  | .cookie => r.cookie
  | .done => r.done
  | .segments => r.segments

/-- A record with one thing replaced. -/
def Record.set {α : Type} (r : Record α) (w : RecWord) (x : α) : Record α :=
  match w with
  | .count => { r with count := x }
  | .address => { r with address := x }
  | .control => { r with control := x }
  | .status => { r with status := x }
  | .chain => { r with chain := x }
  | .cookie => { r with cookie := x }
  | .done => { r with done := x }
  | .segments => { r with segments := x }

/-- The same thing for every record word. -/
def Record.fill {α : Type} (x : α) : Record α := ⟨x, x, x, x, x, x, x, x⟩

/-- Some word is marked. -/
def Record.any (r : Record Bool) : Bool :=
  r.count || r.address || r.control || r.status || r.chain || r.cookie || r.done || r.segments

/-! ## Parts of State -/

/-- Channel n. -/
def State.chan (s : State) (n : ChanId) : Channel := s.channels[n]

/-- Channel n replaced. -/
def State.setChan (s : State) (n : ChanId) (c : Channel) : State := { s with channels := s.channels.set n c }

/-- Channel n changed. -/
def State.modChan (s : State) (n : ChanId) (f : Channel → Channel) : State := s.setChan n (f (s.chan n))

/-- Cell k. -/
def State.cell (s : State) (k : CellId) : Cell := s.cells[k]

/-- Cell k replaced. -/
def State.setCell (s : State) (k : CellId) (c : Cell) : State := { s with cells := s.cells.set k c }

/-- Cell k changed. -/
def State.modCell (s : State) (k : CellId) (f : Cell → Cell) : State := s.setCell k (f (s.cell k))

/-- The Event Unit changed. -/
def State.modEvents (s : State) (f : EventUnit → EventUnit) : State := { s with events := f s.events }

/-- The Management Unit changed. -/
def State.modMgmt (s : State) (f : Mgmt → Mgmt) : State := { s with mgmt := f s.mgmt }

/-- A message leaves at a port. -/
def State.send (s : State) (m : PortMessage) : State := { s with out := s.out ++ [m] }

/-- Every channel changed. -/
def State.mapChannels (s : State) (f : Channel → Channel) : State := { s with channels := s.channels.map f }

/-- Every cell changed. -/
def State.mapCells (s : State) (f : Cell → Cell) : State := { s with cells := s.cells.map f }

/-! ## The window map (R20, R21) -/

/-- N: the slots of the event ring, by the RING_SIZE code (R20). -/
def State.ringSlots (s : State) : Nat := 16 * 2 ^ s.mgmt.ringSize.toNat

/-- The window's length in words (R20). -/
def State.windowLength (s : State) : Nat := 148 + 4 * s.ringSlots

/-- The window word at an address, if the address is inside the window (R20). -/
def State.windowWord (s : State) (a : Addr) : Option Nat :=
  if s.mgmt.windowBase.toNat ≤ a.toNat ∧ a.toNat - s.mgmt.windowBase.toNat < s.windowLength
  then some (a.toNat - s.mgmt.windowBase.toNat) else none

/-- An address is inside the window. -/
def State.inWindow (s : State) (a : Addr) : Bool := (s.windowWord a).isSome

/-- The address of a window word. -/
def State.wordAddr (s : State) (w : Nat) : Addr := s.mgmt.windowBase + BitVec.ofNat 26 w

/-- The address of a record word of channel n (R21). -/
def State.recordAddr (s : State) (n : ChanId) (w : RecWord) : Addr := s.wordAddr (8 * n.val + w.index)

/-- The ADDRESS of a cell entry: bits 25:0 of its address copy (R119). -/
def Cell.address (c : Cell) : Addr := field 0 26 c.copy

/-- The entry is LIVE. -/
def Cell.isLive (c : Cell) : Bool :=
  match c.cstate with
  | .live _ => true
  | _ => false

/-- The entry is LOADING or LIVE: its address counts for check 2 (R121). -/
def Cell.isRegistered (c : Cell) : Bool :=
  match c.cstate with
  | .live _ => true
  | .loading _ => true
  | _ => false

/-- The LIVE cell at an address, if any: the live cell set read by the Classifier (R6). -/
def State.liveCellAt (s : State) (a : Addr) : Option CellId :=
  cellIds.find? fun k => (s.cell k).isLive && (s.cell k).address == a

/-- The class of a request (R7): the first test it meets. -/
def State.classify (s : State) (r : Request) : PassClass :=
  if s.mgmt.windowState = .disabled then .plain
  else match s.windowWord r.addr with
    | some w => if w < 64 then .record else if w < 144 then .cellrec else if w < 148 then .ringctl else .ringbody
    | none => if r.kind = .read ∧ (s.liveCellAt r.addr).isSome then .cellhit else .plain

/-! ## Claims (R136, R137) -/

/-- An UPKEEP claim joins the tail of the list with age 0 (R137). -/
def State.raise (s : State) (k : UpkeepKind) : State :=
  { s with arb := { s.arb with upkeep := s.arb.upkeep ++ [{ kind := k, age := 0 }] } }

/-- UPKEEP claims leave the list without a grant (R137). -/
def State.withdraw (s : State) (p : UpkeepKind → Bool) : State :=
  { s with arb := { s.arb with upkeep := s.arb.upkeep.filter fun c => !p c.kind } }

/-- A claim is raised. -/
def State.claimed (s : State) (k : UpkeepKind) : Bool := s.arb.upkeep.any fun c => c.kind == k

/-- The claim is one of line n. -/
def UpkeepKind.ofLine (n : ChanId) : UpkeepKind → Bool
  | .fill m => m == n
  | .writeback m => m == n
  | _ => false

/-- The claim is one of channel n's line or Chain Walker (R145). -/
def UpkeepKind.ofChannel (n : ChanId) : UpkeepKind → Bool
  | .fill m => m == n
  | .writeback m => m == n
  | .link m => m == n
  | _ => false

/-! ## Issue and response (R14, R142) -/

/-- The in-flight list has a free place (R14). -/
def State.hasRoom (s : State) : Bool := decide (s.mport.inflight.length < Config.inflightCapacity)

/-- What an access is at the M-port (R2). -/
def Access.message (a : Access) : PortMessage :=
  match a.kind with
  | .read => .memRead a.addr
  | .write => .memWrite a.addr a.lanes a.data

/-- An access leaves at the M-port and joins the in-flight list (R14). -/
def State.issue (s : State) (a : Access) : State :=
  { s with
    mport := { s.mport with
      inflight := s.mport.inflight ++
        [{ owner := a.owner, kind := a.kind, addr := a.addr, lanes := a.lanes, orphan := false }] }
    out := s.out ++ [a.message] }

/-- A read of the part's own (R2). -/
def Access.ofRead (o : Owner) (a : Addr) : Access := { owner := o, kind := .read, addr := a, lanes := allLanes, data := 0#32 }

/-- A write of the part's own, with all four lanes (R2). -/
def Access.ofWrite (o : Owner) (a : Addr) (d : Word) : Access :=
  { owner := o, kind := .write, addr := a, lanes := allLanes, data := d }

/-- A granted group: its first access is issued, and the lock is held while it has more to issue or waits for a fetch
(R142, R144). A group with no access takes no lock (R143). -/
def State.startGroup (s : State) (src : GroupSource) (accs : List Access) (fetch : Option Fetch) : State :=
  match accs with
  | [] => s
  | a :: rest =>
    let s := s.issue a
    { s with mport := { s.mport with
        lock := if rest.isEmpty && fetch.isNone then none else some { source := src, todo := rest, fetch := fetch } } }

/-- The lock is held by a group. -/
def State.heldBy (s : State) (src : GroupSource) : Bool :=
  match s.mport.lock with
  | some g => g.source == src
  | none => false

/-- The owning block ends its group early: its accesses still to issue are never issued and the lock is released (R142). -/
def State.endGroup (s : State) (src : GroupSource) : State :=
  if s.heldBy src then { s with mport := { s.mport with lock := none } } else s

/-- In-flight entries whose operation is abandoned (R15). -/
def State.orphan (s : State) (p : Owner → Bool) : State :=
  { s with mport := { s.mport with
      inflight := s.mport.inflight.map fun e => if p e.owner then { e with orphan := true } else e } }

/-- The access is one of the break of channel n (R14). -/
def Owner.isBreak (n : ChanId) : Owner → Bool
  | .brk m _ => m == n
  | _ => false

/-- The access is a fill read of line n. -/
def Owner.isFill (n : ChanId) : Owner → Bool
  | .fill m _ => m == n
  | _ => false

/-- The access is a link read of channel n. -/
def Owner.isLink (n : ChanId) : Owner → Bool
  | .link m _ => m == n
  | _ => false

/-- The access is a load read of cell k. -/
def Owner.isCellLoad (k : CellId) : Owner → Bool
  | .cellLoad j _ => j == k
  | _ => false

/-- The access is a fill or link read of channel n, the entries that CHANNEL_RESET orphans (R145). -/
def Owner.isFillOrLink (n : ChanId) (o : Owner) : Bool := o.isFill n || o.isLink n

/-- The access is owned by a Pass Queue entry (R14). -/
def Owner.isPass : Owner → Bool
  | .pass _ => true
  | .passCell _ _ => true
  | _ => false

/-- The access is owned by a line, a Chain Walker, a cell or the Event Unit (R182). -/
def Owner.ofWindowBlock : Owner → Bool
  | .fill _ _ => true
  | .writeback _ _ => true
  | .link _ _ => true
  | .cellLoad _ _ => true
  | .cellStatus _ => true
  | .cellWriteBack _ => true
  | .post _ => true
  | .recovery => true
  | _ => false

/-- The access is owned by the Management Unit or a cell (R168). -/
def Owner.ofEnableOrCell : Owner → Bool
  | .enable _ _ => true
  | .cellLoad _ _ => true
  | .cellStatus _ => true
  | .cellWriteBack _ => true
  | _ => false

/-- The rows of the table that a memory response can be: the row of the oldest in-flight entry (R15). -/
inductive ResponseRow where
  | forwarded
  | cellhitRead
  | cellWriteBack
  | breakCellRead
  | breakData
  | strictWrite
  | fillRead
  | writebackWrite
  | linkRead
  | cellLoad
  | cellStatus
  | postWrite
  | recoveryRead
  | enableStep
  | orphaned
deriving DecidableEq, Repr

/-- The row of the response that answers an in-flight entry (R15). -/
def InFlight.row (e : InFlight) : ResponseRow :=
  if e.orphan then .orphaned
  else match e.owner with
    | .pass _ => .forwarded
    | .passCell _ _ => .cellhitRead
    | .brk _ .cellRead => .breakCellRead
    | .brk _ .data => .breakData
    | .brk _ .countWrite => .strictWrite
    | .brk _ .addressWrite => .strictWrite
    | .fill _ _ => .fillRead
    | .writeback _ _ => .writebackWrite
    | .link _ _ => .linkRead
    | .cellLoad _ _ => .cellLoad
    | .cellStatus _ => .cellStatus
    | .cellWriteBack _ => .cellWriteBack
    | .post _ => .postWrite
    | .recovery => .recoveryRead
    | .enable _ _ => .enableStep

/-- A response of a row arrives: it belongs to the oldest in-flight entry, which leaves the list, and its owner takes it
(R15). Where the list is empty the response is discarded (R15, R18); where the oldest entry is of another row, this
response is not the one that arrives, and nothing happens (log 3). -/
def State.respond (s : State) (row : ResponseRow) (take : InFlight → State → State) : State :=
  match s.mport.inflight with
  | [] => s
  | e :: rest => if e.row = row then take e { s with mport := { s.mport with inflight := rest } } else s

/-! ## Channel numbers in a mask -/

/-- Channel n is in the waiting CHANNEL_RESET mask (R174). -/
def State.resetWaits (s : State) (n : ChanId) : Bool := s.mgmt.resetMask.getLsbD n.val

end Sys2Proof.Machine
end

