-- ==== Sys2Proof/Machine/Operands.lean ====
section
/-! DEFINITION. The formats: fields and codes of the record, cell, ring and event words and of the management registers,
at the bit positions of the layout tables (R22, R38, R176). -/

namespace Sys2Proof.Machine

/-! ## Codes (R38) -/

/-- STATE codes (R38). -/
def ChanState.code : ChanState → BitVec 4
  | .off => 0
  | .loading => 1
  | .ready => 2
  | .pending => 3
  | .moving => 4
  | .linking => 5
  | .draining => 6
  | .halted => 7
  | .ending => 8
  | .faulted => 9

/-- Fault codes (R38). -/
def FaultCode.code : FaultCode → BitVec 4
  | .badSetup => 1
  | .windowTarget => 2
  | .addressRange => 3
  | .memoryData => 4
  | .memoryDescriptor => 5
  | .memoryChain => 6
  | .chainEmptyRun => 7
  | .cellGone => 8
  | .cellFetch => 9
  | .portProtocol => 10

/-- LAST_FAULT: 0 NONE, or the fault code. -/
def lastFaultCode : Option FaultCode → BitVec 4
  | none => 0
  | some f => f.code

/-- Refusal reason codes (R38). -/
def RefusalReason.code : RefusalReason → BitVec 2
  | .notAllowedInState => 1
  | .setupLocked => 2
  | .unknownCommand => 3

/-- LAST_REFUSAL: 0 NONE, or the reason. -/
def lastRefusalCode : Option RefusalReason → BitVec 2
  | none => 0
  | some r => r.code

/-- REJECT_REASON codes other than NONE (R38). -/
def RejectReason.code : RejectReason → BitVec 3
  | .inWindow => 1
  | .duplicate => 2
  | .zeroStep => 3
  | .badBounds => 4
  | .tableReadError => 5

/-- KIND codes (R38). -/
def EventKind.code : EventKind → BitVec 4
  | .terminal => 1
  | .segmentDone => 2
  | .halted => 3
  | .aborted => 4
  | .fault => 5
  | .commandRefused => 6
  | .cellLimit => 7
  | .cellRange => 8
  | .cellRejected => 9
  | .cellFault => 10
  | .consumerRejected => 11

/-- SOURCE_TYPE, fixed by the kind (R35): 0 CHANNEL, 1 CELL, 2 RING. -/
def EventKind.sourceType : EventKind → BitVec 2
  | .terminal => 0
  | .segmentDone => 0
  | .halted => 0
  | .aborted => 0
  | .fault => 0
  | .commandRefused => 0
  | .cellLimit => 1
  | .cellRange => 1
  | .cellRejected => 1
  | .cellFault => 1
  | .consumerRejected => 2

/-- The event kind of a cell occurrence (R130). -/
def OccKind.event : OccKind → EventKind
  | .limit => .cellLimit
  | .range => .cellRange
  | .rejected => .cellRejected
  | .fault => .cellFault

/-! ## The channel record (R38) -/

/-- COUNT of a word. -/
def countOf (w : Word) : BitVec 24 := field 0 24 w

/-- A 26-bit address field: ADDRESS, CHAIN, NEXT (R38). -/
def addrOf (w : Word) : Addr := field 0 26 w

/-- SEGMENTS of a word. -/
def segmentsOf (w : Word) : BitVec 16 := field 0 16 w

/-- The setup fields of CONTROL as they stand: MODE, DIRECTION and TRACK, bits 5:0. -/
def setupBits (w : Word) : BitVec 6 := field 0 6 w

/-- STRIDE of CONTROL: two's complement in bits 10:6. -/
def strideOf (w : Word) : Int := (field 6 5 w).toInt

/-- EV_SEGMENT of CONTROL. -/
def evSegmentOf (w : Word) : Bool := w.getLsbD 11

/-- COMMAND of CONTROL, bits 14:12. -/
def commandOf (w : Word) : CommandCode := field 12 3 w

/-- CONTROL with COMMAND replaced. -/
def setCommand (c : CommandCode) (w : Word) : Word := setField 12 3 c w

/-- STRIDE is a valid code: −8 to +8 (R24). -/
def strideValid (w : Word) : Bool := decide (-8 ≤ strideOf w ∧ strideOf w ≤ 8)

/-- MODE, if its code is valid. -/
def modeOf (w : Word) : Option Mode :=
  match (field 0 2 w).toNat with
  | 0 => some .counted
  | 1 => some .cell
  | 2 => some .direct
  | _ => none

/-- DIRECTION, if its code is valid. -/
def directionOf (w : Word) : Option Direction :=
  match (field 2 2 w).toNat with
  | 1 => some .dirIn
  | 2 => some .dirOut
  | _ => none

/-- TRACK, if its code is valid. -/
def trackOf (w : Word) : Option Track :=
  match (field 4 2 w).toNat with
  | 0 => some .lazy
  | 1 => some .strict
  | _ => none

/-- The checks of setup validation (R69): the setup to latch, if every check passes. -/
def validateSetup (w : Word) : Option Setup :=
  match modeOf w, directionOf w, trackOf w with
  | some m, some d, some t => if strideValid w then some { mode := m, direction := d, track := t } else none
  | _, _, _ => none

/-- A STATUS word with the spare bits 0 (R26, R38). -/
def statusBits (st : ChanState) (f : Option FaultCode) (r : Option RefusalReason) (starts : BitVec 8) : Word :=
  st.code.setWidth 32 ||| ((lastFaultCode f).setWidth 32 <<< 4) ||| ((lastRefusalCode r).setWidth 32 <<< 8) |||
  (starts.setWidth 32 <<< 16)

/-- The controller's STATUS word. -/
def Controller.statusWord (c : Controller) : Word := statusBits c.state c.lastFault c.lastRefusal c.startCount

/-- EV_END and HOLD of a FLAGS word (R29, R38). -/
def flagsOf (w : Word) : SegFlags := { evEnd := w.getLsbD 0, hold := w.getLsbD 1 }

/-! ## Cells (R38) -/

/-- VALID of CELL_ADDR, bit 31. -/
def validOf (w : Word) : Bool := w.getLsbD 31

/-- A SETUP word of a cell with its bounds as the entry's fields (R30). -/
def cellFieldsOf (setup low high : Word) : CellFields where
  step := field 0 8 setup
  saturate := setup.getLsbD 8
  evLimit := setup.getLsbD 9
  evRange := setup.getLsbD 10
  low := low
  high := high

/-- The entry's SETUP fields as a word, for a write's lanes to be laid over (R126); its spare bits are not held and are 0
here, and no rule reads them. -/
def CellFields.setupWord (f : CellFields) : Word :=
  f.step.setWidth 32 ||| (if f.saturate then 0x100#32 else 0#32) ||| (if f.evLimit then 0x200#32 else 0#32) |||
  (if f.evRange then 0x400#32 else 0#32)

/-- CSTATE codes (R38). -/
def CellState.code : CellState → BitVec 2
  | .off => 0
  | .loading _ => 1
  | .live _ => 2
  | .rejected _ => 3

/-- REJECT_REASON of the status word: NONE unless REJECTED (R31). -/
def CellState.reasonCode : CellState → BitVec 3
  | .rejected r => r.code
  | _ => 0

/-- A cell status word with the spare bits 0 (R31, R38). -/
def cellStatusBits (st : CellState) (merge : BitVec 8) (atLimit : Bool) : Word :=
  st.code.setWidth 32 ||| (st.reasonCode.setWidth 32 <<< 4) ||| (merge.setWidth 32 <<< 8) |||
  (if atLimit then 0x10000#32 else 0#32)

/-- MERGE of the held occurrence, or 0 when there is none (R132). -/
def Cell.mergeCount (c : Cell) : BitVec 8 :=
  match c.held with
  | some o => o.merge
  | none => 0

/-- The contents of a cell status write (R132). -/
def Cell.statusWord (c : Cell) : Word := cellStatusBits c.cstate c.mergeCount c.atLimit

/-! ## The ring (R32, R33, R35, R38) -/

/-- A ring index in bits 15:0, the rest 0. -/
def indexWord (i : RingIndex) : Word := i.setWidth 32

/-- A RING_STATE word with the spare bits 0 (R33, R38). -/
def ringStateBits (seq : RingIndex) (size : BitVec 3) (path : EventPath) : Word :=
  seq.setWidth 32 ||| (size.setWidth 32 <<< 16) ||| (if path = .failed then 0x1000000#32 else 0#32)

/-- The ATTENTION settings of a word (R33, R38). -/
def attentionOf (w : Word) : Attention := { enable := w.getLsbD 15, threshold := field 0 9 w, holdoff := field 16 16 w }

/-- The ATTENTION copy as a word, for a write's lanes to be laid over (R157). -/
def Attention.word (a : Attention) : Word :=
  a.threshold.setWidth 32 ||| (if a.enable then 0x8000#32 else 0#32) ||| (a.holdoff.setWidth 32 <<< 16)

/-- Word 0 of an event record: KIND, SOURCE_TYPE, SOURCE and SEQUENCE, the spare bits 0 (R35, R38). -/
def Event.word0 (e : Event) (seq : RingIndex) : Word :=
  e.kind.code.setWidth 32 ||| (e.kind.sourceType.setWidth 32 <<< 4) ||| (e.source.setWidth 32 <<< 8) |||
  (seq.setWidth 32 <<< 16)

/-- DETAIL_A of a FAULT event (R38): fault code in bits 3:0, START_COUNT in bits 15:8. -/
def faultDetail (f : FaultCode) (starts : BitVec 8) : Word := f.code.setWidth 32 ||| (starts.setWidth 32 <<< 8)

/-- DETAIL_A of a COMMAND_REFUSED event (R38): COMMAND code in bits 2:0, reason in bits 9:8. -/
def refusedDetail (c : CommandCode) (r : RefusalReason) : Word := c.setWidth 32 ||| (r.code.setWidth 32 <<< 8)

/-! ## The management registers (R176) -/

/-- ENABLE of WINDOW_CONTROL. -/
def enableBit (w : Word) : Bool := w.getLsbD 0

/-- RING_SIZE of WINDOW_CONTROL. -/
def ringSizeField (w : Word) : BitVec 3 := field 1 3 w

/-- BREAK_RUN of WINDOW_CONTROL. -/
def breakRunField (w : Word) : BitVec 4 := field 4 4 w

/-- QUIET_INTERVAL of WINDOW_CONTROL. -/
def quietField (w : Word) : BitVec 12 := field 8 12 w

/-- The WINDOW_CONTROL word of its four fields; WINDOW_CONTROL's spare bits read 0 (R176). -/
def windowControlWord (enable : Bool) (ringSize : BitVec 3) (breakRun : BitVec 4) (quiet : BitVec 12) : Word :=
  (if enable then 1#32 else 0#32) ||| (ringSize.setWidth 32 <<< 1) ||| (breakRun.setWidth 32 <<< 4) |||
  (quiet.setWidth 32 <<< 8)

/-- WINDOW_STATE codes (R176). -/
def WindowState.code : WindowState → BitVec 2
  | .disabled => 0
  | .enabling => 1
  | .enabled => 2
  | .disabling => 3

/-- The FAULT_STATUS word (R176). -/
def FaultStatus.word (f : FaultStatus) : Word :=
  (if f.eventPathFailed then 1#32 else 0#32) ||| (if f.ringMisuse then 2#32 else 0#32) |||
  (if f.enableReadError then 4#32 else 0#32) ||| (if f.statusWriteLost then 8#32 else 0#32)

/-- The CHANNEL_STATES word: channel n's STATE code in bits 4n+3 to 4n (R176). -/
def State.channelStatesWord (s : State) : Word :=
  chanIds.foldl (fun w n => w ||| ((s.chan n).ctl.state.code.setWidth 32 <<< (4 * n.val))) 0#32

/-- Status byte codes (R175). -/
def FrameStatus.code : FrameStatus → Byte
  | .ack => 0x00
  | .nakIndex => 0x01
  | .nakValue => 0x02
  | .nakState => 0x03

/-- The four data bytes of a word, most significant first (R175). -/
def wordBytes (w : Word) : List Byte := [field 24 8 w, field 16 8 w, field 8 8 w, field 0 8 w]

/-- The word of four data bytes, most significant first (R175). -/
def bytesWord (b3 b2 b1 b0 : Byte) : Word :=
  (b3.setWidth 32 <<< 24) ||| (b2.setWidth 32 <<< 16) ||| (b1.setWidth 32 <<< 8) ||| b0.setWidth 32

end Sys2Proof.Machine
end

