-- ==== Sys2Proof/Machine/Flags.lean ====
section
/-! DEFINITION. The levels and latches: ring occupancy, the holdoff timer and ATTN (R158, R159), FAULT_STATUS and FAULT
(R169, R172). -/

namespace Sys2Proof.Machine

/-- The occupancy of the ring: (PRODUCER − CONSUMER) mod 65,536 (R147). -/
def EventUnit.occupancy (e : EventUnit) : Nat := (e.producer - e.consumer).toNat

/-- The effective threshold (R157). -/
def effectiveThreshold (threshold slots : Nat) : Nat :=
  if threshold = 0 then 1 else if threshold > slots then slots else threshold

/-- The holdoff timer is expired: RUNNING with an elapsed time of at least HOLDOFF (R158). -/
def EventUnit.holdoffExpired (e : EventUnit) : Bool :=
  match e.holdoff with
  | some t => decide (e.attention.holdoff.toNat ≤ t)
  | none => false

/-- The level R159 gives to ATTN for a ring of so many slots. -/
def EventUnit.attnLevel (e : EventUnit) (slots : Nat) : Bool :=
  e.attention.enable &&
  (decide (effectiveThreshold e.attention.threshold.toNat slots ≤ e.occupancy) || e.holdoffExpired)

/-- ATTN is recomputed (R159). -/
def State.refreshAttn (s : State) : State := s.modEvents fun e => { e with attn := e.attnLevel s.ringSlots }

/-- The holdoff timer after an accepted CONSUMER value: stopped at occupancy 0, else restarted (R158). -/
def EventUnit.restartHoldoff (e : EventUnit) : EventUnit :=
  { e with holdoff := if e.occupancy = 0 then none else some 0 }

/-- The FAULT output: some latch is set (R172). -/
def State.faultLine (s : State) : Bool :=
  s.mgmt.faults.eventPathFailed || s.mgmt.faults.ringMisuse || s.mgmt.faults.enableReadError ||
  s.mgmt.faults.statusWriteLost

/-- FAULT_STATUS changed. -/
def State.modFaults (s : State) (f : FaultStatus → FaultStatus) : State :=
  s.modMgmt fun m => { m with faults := f m.faults }

/-- EVENT_PATH_FAILED is latched (R169). -/
def State.latchEventPath (s : State) : State := s.modFaults fun f => { f with eventPathFailed := true }

/-- EVENT_PATH_FAILED is cleared (R171). -/
def State.clearEventPath (s : State) : State := s.modFaults fun f => { f with eventPathFailed := false }

/-- RING_MISUSE is latched (R169). -/
def State.latchRingMisuse (s : State) : State := s.modFaults fun f => { f with ringMisuse := true }

/-- ENABLE_READ_ERROR is latched (R169). -/
def State.latchEnableReadError (s : State) : State := s.modFaults fun f => { f with enableReadError := true }

/-- STATUS_WRITE_LOST is latched (R169). -/
def State.latchStatusWriteLost (s : State) : State := s.modFaults fun f => { f with statusWriteLost := true }

/-- A WRITE of FAULT_STATUS (R170): a 1 clears RING_MISUSE, ENABLE_READ_ERROR or STATUS_WRITE_LOST; EVENT_PATH_FAILED
stays as it stands. -/
def FaultStatus.writeOnes (f : FaultStatus) (w : Word) : FaultStatus :=
  { eventPathFailed := f.eventPathFailed
    ringMisuse := f.ringMisuse && !w.getLsbD 1
    enableReadError := f.enableReadError && !w.getLsbD 2
    statusWriteLost := f.statusWriteLost && !w.getLsbD 3 }

end Sys2Proof.Machine
end

