-- ==== Sys2Proof/Machine/Events.lean ====
section
/-! DEFINITION. The Event Unit's shared operations: room and entry into the Pending Event Queue (R148), the post claim
(R151, R152), CONSUMER (R155), and the cells' occurrences (R130, R131). -/

namespace Sys2Proof.Machine

/-! ## The Pending Event Queue -/

/-- The queue's count, with the event in post (R148). -/
def EventUnit.count (e : EventUnit) : Nat := e.queue.length + (if e.inPost.isSome then 1 else 0)

/-- Room in the queue (R148). -/
def State.queueRoom (s : State) : Bool := decide (s.events.count < Config.queueCapacity)

/-- The conditions of the post claim (R151). -/
def State.postWanted (s : State) : Bool :=
  (s.events.postPhase == .none) && !s.events.queue.isEmpty && decide (s.events.occupancy < s.ringSlots) &&
  (s.events.path == .ok) && (s.mgmt.windowState == .enabled || s.mgmt.windowState == .disabling)

/-- The post claim is raised if R151 now allows. -/
def State.raisePost (s : State) : State :=
  if s.postWanted then (s.modEvents fun e => { e with postPhase := .claimed }).raise .post else s

/-- An event enters the queue at the tail (R148), and the post claim is raised if R151 allows. -/
def State.pushEvent (s : State) (ev : Event) : State :=
  (s.modEvents fun e => { e with queue := e.queue ++ [ev] }).raisePost

/-! ## CONSUMER (R155) -/

/-- A value passes the acceptance rule: (PRODUCER − c) mod 65,536 is at most N (R155). -/
def State.acceptsConsumer (s : State) (c : RingIndex) : Bool := decide ((s.events.producer - c).toNat ≤ s.ringSlots)

/-- A post claim that waits while the occupancy has reached N is withdrawn: the occupancy never exceeds N (R155) and a
post is claimed only below N (R151). DEDUCED (log 11): an accepted CONSUMER value may lie behind the kept one. -/
def State.withdrawFullPost (s : State) : State :=
  if s.events.postPhase = .claimed ∧ s.ringSlots ≤ s.events.occupancy then
    (s.modEvents fun e => { e with postPhase := .none }).withdraw fun k => k == .post
  else s

/-- The CONSUMER_REJECTED event (R155, R38). -/
def consumerRejectedEvent (rejected kept : RingIndex) : Event :=
  { kind := .consumerRejected, source := 0#4, word1 := 0#32, detailA := indexWord rejected, detailB := indexWord kept }

/-- A rejection's event enters the queue, becomes the held rejection, or creates nothing (R148, R150). -/
def State.createRejection (s : State) (ev : Event) : State :=
  if s.events.intake = .closed then s
  else if s.events.heldRejection.isSome then s
  else if s.queueRoom then s.pushEvent ev
  else s.modEvents fun e => { e with heldRejection := some ev }

/-- The acceptance rule applied to a value of CONSUMER (R155; R161 for a recovery read). -/
def State.takeConsumer (s : State) (c : RingIndex) (bothLanes : Bool) : State :=
  if s.acceptsConsumer c then
    let s := s.modEvents fun e =>
      EventUnit.restartHoldoff { e with consumer := c, restoreOwed := if bothLanes then false else e.restoreOwed }
    s.withdrawFullPost.raisePost.refreshAttn
  else
    let ev := consumerRejectedEvent c s.events.consumer
    ((s.modEvents fun e => { e with restoreOwed := true }).latchRingMisuse.createRejection ev)

/-- A passing write of CONSUMER at its grant (R155, R162). -/
def State.consumerWrite (s : State) (l : Lanes) (data : Word) : State :=
  let s := if s.events.recovery = .granted then s.modEvents fun e => { e with overtaken := true } else s
  s.takeConsumer (field 0 16 (lay l data (indexWord s.events.consumer))) (l.getLsbD 0 && l.getLsbD 1)

/-- A passing write of ATTENTION at its grant (R157). -/
def State.attentionWrite (s : State) (l : Lanes) (data : Word) : State :=
  (s.modEvents fun e => { e with attention := attentionOf (lay l data e.attention.word) }).refreshAttn

/-! ## The post (R152) -/

/-- The address of a word of the slot that a ring index names (R32, R34). -/
def State.slotAddr (s : State) (i : RingIndex) (word : Nat) : Addr :=
  s.wordAddr (148 + 4 * (i.toNat % s.ringSlots) + word)

/-- The writes of a post group, in order (R152): the event record, PRODUCER after the rise, and CONSUMER when the
restore is owed. -/
def State.postWrites (s : State) (ev : Event) (restore : Bool) : List Access :=
  let p := s.events.producer
  [ .ofWrite (.post 0) (s.slotAddr p 0) (ev.word0 s.events.nextSequence)
  , .ofWrite (.post 1) (s.slotAddr p 1) ev.word1
  , .ofWrite (.post 2) (s.slotAddr p 2) ev.detailA
  , .ofWrite (.post 3) (s.slotAddr p 3) ev.detailB
  , .ofWrite (.post 4) (s.wordAddr 144) (indexWord (p + 1#16)) ] ++
  (if restore then [.ofWrite (.post 5) (s.wordAddr 145) (indexWord s.events.consumer)] else [])

/-- The cell an event belongs to, if it is a cell's event (R35). -/
def Event.cell? (ev : Event) : Option CellId :=
  if ev.kind.sourceType = 1#2 then some (Fin.ofNat 16 ev.source.toNat) else none

/-- A cell's queued mark set or cleared, for a cell's event (R130). -/
def State.markQueued (s : State) (ev : Event) (mark : Bool) : State :=
  match ev.cell? with
  | some k => s.modCell k fun c => { c with queuedMark := mark }
  | none => s

/-- The Event Unit at the grant of a post of `ev` (R152, R158), `rest` being what stays in the queue. -/
def EventUnit.postGranted (e : EventUnit) (ev : Event) (rest : List Event) (writes : Nat) : EventUnit :=
  { e with
    queue := rest
    inPost := some { event := ev, sequence := e.nextSequence, prevProducer := e.producer,
                     prevSequence := e.nextSequence, restored := e.restoreOwed }
    producer := e.producer + 1#16
    nextSequence := e.nextSequence + 1#16
    postPhase := .granted writes
    restoreOwed := false
    holdoff := if e.occupancy = 0 then some 0 else e.holdoff }

/-- The grant of the post claim (R152); nothing where no post is claimed. -/
def State.grantPost (s : State) : State :=
  match s.events.queue, s.events.postPhase with
  | ev :: rest, .claimed =>
    let writes := s.postWrites ev s.events.restoreOwed
    let s := s.modEvents fun e => e.postGranted ev rest writes.length
    ((s.markQueued ev false).refreshAttn).startGroup (.upkeep .post) writes none
  | _, _ => s

/-! ## Cell occurrences (R130, R131) -/

/-- The event that an occurrence becomes when it enters the queue (R130). -/
def cellEvent (k : CellId) (c : Cell) (o : Occurrence) : Event where
  kind := o.kind.event
  source := BitVec.ofNat 4 k.val
  word1 := c.address.setWidth 32
  detailA := o.detail
  detailB := match o.kind with
    | .limit => o.merge.setWidth 32
    | .range => o.merge.setWidth 32
    | _ => 0#32

/-- An event of cell k is in post (R131). -/
def State.cellInPost (s : State) (k : CellId) : Bool :=
  match s.events.inPost with
  | some p => p.event.cell? == some k
  | none => false

/-- An occurrence enters the queue as its event, and the cell's queued mark is set (R130). -/
def State.enterOccurrence (s : State) (k : CellId) (o : Occurrence) : State :=
  (s.modCell k fun c => { c with queuedMark := true }).pushEvent (cellEvent k (s.cell k) o)

/-- An occurrence merged into a held one (R131): MERGE rises by one and stays at 255. -/
def Occurrence.mergeOne (o : Occurrence) : Occurrence :=
  { o with merge := if o.merge = 255#8 then 255#8 else o.merge + 1#8 }

/-- No cell exists: in DISABLED (R17), and in ENABLING until E1 has ended, since every entry is OFF then (R133, R179). A fetch
that outlives a failed enable (R168) returns only then, its group holding the lock, and changes no entry: DEDUCED (log 18). -/
abbrev State.NoCells (s : State) : Prop := s.mgmt.windowState = .disabled ∨ s.mgmt.sequence = some .e1

/-- An occurrence of cell k arises (R131): it enters the queue, becomes the held occurrence, or is merged into it; it is
discarded while Intake is CLOSED (R148), and where no cell exists (R17; log 18). -/
def State.cellOccurs (s : State) (k : CellId) (kind : OccKind) (detail : Word) : State :=
  if s.NoCells ∨ s.events.intake = .closed then s
  else match (s.cell k).held with
    | some o => s.modCell k fun c => { c with held := some o.mergeOne }
    | none =>
      let o : Occurrence := { kind := kind, detail := detail, merge := 0#8 }
      if !(s.cell k).queuedMark && !s.cellInPost k && s.queueRoom then s.enterOccurrence k o
      else s.modCell k fun c => { c with held := some o }

/-- The first cell whose held occurrence may enter the queue (R149): lowest index, passing over a queued mark. -/
def State.waitingCell (s : State) : Option (CellId × Occurrence) :=
  cellIds.findSome? fun k =>
    match (s.cell k).held with
    | some o => if (s.cell k).queuedMark then none else some (k, o)
    | none => none

/-! ## Channel events (R81) -/

/-- The line's COOKIE, or 0 where the line is not VALID (R27, R81). -/
def Channel.cookie (c : Channel) : Word :=
  match c.line with
  | .valid v => v.words.cookie
  | _ => 0#32

/-- A channel event as the channel stands (R81). -/
def State.channelEvent (s : State) (n : ChanId) (kind : EventKind) (a b : Word) : Event :=
  { kind := kind, source := BitVec.ofNat 4 n.val, word1 := (s.chan n).cookie, detailA := a, detailB := b }

/-- A channel's event is created: it enters the queue, or waits in the stalled slot (R81, R148); it is discarded while
Intake is CLOSED. -/
def State.createEvent (s : State) (n : ChanId) (ev : Event) : State :=
  if s.events.intake = .closed then s
  else if s.queueRoom then s.pushEvent ev
  else s.modChan n fun c => { c with ctl := { c.ctl with stalled := some ev } }

end Sys2Proof.Machine
end

