-- ==== Sys2Proof/Machine/Lines.lean ====
section
/-! DEFINITION. The Descriptor Cache's shared operations: the line's words and marks (R45), STATUS kept in step with the
controller (R62), the writeback triggers (R54, R55), the untaken command (R64, R66), the fill (R46, R49) and
invalidation (R40). -/

namespace Sys2Proof.Machine

/-! ## Words and marks of a VALID line -/

/-- A writeback that serves no more than itself. -/
def WbServes.plain : WbServes := { consequence := .nothing, disable := false }

/-- A trigger joins the triggers a writeback serves (R55). -/
def WbServes.join (old new : WbServes) : WbServes where
  consequence := if new.consequence = .nothing then old.consequence else new.consequence
  disable := old.disable || new.disable

/-- What a fault's entry to FAULTED leaves of it: a reload or a final event no longer waits; a CLEAR's invalidation does
(log 19). -/
def WbServes.afterFault (w : WbServes) : WbServes :=
  { w with consequence := if w.consequence = .clear then .clear else .nothing }

/-- A word of the line changed by the part: it takes the value and is marked dirty (R45). -/
def ValidLine.put (v : ValidLine) (w : RecWord) (x : Word) : ValidLine :=
  { v with words := v.words.set w x, dirty := v.dirty.set w true }

/-- A word marked dirty with its value kept. -/
def ValidLine.mark (v : ValidLine) (w : RecWord) : ValidLine := { v with dirty := v.dirty.set w true }

/-- The VALID line of a channel changed; nothing for a line that is not VALID. -/
def Channel.modLine (c : Channel) (f : ValidLine → ValidLine) : Channel :=
  match c.line with
  | .valid v => { c with line := .valid (f v) }
  | _ => c

/-- The line's words, if it is VALID. -/
def Channel.words? (c : Channel) : Option (Record Word) :=
  match c.line with
  | .valid v => some v.words
  | _ => none

/-- A word of the line; 0 where the line is not VALID (no rule reads it then: R39, log 21). -/
def Channel.word (c : Channel) (w : RecWord) : Word :=
  match c.line with
  | .valid v => v.words.get w
  | _ => 0#32

/-- The line's COUNT. -/
def Channel.count (c : Channel) : BitVec 24 := countOf (c.word .count)

/-- The line's CHAIN. -/
def Channel.chain (c : Channel) : Addr := addrOf (c.word .chain)

/-- The line is VALID. -/
def Channel.lineValid (c : Channel) : Bool :=
  match c.line with
  | .valid _ => true
  | _ => false

/-- STATUS in the line follows the controller and is marked dirty (R45, R62). -/
def Channel.sync (c : Channel) : Channel := c.modLine fun v => v.put .status c.ctl.statusWord

/-- The controller changed, with STATUS in step (R62). -/
def Channel.modCtl (c : Channel) (f : Controller → Controller) : Channel := Channel.sync { c with ctl := f c.ctl }

/-! ## Writeback triggers (R52, R54, R55) -/

/-- A writeback of line n is triggered (R54): it does nothing where the line is not VALID, ends at once where no word is
dirty, joins a waiting claim, or sets the requested flag of a granted one (R55). -/
def State.triggerWriteback (s : State) (n : ChanId) (w : WbServes) : State :=
  match (s.chan n).line with
  | .valid v =>
    match v.wbPhase with
    | .none =>
      if v.dirty.any then
        (s.modChan n fun c => { c with line := .valid { v with wbPhase := .claimed, serves := w } }).raise (.writeback n)
      else s
    | .claimed => s.modChan n fun c => { c with line := .valid { v with serves := v.serves.join w } }
    | .granted _ _ =>
      s.modChan n fun c =>
        { c with line := .valid { v with requested := some ((v.requested.getD .plain).join w) } }
  | _ => s

/-- A trigger with no consequence of its own. -/
def State.triggerPlain (s : State) (n : ChanId) : State := s.triggerWriteback n .plain

/-- A writeback of the line is CLAIMED, GRANTED or requested (R181). -/
def Channel.writebackBusy (c : Channel) : Bool :=
  match c.line with
  | .valid v => v.wbPhase != .none || v.requested.isSome
  | _ => false

/-! ## The untaken command (R64, R66) -/

/-- The channel's untaken command: in the line's COMMAND, the line's waiting command, or the controller mailbox (R64). -/
def Channel.untaken (c : Channel) : CommandCode :=
  match c.line with
  | .invalid => c.ctl.mailbox
  | .filling _ waiting => waiting
  | .valid v => commandOf v.words.control

/-- The mailbox is emptied at a taking (R64): in the line COMMAND becomes NONE and CONTROL is dirty (R45). -/
def Channel.emptyMailbox (c : Channel) : Channel :=
  match c.line with
  | .invalid => { c with ctl := { c.ctl with mailbox := 0#3 } }
  | .filling p _ => { c with line := .filling p 0#3 }
  | .valid v => { c with line := .valid (v.put .control (setCommand 0#3 v.words.control)) }

/-- A command that no CONTROL write carried into memory is placed as the untaken command (log 5): in a VALID line CONTROL
is then dirty. -/
def Channel.placeCommand (c : Channel) (code : CommandCode) : Channel :=
  match c.line with
  | .invalid => { c with ctl := { c.ctl with mailbox := code } }
  | .filling p _ => { c with line := .filling p code }
  | .valid v => { c with line := .valid (v.put .control (setCommand code v.words.control)) }

/-! ## Invalidation and the start of a fill -/

/-- The line becomes INVALID: its parts are discarded, its pending claim withdrawn, its quiet timer stopped (R40, R57). -/
def State.invalidateLine (s : State) (n : ChanId) : State :=
  (s.modChan n fun c => { c with line := .invalid, quiet := none }).withdraw (UpkeepKind.ofLine n)

/-- The line enters FILLING with its waiting command, and raises its fill claim (R46). -/
def State.startFill (s : State) (n : ChanId) (waiting : CommandCode) : State :=
  ((s.modChan n fun c => { c with line := .filling .claimed waiting, ctl := { c.ctl with mailbox := 0#3 } }).withdraw
    (UpkeepKind.ofLine n)).raise (.fill n)

/-- The reads of a fill group (R46). -/
def State.fillReads (s : State) (n : ChanId) : List Access :=
  recWords.map fun w => .ofRead (.fill n w.index) (s.recordAddr n w)

/-- The words a writeback captures at its grant, in word order (R52). -/
def ValidLine.dirtyWords (v : ValidLine) : List RecWord := recWords.filter fun w => v.dirty.get w

/-- The writes of a writeback group: the dirty words' values in the line at the grant (R52). -/
def State.writebackWrites (s : State) (n : ChanId) (v : ValidLine) : List Access :=
  v.dirtyWords.map fun w => .ofWrite (.writeback n w) (s.recordAddr n w) (v.words.get w)

/-! ## The install (R49) -/

/-- The record of eight words in word order. -/
def recordOfList (ws : List Word) : Record Word where
  count := ws.getD 0 0#32
  address := ws.getD 1 0#32
  control := ws.getD 2 0#32
  status := ws.getD 3 0#32
  chain := ws.getD 4 0#32
  cookie := ws.getD 5 0#32
  done := ws.getD 6 0#32
  segments := ws.getD 7 0#32

/-- The merged writes changed the setup fields (R49): M's differ from F's. -/
def setupMerged (f : Record Word) (o : FillOverlay) : Bool := setupBits (o.control.over f.control) != setupBits f.control

/-- The line that an install leaves (R49): F the words read, M with the overlay laid over them. -/
def installedLine (f : Record Word) (o : FillOverlay) (waiting : CommandCode) (status : Word) : ValidLine :=
  let m := o.control.over f.control
  let control := setCommand waiting (setField 0 6 (setupBits f.control) m)
  { words :=
      { count := o.count.over f.count
        address := o.address.over f.address
        control := control
        status := status
        chain := o.chain.over f.chain
        cookie := o.cookie.over f.cookie
        done := 0#32
        segments := 0#32 }
    dirty :=
      { count := false
        address := false
        control := control != m
        status := (status != f.status) || o.status
        chain := false
        cookie := false
        done := (f.done != 0#32) || o.done
        segments := (f.segments != 0#32) || o.segments }
    wbPhase := .none
    serves := .plain
    requested := none }

/-! ## Passing writes (R42 to R44, R47, R48, R112) -/

/-- The dirty mark of COUNT, ADDRESS, CHAIN or COOKIE after a passing write (R42): all four lanes leave the word clean, one
to three leave the mark as it was, none leaves it unchanged. -/
def markAfterWrite (l : Lanes) (was : Bool) : Bool := if l = allLanes then false else was

/-- A passing write of COUNT, ADDRESS, CHAIN or COOKIE on a VALID line (R42). -/
def ValidLine.writeWord (v : ValidLine) (w : RecWord) (l : Lanes) (data : Word) : ValidLine :=
  { v with words := v.words.set w (lay l data (v.words.get w))
           dirty := v.dirty.set w (markAfterWrite l (v.dirty.get w)) }

/-- The write carries a command: lane 1 is enabled and the written COMMAND is not NONE (R43, R47, R48). -/
def carriesCommand (l : Lanes) (data : Word) : Bool := l.getLsbD 1 && commandOf data != 0#3

/-- CONTROL after a passing write and before its command is taken (R43): M is the written lanes over the line's word; the
setup fields are M's or, where they are locked, the line's; the command is the written one, or the untaken one where the
write carries none. -/
def controlAfterWrite (prior : Word) (l : Lanes) (data : Word) (locked : Bool) : Word :=
  let m := lay l data prior
  let m' := if locked then setField 0 6 (setupBits prior) m else m
  setCommand (if carriesCommand l data then commandOf data else commandOf prior) m'

/-- A passing write of CONTROL on a VALID line: the word and its mark (R43). -/
def ValidLine.writeControl (v : ValidLine) (l : Lanes) (data : Word) (locked : Bool) : ValidLine :=
  let prior := v.words.control
  let r := controlAfterWrite prior l data locked
  let clean := (!v.dirty.control || l == allLanes) && (r == lay l data prior)
  { v with words := { v.words with control := r }, dirty := { v.dirty with control := !clean } }

/-- A passing write merged into the overlay of a granted fill (R48). -/
def FillOverlay.merge (o : FillOverlay) (w : RecWord) (l : Lanes) (data : Word) : FillOverlay :=
  match w with
  | .count => { o with count := o.count.merge l data }
  | .address => { o with address := o.address.merge l data }
  | .control => { o with control := o.control.merge l data }
  | .chain => { o with chain := o.chain.merge l data }
  | .cookie => { o with cookie := o.cookie.merge l data }
  | .status => { o with status := true }
  | .done => { o with done := true }
  | .segments => { o with segments := true }

/-- A passing write of a record word while the line is FILLING (R47, R48). -/
def FillPhase.write (p : FillPhase) (w : RecWord) (l : Lanes) (data : Word) : FillPhase :=
  match p with
  | .claimed => .claimed
  | .granted words o => .granted words (o.merge w l data)

/-- The waiting command after a passing write to a FILLING line (R47, R48). -/
def waitingAfterWrite (waiting : CommandCode) (w : RecWord) (l : Lanes) (data : Word) : CommandCode :=
  if w = .control ∧ carriesCommand l data = true then commandOf data else waiting

/-- A passing write joins the link overlay of its word (R112). -/
def LinkOverlay.merge (o : LinkOverlay) (w : RecWord) (l : Lanes) (data : Word) : LinkOverlay :=
  match w with
  | .count => { o with count := o.count.merge l data }
  | .address => { o with address := o.address.merge l data }
  | .chain => { o with chain := o.chain.merge l data }
  | _ => o

/-- A passing write of COUNT, ADDRESS or CHAIN while a link is GRANTED joins its overlay (R112). -/
def Walker.overlayWrite (wk : Walker) (w : RecWord) (l : Lanes) (data : Word) : Walker :=
  match wk.phase with
  | .granted a words o => { wk with phase := .granted a words (o.merge w l data) }
  | _ => wk

/-- A passing write of COUNT or ADDRESS after a break's grant replaces the word, so that an undo keeps it (R102); a write
with no lane enabled replaces nothing (log 16). -/
def Port.noteWrite (p : Port) (w : RecWord) (l : Lanes) : Port :=
  match p with
  | .granted r g =>
    if l = 0#4 then .granted r g
    else match w with
      | .count => .granted r { g with countReplaced := true }
      | .address => .granted r { g with addressReplaced := true }
      | _ => .granted r g
  | p => p

end Sys2Proof.Machine
end

