-- ==== Sys2Proof/Machine/Channels.lean ====
section
/-! DEFINITION. The Channel Controllers' shared operations: entering a state (R63), refusals (R81), faults (R78), the
taking of commands (R64 to R73), held requests (R90), the transitions at a completion (R69, R74, R75, R114), and the end
of a stall (R83). An operation that enters a state takes no command and considers no request: its caller ends with
State.settle (R65). -/

namespace Sys2Proof.Machine

/-! ## Changing a controller -/

/-- A change of the controller that leaves the STATUS fields alone. -/
def State.modCtl (s : State) (n : ChanId) (f : Controller → Controller) : State :=
  s.modChan n fun c => { c with ctl := f c.ctl }

/-- A change of a STATUS field of the controller: the line's STATUS follows (R62). -/
def State.modStatus (s : State) (n : ChanId) (f : Controller → Controller) : State := s.modChan n fun c => c.modCtl f

/-- Channel n's state changes. -/
def State.setState (s : State) (n : ChanId) (st : ChanState) : State := s.modStatus n fun k => { k with state := st }

/-- The channel is stalled (R82). -/
def Channel.isStalled (c : Channel) : Bool := c.ctl.stalled.isSome

/-- The DONE field of the line. -/
def Channel.done24 (c : Channel) : BitVec 24 := field 0 24 (c.word .done)

/-- The SEGMENTS field of the line. -/
def Channel.segments16 (c : Channel) : BitVec 16 := segmentsOf (c.word .segments)

/-- A device answer leaves at channel port n (R87). -/
def State.answer (s : State) (n : ChanId) (a : Answer) : State := s.send (.answer n a)

/-- The port becomes IDLE with an answer (R88). -/
def State.closePort (s : State) (n : ChanId) (a : Answer) : State :=
  (s.modChan n fun c => { c with port := .idle }).answer n a

/-! ## Refusals (R76, R81) -/

/-- LAST_REFUSAL takes a reason. -/
def State.setRefusal (s : State) (n : ChanId) (r : RefusalReason) : State :=
  s.modStatus n fun k => { k with lastRefusal := some r }

/-- A refusal: LAST_REFUSAL and COMMAND_REFUSED (R81). -/
def State.refuse (s : State) (n : ChanId) (code : CommandCode) (r : RefusalReason) : State :=
  let s := s.setRefusal n r
  s.createEvent n (s.channelEvent n .commandRefused (refusedDetail code r) ((s.chan n).ctl.startCount.setWidth 32))

/-- A setup-locked write or install (R49, R76): a stalled channel creates no event. -/
def State.refuseSetup (s : State) (n : ChanId) (code : CommandCode) : State :=
  if (s.chan n).isStalled then s.setRefusal n .setupLocked else s.refuse n code .setupLocked

/-! ## Entering a state (R63) -/

/-- The channel enters OFF from ENDING (R80): the parts OFF does not hold are discarded and a writeback is triggered. -/
def State.enterOffFromEnding (s : State) (n : ChanId) : State :=
  (s.modStatus n fun k =>
    { k with state := .off, setup := none, ending := none, abortRecorded := false }).triggerPlain n

/-- The channel enters HALTED. -/
def State.enterHalted (s : State) (n : ChanId) : State :=
  let s := s.setState n .halted
  let c := s.chan n
  (s.createEvent n (s.channelEvent n .halted (c.done24.setWidth 32) (c.count.setWidth 32))).triggerPlain n

/-- The channel enters ENDING with an ending kind; its final event waits for the end of the writeback (R80). -/
def State.enterEnding (s : State) (n : ChanId) (e : EndingKind) : State :=
  (s.modStatus n fun k => { k with state := .ending, ending := some e }).triggerWriteback n
    { consequence := .finalEvent, disable := false }

/-- The channel enters ENDING(ABORTED) with the line's COUNT (R72, R80). -/
def State.enterAborted (s : State) (n : ChanId) : State := s.enterEnding n (.aborted (s.chan n).count)

/-- The port's request at the entry to FAULTED (R78): an accepted one is answered FAILED, a held one is refused. -/
def State.failPort (s : State) (n : ChanId) (code : FaultCode) : State :=
  match (s.chan n).port with
  | .accepted _ => s.closePort n (.failed code)
  | .held _ => s.closePort n (.refused .channelFaulted)
  | _ => s

/-- A link claim that waits is withdrawn at the entry to FAULTED (R78). -/
def State.dropLinkClaim (s : State) (n : ChanId) : State :=
  match (s.chan n).walker.phase with
  | .claimed _ =>
    (s.modChan n fun c => { c with walker := { c.walker with phase := .none } }).withdraw fun k => k == .link n
  | _ => s

/-- What the line's writeback served before the entry to FAULTED no longer waits for it. -/
def Channel.forgetConsequence (c : Channel) : Channel :=
  c.modLine fun v => { v with serves := v.serves.afterFault, requested := v.requested.map WbServes.afterFault }

/-- The channel enters FAULTED with the fault taken (R78). -/
def State.enterFaulted (s : State) (n : ChanId) (f : PendingFault) : State :=
  let s := (s.failPort n f.code).dropLinkClaim n
  let s := s.modStatus n fun k =>
    { k with state := .faulted, lastFault := some f.code, abortRecorded := false, ending := none,
             pendingFault := none, heldCompletion := none }
  let s := s.modChan n Channel.forgetConsequence
  let s := s.createEvent n
    (s.channelEvent n .fault (faultDetail f.code (s.chan n).ctl.startCount) (f.address.setWidth 32))
  if f.noWriteback then s else s.triggerPlain n

/-! ## Faults (R78) -/

/-- The reload of a START is under way: its writeback has not ended (R59). -/
def ValidLine.reloading (v : ValidLine) : Bool :=
  (v.wbPhase != .none && v.serves.consequence == .reload) ||
  (match v.requested with
   | some w => w.consequence == .reload
   | none => false)

/-- A fill is in flight, from the taking of START to the install (R78), or to the failed end of the reload (R165). -/
def Channel.fillInFlight (c : Channel) : Bool :=
  c.ctl.state == .loading &&
  (match c.line with
   | .filling _ _ => true
   | .valid v => v.reloading
   | .invalid => false)

/-- A group or a fill of the channel is under way, so that a fault waits for it (R78). -/
def Channel.opInFlight (c : Channel) : Bool :=
  (match c.port with
   | .granted _ _ => true
   | _ => false) ||
  (match c.walker.phase with
   | .granted _ _ _ => true
   | _ => false) || c.fillInFlight

/-- A fault becomes the pending fault, unless one is pending already (R78). -/
def State.pendFault (s : State) (n : ChanId) (f : PendingFault) : State :=
  s.modCtl n fun k => { k with pendingFault := some (k.pendingFault.getD f) }

/-- A fault of the channel arises (R78): dropped, pending, or taken at once. -/
def State.faultArise (s : State) (n : ChanId) (f : PendingFault) : State :=
  let c := s.chan n
  if c.ctl.state = .faulted ∨ c.ctl.pendingFault.isSome then s
  else if c.opInFlight ∨ c.isStalled then s.pendFault n f
  else s.enterFaulted n f

/-- A fault whose entry to FAULTED triggers its writeback. -/
def PendingFault.of (code : FaultCode) (a : Addr) : PendingFault := { code := code, address := a, noWriteback := false }

/-! ## Entering LINKING and READY -/

/-- The four addresses of a segment, modulo 2^26 (R29, R110). -/
def segmentAddrs (a : Addr) : List Addr := [a, a + 1#26, a + 2#26, a + 3#26]

/-- The channel enters LINKING: the segment is checked and the link claim is raised (R110). -/
def State.enterLinking (s : State) (n : ChanId) : State :=
  let s := s.setState n .linking
  let a := (s.chan n).chain
  if (segmentAddrs a).any fun x => s.inWindow x then s.faultArise n (.of .windowTarget a)
  else (s.modChan n fun c => { c with walker := { c.walker with phase := .claimed a } }).raise (.link n)

/-- A completion whose CHAIN was not 0 goes on to the segment that CHAIN names as LINKING is entered (R110). A CHAIN written
to 0 while a stall held the transition back names no segment (R29), and the chain ends there: DEDUCED (log 13). -/
def State.goToSegment (s : State) (n : ChanId) : State :=
  if (s.chan n).chain = 0#26 then s.enterEnding n .terminal else s.enterLinking n

/-- The channel enters the state that a validated record calls for (R69, R71), with its setup latched. -/
def State.enterByRecord (s : State) (n : ChanId) (setup : Setup) : State :=
  let s := s.modCtl n fun k => { k with setup := some setup }
  let c := s.chan n
  if c.count ≠ 0#24 then s.setState n .ready
  else if c.chain ≠ 0#26 then s.enterLinking n
  else s.enterEnding n .terminal

/-! ## Commands (R67 to R73) -/

/-- START (R68). -/
def State.obeyStart (s : State) (n : ChanId) : State :=
  let c := s.chan n
  if s.mgmt.windowState ≠ .disabling ∧ (c.ctl.state = .off ∨ c.ctl.state = .ready ∨ c.ctl.state = .halted) then
    let s := s.modStatus n fun k => { k with state := .loading, startCount := k.startCount + 1#8 }
    match c.line with
    | .invalid => s.startFill n 0#3
    | _ => s.triggerWriteback n { consequence := .reload, disable := false }
  else s.refuse n 1#3 .notAllowedInState

/-- STOP (R70). -/
def State.obeyStop (s : State) (n : ChanId) : State :=
  match (s.chan n).ctl.state with
  | .ready => s.enterHalted n
  | .pending => s.setState n .draining
  | .moving => s.setState n .draining
  | _ => s.refuse n 2#3 .notAllowedInState

/-- RESUME (R71). -/
def State.obeyResume (s : State) (n : ChanId) : State :=
  if (s.chan n).ctl.state = .halted then
    match validateSetup ((s.chan n).word .control) with
    | none => s.faultArise n (.of .badSetup 0#26)
    | some setup => s.enterByRecord n setup
  else s.refuse n 3#3 .notAllowedInState

/-- An accepted request of an aborted channel is answered CANCELLED (R72, R105). -/
def State.cancelAccepted (s : State) (n : ChanId) : State :=
  match (s.chan n).port with
  | .accepted _ => s.closePort n .cancelled
  | _ => s

/-- The port is ACCEPTED: the BREAK claim is raised (R88, R91). -/
def Channel.breakClaimed (c : Channel) : Bool :=
  match c.port with
  | .accepted _ => true
  | _ => false

/-- ABORT (R72). -/
def State.obeyAbort (s : State) (n : ChanId) : State :=
  match (s.chan n).ctl.state with
  | .ready => s.enterAborted n
  | .halted => s.enterAborted n
  | .pending => (s.cancelAccepted n).enterAborted n
  | .draining =>
    if (s.chan n).breakClaimed then (s.cancelAccepted n).enterAborted n
    else s.modCtl n fun k => { k with abortRecorded := true }
  | .moving => s.modCtl n fun k => { k with abortRecorded := true }
  | _ => s.refuse n 4#3 .notAllowedInState

/-- CLEAR (R73). -/
def State.obeyClear (s : State) (n : ChanId) : State :=
  match (s.chan n).ctl.state with
  | .off => (s.modStatus n fun k => { k with lastFault := none, lastRefusal := none }).triggerPlain n
  | .faulted =>
    let s := s.modStatus n fun k =>
      { k with state := .off, lastFault := none, lastRefusal := none, setup := none, ending := none,
               abortRecorded := false }
    if (s.chan n).lineValid then
      (s.modCtl n fun k => { k with clearing := true }).triggerWriteback n { consequence := .clear, disable := false }
    else s
  | _ => s.refuse n 5#3 .notAllowedInState

/-- A command is obeyed or refused at its taking (the command table of chapter 04). -/
def State.obey (s : State) (n : ChanId) (code : CommandCode) : State :=
  match code.toNat with
  | 0 => s
  | 1 => s.obeyStart n
  | 2 => s.obeyStop n
  | 3 => s.obeyResume n
  | 4 => s.obeyAbort n
  | 5 => s.obeyClear n
  | _ => s.refuse n code .unknownCommand

/-- The taking states (R64). -/
def ChanState.taking : ChanState → Bool
  | .loading => false
  | .linking => false
  | .ending => false
  | _ => true

/-- The taking condition (R64). -/
def Channel.canTake (c : Channel) : Bool := c.ctl.state.taking && !c.isStalled && !c.ctl.clearing

/-- The untaken command, if there is one, is taken where the channel can take it (R64, R65). -/
def State.takeUntaken (s : State) (n : ChanId) : State :=
  let c := s.chan n
  if c.canTake ∧ c.untaken ≠ 0#3 then (s.modChan n Channel.emptyMailbox).obey n c.untaken else s

/-! ## Device requests (R89 to R91) -/

/-- The channel's latched DIRECTION agrees with a request. -/
def Channel.directionMatches (c : Channel) (req : DeviceRequest) : Bool :=
  match c.ctl.setup with
  | some u => u.direction == req.direction
  | none => false

/-- A request is accepted (R91). -/
def State.acceptRequest (s : State) (n : ChanId) (req : DeviceRequest) : State :=
  (s.modChan n fun c => { c with port := .accepted req }).setState n .pending

/-- A held request is considered (R90): by the table of R89, once the channel is not stalled. -/
def State.considerHeld (s : State) (n : ChanId) : State :=
  let c := s.chan n
  match c.port with
  | .held req =>
    if c.isStalled then s
    else match c.ctl.state with
      | .off => s.closePort n (.refused .notArmed)
      | .halted => s.closePort n (.refused .notArmed)
      | .ending => s.closePort n (.refused .notArmed)
      | .faulted => s.closePort n (.refused .channelFaulted)
      | .ready =>
        if c.directionMatches req then s.acceptRequest n req else s.closePort n (.refused .directionMismatch)
      | _ => s
  | _ => s

/-- After the entry actions the untaken command is taken, then the held request is considered (R65). -/
def State.settle (s : State) (n : ChanId) : State := (s.takeUntaken n).considerHeld n

/-! ## The end of a writeback (R53, R59, R73, R80, R164 to R166) -/

/-- The final event of an ENDING channel, by its ending kind (R80). -/
def State.finalEvent (s : State) (n : ChanId) : Event :=
  let c := s.chan n
  match c.ctl.ending with
  | some (.aborted count) => s.channelEvent n .aborted (c.done24.setWidth 32) (count.setWidth 32)
  | _ => s.channelEvent n .terminal (c.done24.setWidth 32) (c.segments16.setWidth 32)

/-- The final event of ENDING is created (R80): the channel enters OFF when the event enters the queue. -/
def State.createFinal (s : State) (n : ChanId) : State :=
  let s := s.createEvent n (s.finalEvent n)
  if (s.chan n).isStalled then s else s.enterOffFromEnding n

/-- The ENDING writeback ended with no failed word: a stalled channel holds the end (R80). -/
def State.endingDone (s : State) (n : ChanId) : State :=
  if (s.chan n).isStalled then s.modCtl n fun k => { k with heldCompletion := some .ending } else s.createFinal n

/-- The CLEAR writeback ended: the line becomes INVALID and its untaken command becomes the controller mailbox (R66,
R73). -/
def State.clearDone (s : State) (n : ChanId) : State :=
  let code := (s.chan n).untaken
  (s.invalidateLine n).modCtl n fun k => { k with mailbox := code, clearing := false }

/-- The MEMORY_DESCRIPTOR fault of a writeback failure (R164): its entry triggers no writeback (R54). -/
def State.writebackFault (s : State) (n : ChanId) (w : RecWord) : PendingFault :=
  { code := .memoryDescriptor, address := s.recordAddr n w, noWriteback := true }

/-- The reload writeback failed (R165): the fault, or the one pending before it, is taken in place of the install; where
the channel is stalled it waits for the stall's end. -/
def State.failReload (s : State) (n : ChanId) (f : PendingFault) : State :=
  let f := { (s.chan n).ctl.pendingFault.getD f with noWriteback := true }
  if (s.chan n).isStalled then s.modCtl n fun k => { k with pendingFault := some f } else s.enterFaulted n f

/-- A new writeback is claimed for a request set while the ended one was GRANTED (R55). -/
def State.claimRequested (s : State) (n : ChanId) (requested : Option WbServes) : State :=
  match requested with
  | some w => s.triggerWriteback n w
  | none => s

/-- A failed end of a writeback that served `serves` (R164 to R166). -/
def State.writebackFailed (s : State) (n : ChanId) (serves : WbServes) (w : RecWord) : State :=
  if serves.disable then s
  else if serves.consequence = .reload then s.failReload n (s.writebackFault n w)
  else s.faultArise n (s.writebackFault n w)

/-- What waited for a writeback that ended with no failed word. -/
def State.writebackDone (s : State) (n : ChanId) (serves : WbServes) : State :=
  if serves.consequence = .finalEvent then s.endingDone n else s

/-- The line's writeback is no longer in progress. -/
def ValidLine.endWriteback (v : ValidLine) : ValidLine :=
  { v with wbPhase := .none, serves := .plain, requested := none }

/-- A writeback of the line ends (R53): its consequence is made, and the channel acts by R65. -/
def State.endWriteback (s : State) (n : ChanId) (failed : Option RecWord) : State :=
  match (s.chan n).line with
  | .valid v =>
    let s := s.modChan n fun c => c.modLine ValidLine.endWriteback
    let s :=
      if v.serves.consequence = .clear then s.clearDone n
      else match failed with
        | some w => (s.claimRequested n v.requested).writebackFailed n v.serves w
        | none =>
          if v.serves.consequence = .reload then s.startFill n (s.chan n).untaken
          else (s.claimRequested n v.requested).writebackDone n v.serves
    s.settle n
  | _ => s

/-- A CLAIMED writeback whose words have all become clean is withdrawn and ends (R52). -/
def State.withdrawClean (s : State) (n : ChanId) : State :=
  match (s.chan n).line with
  | .valid v =>
    if v.wbPhase = .claimed ∧ v.dirty.any = false then
      (s.withdraw fun k => k == .writeback n).endWriteback n none
    else s
  | _ => s

/-! ## Transitions at a completion -/

/-- Step 3 of the segment-end handling (R116, R117). -/
def State.segmentTransition (s : State) (n : ChanId) (e : BreakEnd) : State :=
  if e.chainZero then s.enterEnding n .terminal
  else if (s.chan n).walker.flags.hold then s.enterHalted n
  else s.goToSegment n

/-- Step 1 of the segment-end handling: SEGMENTS rises by one (R116). -/
def State.raiseSegments (s : State) (n : ChanId) : State :=
  s.modChan n fun c => c.modLine fun v =>
    v.put .segments (setField 0 16 (segmentsOf v.words.segments + 1#16) v.words.segments)

/-- Step 2 of the segment-end handling: SEGMENT_DONE (R116). -/
def State.segmentEvent (s : State) (n : ChanId) (e : BreakEnd) : State :=
  let c := s.chan n
  if c.walker.flags.evEnd || e.evSegment then
    s.createEvent n (s.channelEvent n .segmentDone (c.done24.setWidth 32) (c.segments16.setWidth 32))
  else s

/-- The segment-end handling (R116): a SEGMENT_DONE that stalls the channel leaves step 3 held. -/
def State.segmentEnd (s : State) (n : ChanId) (e : BreakEnd) : State :=
  if e.segmentDone then s.segmentTransition n e
  else
    let s := (s.raiseSegments n).segmentEvent n e
    if (s.chan n).isStalled then
      s.modCtl n fun k => { k with heldCompletion := some (.breakGroup { e with segmentDone := true }) }
    else s.segmentTransition n e

/-- The transition at the completion of a break group (R74 for MOVING, R75 for DRAINING). -/
def State.breakTransition (s : State) (n : ChanId) (e : BreakEnd) : State :=
  let k := (s.chan n).ctl
  match k.pendingFault with
  | some f => s.enterFaulted n f
  | none =>
    if k.abortRecorded then s.enterAborted n
    else if e.countZero then s.segmentEnd n e
    else if k.state = .draining then s.enterHalted n
    else s.setState n .ready

/-- The Chain Walker's counter and flags (R114). -/
def State.modWalker (s : State) (n : ChanId) (f : Walker → Walker) : State :=
  s.modChan n fun c => { c with walker := f c.walker }

/-- Both segment flags clear. -/
def SegFlags.clear : SegFlags := { evEnd := false, hold := false }

/-- The transition at the completion of a link (R114). -/
def State.linkTransition (s : State) (n : ChanId) (e : LinkEnd) : State :=
  let c := s.chan n
  match c.ctl.pendingFault with
  | some f => s.enterFaulted n f
  | none =>
    if !e.countZero then
      (s.modWalker n fun w => { w with emptyRun := 0, flags := e.flags }).setState n .ready
    else if Config.emptyRunLimit ≤ c.walker.emptyRun + 1 then
      (s.modWalker n fun w => { w with emptyRun := Config.emptyRunLimit, flags := .clear }).enterFaulted n
        (.of .chainEmptyRun e.segment)
    else
      let s := s.modWalker n fun w => { w with emptyRun := w.emptyRun + 1, flags := .clear }
      if e.chainZero then s.enterEnding n .terminal else s.goToSegment n

/-- Setup validation and the way out of LOADING (R69), with a pending fault taken in its place. An install that a stall held
back (R82) is decided here from the line as it then stands, passing writes made during the stall among its values: DEDUCED
(log 30). -/
def State.installTransition (s : State) (n : ChanId) : State :=
  match (s.chan n).ctl.pendingFault with
  | some f => s.enterFaulted n f
  | none =>
    match validateSetup ((s.chan n).word .control) with
    | none => (s.modCtl n fun k => { k with setup := none }).enterFaulted n (.of .badSetup 0#26)
    | some setup => s.enterByRecord n setup

/-- A held completion's transition (R83), with a pending fault taken in its place. -/
def State.heldTransition (s : State) (n : ChanId) (h : HeldCompletion) : State :=
  match h with
  | .breakGroup e => s.breakTransition n e
  | .install => s.installTransition n
  | .link e => s.linkTransition n e
  | .ending =>
    match (s.chan n).ctl.pendingFault with
    | some f => s.enterFaulted n f
    | none => s.createFinal n

/-- A pending fault is taken at the end of a stall, if no operation of the channel is in flight (R83; log 15). -/
def State.takePending (s : State) (n : ChanId) : State :=
  let c := s.chan n
  match c.ctl.pendingFault with
  | some f => if c.opInFlight ∨ c.isStalled then s else s.enterFaulted n f
  | none => s

/-- The event is the final event of an ENDING channel (R83). -/
def Channel.isFinal (c : Channel) (ev : Event) : Bool :=
  c.ctl.state == .ending && (ev.kind == .terminal || ev.kind == .aborted)

/-- Steps 1 and 2 at the end of a stall (R83). -/
def State.stallTransition (s : State) (n : ChanId) (ev : Event) : State :=
  let c := s.chan n
  if c.isFinal ev then s.enterOffFromEnding n
  else match c.ctl.heldCompletion with
    | some h => (s.modCtl n fun k => { k with heldCompletion := none }).heldTransition n h
    | none => s

/-- The stall of channel n ends: its event enters the queue, and the channel acts (R83). -/
def State.endStall (s : State) (n : ChanId) (ev : Event) : State :=
  ((((s.modCtl n fun k => { k with stalled := none }).pushEvent ev).stallTransition n ev).takePending n).settle n

end Sys2Proof.Machine
end

