-- ==== Sys2Proof/Machine/Posting.lean ====
section
/-! DEFINITION. What the end of a post, its failure and the recovery read do (R149, R153, R154, R161, R162), how the
disable sequence advances (R181), and the meanings of POST_WRITE_RESPONSE and RECOVERY_READ_RESPONSE. -/

namespace Sys2Proof.Machine

/-! ## A freed queue place (R149) -/

/-- The stalled slot of the lowest-numbered stalled channel. -/
def State.stalledSlot (s : State) : Option (ChanId × Event) :=
  chanIds.findSome? fun n =>
    match (s.chan n).ctl.stalled with
    | some ev => some (n, ev)
    | none => none

/-- A freed place goes to the first waiting event (R149); the post claim is raised if R151 allows. -/
def State.placeFreed (s : State) : State :=
  match s.stalledSlot with
  | some (n, ev) => s.endStall n ev
  | none =>
    match s.events.heldRejection with
    | some ev => (s.modEvents fun e => { e with heldRejection := none }).pushEvent ev
    | none =>
      match s.waitingCell with
      | some (k, o) => (s.modCell k fun c => { c with held := none }).enterOccurrence k o
      | none => s.raisePost

/-! ## The end and the failure of a post group (R153, R154) -/

/-- Every response of the group has returned: the post ends and frees its place, or, after a failure, leaves the phase
(R153, R154). -/
def State.endPost (s : State) : State :=
  let posted := s.events.inPost.isSome
  let s := s.modEvents fun e => { e with postPhase := .none, inPost := none }
  if posted then s.placeFreed else s.raisePost

/-- The Event Unit's values after the failure of a post (R154): the indices return, the event goes back to the head, a
CONSUMER at the advanced PRODUCER is set back, and the timer stops where the ring is empty (R158). -/
def EventUnit.rollBack (e : EventUnit) (p : InPost) : EventUnit :=
  let back := e.consumer == p.prevProducer + 1#16
  let e' :=
    { e with
      path := .failed
      producer := p.prevProducer
      nextSequence := p.prevSequence
      queue := p.event :: e.queue
      inPost := none
      consumer := if back then p.prevProducer else e.consumer
      restoreOwed := e.restoreOwed || p.restored || back }
  { e' with holdoff := if e'.occupancy = 0 then none else e'.holdoff }

/-- The event-path failure at the first ERROR of a post group (R154); a later ERROR finds no event in post and does
nothing. -/
def State.failPost (s : State) : State :=
  match s.events.inPost with
  | some p => (((s.modEvents fun e => e.rollBack p).markQueued p.event true).latchEventPath).refreshAttn
  | none => s

/-- A response of a post write (R153). -/
def State.postResponse (s : State) (r : MemResponse) : State :=
  match s.events.postPhase with
  | .granted outstanding =>
    let s := if r = .error then s.failPost else s
    if outstanding ≤ 1 then s.endPost
    else s.modEvents fun e => { e with postPhase := .granted (outstanding - 1) }
  | _ => s

/-! ## The disable sequence (R181) -/

/-- D1 has ended: no line has a writeback CLAIMED, GRANTED or requested. -/
def State.linesQuiet (s : State) : Bool := chanIds.all fun n => !(s.chan n).writebackBusy

/-- D2 ends: the event path has failed, or nothing waits to be posted. -/
def State.postingDone (s : State) : Bool :=
  s.events.path == .failed ||
  (s.events.queue.isEmpty && s.events.inPost.isNone && s.events.postPhase == .none &&
   (chanIds.all fun n => !(s.chan n).isStalled) && s.events.heldRejection.isNone &&
   (cellIds.all fun k => (s.cell k).held.isNone))

/-- The step of the sequence changes. -/
def State.setSequence (s : State) (q : Option SeqStep) : State := s.modMgmt fun m => { m with sequence := q }

/-- D2, where it has begun, ends if R181 says so: Intake is CLOSED. -/
def State.progressD2 (s : State) : State :=
  if s.mgmt.sequence = some .d2 ∧ s.postingDone = true then
    (s.modEvents fun e => { e with intake := .closed }).setSequence (some .d3)
  else s

/-- The disable sequence advances at the moment that ends D1 or D2 (R181). -/
def State.disableProgress (s : State) : State :=
  if s.mgmt.sequence = some .d1 ∧ s.linesQuiet = true then (s.setSequence (some .d2)).progressD2 else s.progressD2

/-! ## The recovery read (R161, R162, R171) -/

/-- The event path works again: EVENT_PATH is OK, the latch is cleared, and posting goes on. -/
def State.pathRecovered (s : State) : State :=
  ((s.modEvents fun e => { e with path := .ok, recovery := .none, overtaken := false }).clearEventPath).raisePost

/-- The response of a granted recovery read. -/
def State.recoveryResponse (s : State) (r : MemResponse) : State :=
  if s.events.recovery = .granted then
    match r with
    | .error => s.modEvents fun e => { e with recovery := .none, overtaken := false }
    | .okay d =>
      if s.events.overtaken then s.pathRecovered else (s.takeConsumer (field 0 16 d) true).pathRecovered
  else s

/-! ## Meanings -/

/-- POST_WRITE_RESPONSE (R153, R154). -/
def execPostWriteResponse (r : MemResponse) (s : State) : Result :=
  .next (s.respond .postWrite fun _ s => (s.postResponse r).disableProgress)

/-- RECOVERY_READ_RESPONSE (R161, R162). -/
def execRecoveryReadResponse (r : MemResponse) (s : State) : Result :=
  .next (s.respond .recoveryRead fun _ s => s.recoveryResponse r)

end Sys2Proof.Machine
end

