-- ==== Sys2Proof/Machine/Records.lean ====
section
/-! DEFINITION. The Descriptor Cache's and the Chain Walker's groups: grants and responses of fills (R46, R49, R50),
writebacks (R52, R53) and links (R111, R113, R115), passing writes of a record (R42 to R44, R47, R48, R76, R77), and the
meanings of the three response rows. -/

namespace Sys2Proof.Machine

/-! ## Fill -/

/-- The grant of a fill claim (R46). -/
def State.grantFill (s : State) (n : ChanId) : State :=
  match (s.chan n).line with
  | .filling _ waiting =>
    (s.modChan n fun c => { c with line := .filling (.granted [] .empty) waiting }).startGroup (.upkeep (.fill n))
      (s.fillReads n) none
  | _ => s

/-- The installed line and the walker's parts at an install (R49, R109). -/
def Channel.install (c : Channel) (words : List Word) (o : FillOverlay) (waiting : CommandCode) : Channel :=
  { c with
    line := .valid (installedLine (recordOfList words) o waiting c.ctl.statusWord)
    quiet := none
    walker := { c.walker with emptyRun := 0, flags := .clear } }

/-- The install's own refusal, where merged writes changed the setup fields (R49, R76). -/
def State.installRefusal (s : State) (n : ChanId) (merged : Bool) : State :=
  if merged then s.refuseSetup n 0#3 else s

/-- The way out of LOADING after an install: held while the channel is stalled (R69, R82). -/
def State.leaveLoading (s : State) (n : ChanId) : State :=
  if (s.chan n).isStalled then s.modCtl n fun k => { k with heldCompletion := some .install }
  else (s.installTransition n).settle n

/-- The eighth fill read returned OKAY (R49). -/
def State.installFill (s : State) (n : ChanId) (words : List Word) (o : FillOverlay) (waiting : CommandCode) : State :=
  (((s.modChan n fun c => c.install words o waiting).installRefusal n (setupMerged (recordOfList words) o)).leaveLoading
    n)

/-- A fault whose operation was cut short: the pending fault, if any, is kept, and it is taken now unless the channel is
stalled (R78, R167). -/
def State.takeAtCompletion (s : State) (n : ChanId) (f : PendingFault) : State :=
  let f := (s.chan n).ctl.pendingFault.getD f
  if (s.chan n).isStalled then s.pendFault n f else (s.enterFaulted n f).settle n

/-- A fill read returned ERROR (R50): the line is lost and its waiting command becomes the controller mailbox (R66). -/
def State.failFill (s : State) (n : ChanId) (word : Nat) (waiting : CommandCode) : State :=
  let s := (s.endGroup (.upkeep (.fill n))).orphan (Owner.isFill n)
  let s := (s.invalidateLine n).modCtl n fun k => { k with mailbox := waiting }
  s.takeAtCompletion n (.of .memoryDescriptor (s.recordAddr n (RecWord.ofIndex word)))

/-- A response of fill read `word` of line n. -/
def State.fillResponse (s : State) (n : ChanId) (word : Nat) (r : MemResponse) : State :=
  match (s.chan n).line with
  | .filling (.granted words o) waiting =>
    match r with
    | .error => s.failFill n word waiting
    | .okay d =>
      if words.length = 7 then s.installFill n (words ++ [d]) o waiting
      else s.modChan n fun c => { c with line := .filling (.granted (words ++ [d]) o) waiting }
  | _ => s

/-! ## Writeback -/

/-- The grant of a writeback claim (R52): the dirty words are captured and their marks cleared. -/
def State.grantWriteback (s : State) (n : ChanId) : State :=
  match (s.chan n).line with
  | .valid v =>
    let writes := s.writebackWrites n v
    (s.modChan n fun c =>
      { c with line := .valid { v with dirty := .fill false, wbPhase := .granted writes.length none } }).startGroup
      (.upkeep (.writeback n)) writes none
  | _ => s

/-- The failed words' first, after a response (R53, R164): a write that fails in the step D1 of the disable sequence is not
remembered, so it raises no fault, whichever trigger its writeback served (R181). -/
def State.firstFailed (s : State) (failed : Option RecWord) (w : RecWord) (r : MemResponse) : Option RecWord :=
  if r = .error ∧ s.mgmt.sequence ≠ some .d1 then some (failed.getD w) else failed

/-- A response of a writeback write (R53). -/
def State.writebackResponse (s : State) (n : ChanId) (w : RecWord) (r : MemResponse) : State :=
  match (s.chan n).line with
  | .valid v =>
    match v.wbPhase with
    | .granted outstanding failed =>
      let failed := s.firstFailed failed w r
      let s := s.modChan n fun c => c.modLine fun v =>
        { v with dirty := if r = .error then v.dirty.set w true else v.dirty,
                 wbPhase := .granted (outstanding - 1) failed }
      if outstanding ≤ 1 then s.endWriteback n failed else s
    | _ => s
  | _ => s

/-! ## Link -/

/-- The reads of a link group (R111). -/
def linkReads (n : ChanId) (a : Addr) : List Access :=
  [ .ofRead (.link n 0) a, .ofRead (.link n 1) (a + 1#26), .ofRead (.link n 2) (a + 2#26),
    .ofRead (.link n 3) (a + 3#26) ]

/-- The grant of a link claim (R111). -/
def State.grantLink (s : State) (n : ChanId) : State :=
  match (s.chan n).walker.phase with
  | .claimed a =>
    (s.modWalker n fun w => { w with phase := .granted a [] .empty }).startGroup (.upkeep (.link n)) (linkReads n a) none
  | _ => s

/-- The load of a segment into the line (R113). -/
def ValidLine.loadSegment (v : ValidLine) (words : List Word) (o : LinkOverlay) : ValidLine :=
  let count := o.count.over (setField 0 24 (countOf (words.getD 0 0#32)) v.words.count)
  let address := o.address.over (setField 0 26 (addrOf (words.getD 1 0#32)) v.words.address)
  let chain := o.chain.over (setField 0 26 (addrOf (words.getD 2 0#32)) v.words.chain)
  ((v.put .count count).put .address address).put .chain chain

/-- What a completed link found after the load (R114). -/
def Channel.linkEnd (c : Channel) (words : List Word) (a : Addr) : LinkEnd where
  countZero := c.count == 0#24
  chainZero := c.chain == 0#26
  flags := flagsOf (words.getD 3 0#32)
  segment := a

/-- The fourth link read returned OKAY (R113): the load is made, and the transition is made or held (R114). -/
def State.completeLink (s : State) (n : ChanId) (a : Addr) (words : List Word) (o : LinkOverlay) : State :=
  let s := s.modChan n fun c =>
    { c.modLine fun v => v.loadSegment words o with walker := { c.walker with phase := .none } }
  let e := (s.chan n).linkEnd words a
  if (s.chan n).isStalled then s.modCtl n fun k => { k with heldCompletion := some (.link e) }
  else (s.linkTransition n e).settle n

/-- A link read returned ERROR (R115): nothing is loaded. -/
def State.failLink (s : State) (n : ChanId) (a : Addr) (word : Nat) : State :=
  let s := (s.endGroup (.upkeep (.link n))).orphan (Owner.isLink n)
  let s := s.modWalker n fun w => { w with phase := .none }
  s.takeAtCompletion n (.of .memoryChain (a + BitVec.ofNat 26 word))

/-- A response of link read `word` of channel n. -/
def State.linkResponse (s : State) (n : ChanId) (word : Nat) (r : MemResponse) : State :=
  match (s.chan n).walker.phase with
  | .granted a words o =>
    match r with
    | .error => s.failLink n a word
    | .okay d =>
      if words.length = 3 then s.completeLink n a (words ++ [d]) o
      else s.modWalker n fun w => { w with phase := .granted a (words ++ [d]) o }
  | _ => s

/-! ## Passing writes of a record at their grant -/

/-- The states that lock the setup fields (R76). -/
def ChanState.locksSetup : ChanState → Bool
  | .off => false
  | .halted => false
  | .faulted => false
  | _ => true

/-- The states in which an invalid STRIDE faults the channel at once (R77). -/
def ChanState.strideChecked : ChanState → Bool
  | .ready => true
  | .pending => true
  | .moving => true
  | .draining => true
  | .linking => true
  | _ => false

/-- The write changes the setup fields of a line in a locking state (R76). -/
def Channel.setupLocked (c : Channel) (l : Lanes) (data : Word) : Bool :=
  c.ctl.state.locksSetup && setupBits (lay l data (c.word .control)) != setupBits (c.word .control)

/-- A live STRIDE left invalid faults the channel (R77). -/
def State.checkStride (s : State) (n : ChanId) : State :=
  if (s.chan n).ctl.state.strideChecked && !strideValid ((s.chan n).word .control) then
    s.faultArise n (.of .badSetup 0#26)
  else s

/-- A passing write of CONTROL to a VALID line (R43, R76, R77): the line's word, then the refusal of a locked setup, then
the STRIDE fault, then the command. R76 orders the refusal before the command; that the fault stands between the two, after
the one and before the other, is DEDUCED (log 12). -/
def State.writeControl (s : State) (n : ChanId) (l : Lanes) (data : Word) : State :=
  let locked := (s.chan n).setupLocked l data
  let code := if carriesCommand l data then commandOf data else 0#3
  let s := s.modChan n fun c => c.modLine fun v => v.writeControl l data locked
  let s := if locked then s.refuseSetup n code else s
  (s.checkStride n).settle n

/-- A passing write of COUNT, ADDRESS, CHAIN or COOKIE to a VALID line (R42), with the overlay of a granted link (R112)
and the note for the undo of a granted break (R102). -/
def Channel.writeWord (c : Channel) (w : RecWord) (l : Lanes) (data : Word) : Channel :=
  { c.modLine fun v => v.writeWord w l data with
    walker := c.walker.overlayWrite w l data
    port := c.port.noteWrite w l }

/-- A passing write of a record word of a VALID line. -/
def State.writeValid (s : State) (n : ChanId) (w : RecWord) (l : Lanes) (data : Word) : State :=
  match w with
  | .control => s.writeControl n l data
  | .status => s.modChan n fun c => c.modLine fun v => v.mark .status
  | .done => s.modChan n fun c => c.modLine fun v => v.mark .done
  | .segments => s.modChan n fun c => c.modLine fun v => v.mark .segments
  | w => s.modChan n fun c => c.writeWord w l data

/-- A command that reaches the controller (R64): it replaces the untaken one, and is taken if the channel can take it. -/
def State.offerCommand (s : State) (n : ChanId) (code : CommandCode) : State :=
  (s.modChan n fun c => c.placeCommand code).settle n

/-- A passing write of a record word at its grant, by the line's state (R42 to R44, R47, R48, R66). -/
def State.recordWrite (s : State) (n : ChanId) (w : RecWord) (l : Lanes) (data : Word) : State :=
  match (s.chan n).line with
  | .invalid => if w = .control ∧ carriesCommand l data = true then s.offerCommand n (commandOf data) else s
  | .filling p waiting =>
    s.modChan n fun c => { c with line := .filling (p.write w l data) (waitingAfterWrite waiting w l data) }
  | .valid _ => (s.writeValid n w l data).withdrawClean n

/-! ## Meanings -/

/-- FILL_READ_RESPONSE (R49, R50). -/
def execFillReadResponse (r : MemResponse) (s : State) : Result :=
  .next (s.respond .fillRead fun e s =>
    match e.owner with
    | .fill n word => s.fillResponse n word r
    | _ => s)

/-- WRITEBACK_WRITE_RESPONSE (R53). -/
def execWritebackWriteResponse (r : MemResponse) (s : State) : Result :=
  .next (s.respond .writebackWrite fun e s =>
    match e.owner with
    | .writeback n w => (s.writebackResponse n w r).disableProgress
    | _ => s)

/-- LINK_READ_RESPONSE (R113, R115). -/
def execLinkReadResponse (r : MemResponse) (s : State) : Result :=
  .next (s.respond .linkRead fun e s =>
    match e.owner with
    | .link n word => s.linkResponse n word r
    | _ => s)

end Sys2Proof.Machine
end

