-- ==== Sys2Proof/Machine/Cells.lean ====
section
/-! DEFINITION. The Cell Unit: claims and status due (R122, R132), registration (R120, R121, R125, R126), the load (R123,
R124), the fetch-and-step (R127 to R129), registration by the enable sequence (R133), and the meanings of the cell
response rows. -/

namespace Sys2Proof.Machine

/-! ## Claims and CSTATE -/

/-- The cell has a claim raised (R122). -/
def State.cellClaimed (s : State) (k : CellId) : Bool := s.claimed (.cellLoad k) || s.claimed (.cellStatus k)

/-- The cell owes a load whose claim is not raised. -/
def Cell.loadDue (c : Cell) : Bool :=
  match c.cstate with
  | .loading .due => true
  | _ => false

/-- A cell with no claim raised claims the work it owes: a load before a status write (R122). -/
def State.cellWork (s : State) (k : CellId) : State :=
  if s.cellClaimed k then s
  else if (s.cell k).loadDue then
    (s.modCell k fun c => { c with cstate := .loading .claimed }).raise (.cellLoad k)
  else if (s.cell k).statusDue then s.raise (.cellStatus k)
  else s

/-- A change of CSTATE: status due is set (R132). -/
def State.setCstate (s : State) (k : CellId) (st : CellState) : State :=
  s.modCell k fun c => { c with cstate := st, statusDue := true }

/-- The load of an entry that leaves LOADING or restarts is abandoned (R125): a claim is withdrawn, the responses of a
granted load are orphaned. -/
def State.abandonLoad (s : State) (k : CellId) : State :=
  (s.withdraw fun c => c == .cellLoad k).orphan (Owner.isCellLoad k)

/-- The entry enters REJECTED (R121, R124, R126): CELL_REJECTED arises and status due is set. -/
def State.rejectCell (s : State) (k : CellId) (r : RejectReason) : State :=
  let s := (s.abandonLoad k).setCstate k (.rejected r)
  (s.cellOccurs k .rejected (r.code.setWidth 32)).cellWork k

/-- The entry enters OFF (R120). -/
def State.turnCellOff (s : State) (k : CellId) : State := ((s.abandonLoad k).setCstate k .off).cellWork k

/-! ## The checks (R121) -/

/-- Another entry in LOADING or LIVE has the address (check 2). -/
def State.cellDuplicate (s : State) (k : CellId) (a : Addr) : Bool :=
  cellIds.any fun j => j != k && (s.cell j).isRegistered && (s.cell j).address == a

/-- Checks 1 and 2 on an address. -/
def State.addressCheck (s : State) (k : CellId) (a : Addr) : Option RejectReason :=
  if s.inWindow a then some .inWindow else if s.cellDuplicate k a then some .duplicate else none

/-- Checks 3 and 4 on fields. -/
def fieldCheck (f : CellFields) : Option RejectReason :=
  if f.step = 0#8 then some .zeroStep else if f.high.toNat < f.low.toNat then some .badBounds else none

/-! ## Passing writes of a cell record (R120, R123, R126) -/

/-- A commit of an entry that is not LOADING (R121): checks 1 and 2 passed. -/
def State.beginLoad (s : State) (k : CellId) : State :=
  (s.modCell k fun c => { c with cstate := .loading .due, atLimit := false, statusDue := true }).cellWork k

/-- A commit of a LOADING entry whose checks passed (R125). -/
def State.restartLoad (s : State) (k : CellId) : State :=
  match (s.cell k).cstate with
  | .loading (.granted _ _) =>
    ((s.abandonLoad k).modCell k fun c => { c with cstate := .loading .due }).cellWork k
  | _ => s

/-- A commit (R121, R125). -/
def State.commitCell (s : State) (k : CellId) : State :=
  match s.addressCheck k (s.cell k).address with
  | some r => s.rejectCell k r
  | none =>
    match (s.cell k).cstate with
    | .loading _ => s.restartLoad k
    | _ => s.beginLoad k

/-- A new address of a LIVE entry (R126). -/
def State.moveCell (s : State) (k : CellId) : State :=
  match s.addressCheck k (s.cell k).address with
  | some r => s.rejectCell k r
  | none => s

/-- A passing write of CELL_ADDR (R120): the copy takes the lanes, and the entry acts on it by its CSTATE. -/
def State.cellAddrWrite (s : State) (k : CellId) (l : Lanes) (data : Word) : State :=
  let before := (s.cell k).address
  let s := s.modCell k fun c => { c with copy := lay l data c.copy }
  let c := s.cell k
  match c.cstate, validOf c.copy with
  | .off, false => s
  | _, false => s.turnCellOff k
  | .live _, true => if c.address = before then s else s.moveCell k
  | _, true => s.commitCell k

/-- The words of a cell record that a load reads (R30). -/
inductive CellWord where
  | setup
  | low
  | high
deriving DecidableEq, Repr

/-- The written lanes over a LIVE entry's fields (R126). -/
def CellFields.write (f : CellFields) (w : CellWord) (l : Lanes) (data : Word) : CellFields :=
  match w with
  | .setup => cellFieldsOf (lay l data f.setupWord) f.low f.high
  | .low => { f with low := lay l data f.low }
  | .high => { f with high := lay l data f.high }

/-- The check that a write of a word makes (R126): check 3 for SETUP, check 4 for LOW and HIGH. -/
def CellFields.checkWritten (f : CellFields) (w : CellWord) : Option RejectReason :=
  match w with
  | .setup => if f.step = 0#8 then some .zeroStep else none
  | _ => if f.high.toNat < f.low.toNat then some .badBounds else none

/-- A passing write joins the overlay of a granted load (R123). -/
def CellOverlay.merge (o : CellOverlay) (w : CellWord) (l : Lanes) (data : Word) : CellOverlay :=
  match w with
  | .setup => { o with setup := o.setup.merge l data }
  | .low => { o with low := o.low.merge l data }
  | .high => { o with high := o.high.merge l data }

/-- A passing write of SETUP, LOW or HIGH (R123, R126). -/
def State.cellFieldWrite (s : State) (k : CellId) (w : CellWord) (l : Lanes) (data : Word) : State :=
  match (s.cell k).cstate with
  | .loading (.granted words o) =>
    s.modCell k fun c => { c with cstate := .loading (.granted words (o.merge w l data)) }
  | .live f =>
    match (f.write w l data).checkWritten w with
    | some r => s.rejectCell k r
    | none => s.modCell k fun c => { c with cstate := .live (f.write w l data) }
  | _ => s

/-! ## The load (R123, R124) -/

/-- The address of word `word` of cell k's record (R21). -/
def State.cellRecordAddr (s : State) (k : CellId) (word : Nat) : Addr := s.wordAddr (64 + 4 * k.val + word)

/-- The grant of a load claim (R123): a status write that is owed is claimed at once (R122). -/
def State.grantCellLoad (s : State) (k : CellId) : State :=
  match (s.cell k).cstate with
  | .loading _ =>
    ((s.modCell k fun c => { c with cstate := .loading (.granted [] .empty) }).cellWork k).startGroup
      (.upkeep (.cellLoad k))
      [ .ofRead (.cellLoad k 0) (s.cellRecordAddr k 1), .ofRead (.cellLoad k 1) (s.cellRecordAddr k 2),
        .ofRead (.cellLoad k 2) (s.cellRecordAddr k 3) ] none
  | _ => s

/-- The fields of the words that returned OKAY, with the overlay laid over them; absent words read 0 and are not
checked (R124). -/
def loadedFields (words : List Word) (o : CellOverlay) : CellFields :=
  cellFieldsOf (o.setup.over (words.getD 0 0#32)) (o.low.over (words.getD 1 0#32)) (o.high.over (words.getD 2 0#32))

/-- Checks 3 to 5 at the completion of a load (R124): a check whose word did not return is passed over. -/
def loadCheck (words : List Word) (o : CellOverlay) : Option RejectReason :=
  let f := loadedFields words o
  if 0 < words.length ∧ f.step = 0#8 then some .zeroStep
  else if 2 < words.length ∧ f.high.toNat < f.low.toNat then some .badBounds
  else if words.length < 3 then some .tableReadError
  else none

/-- The load completes (R124) with the words that returned OKAY. -/
def State.completeLoad (s : State) (k : CellId) (words : List Word) (o : CellOverlay) : State :=
  match loadCheck words o with
  | some r => s.rejectCell k r
  | none => (s.setCstate k (.live (loadedFields words o))).cellWork k

/-- A response of a load read of cell k. -/
def State.cellLoadResponse (s : State) (k : CellId) (r : MemResponse) : State :=
  match (s.cell k).cstate with
  | .loading (.granted words o) =>
    match r with
    | .error => (s.endGroup (.upkeep (.cellLoad k))).completeLoad k words o
    | .okay d =>
      if words.length = 2 then s.completeLoad k (words ++ [d]) o
      else s.modCell k fun c => { c with cstate := .loading (.granted (words ++ [d]) o) }
  | _ => s

/-! ## The status write (R132) -/

/-- The address of cell k's status word (R21). -/
def State.cellStatusAddr (s : State) (k : CellId) : Addr := s.wordAddr (128 + k.val)

/-- The grant of a status claim (R132): its contents are captured, status due is cleared, and a load that is owed is
claimed at once (R122). -/
def State.grantCellStatus (s : State) (k : CellId) : State :=
  let write := Access.ofWrite (.cellStatus k) (s.cellStatusAddr k) (s.cell k).statusWord
  ((s.modCell k fun c => { c with statusDue := false }).cellWork k).startGroup (.upkeep (.cellStatus k)) [write] none

/-! ## Fetch-and-step (R127 to R129) -/

/-- STEP as a signed value. -/
def CellFields.stepInt (f : CellFields) : Int := f.step.toInt

/-- The stepped value of R128 and its limit or range occurrence, over unlimited integers. -/
def stepValue (f : CellFields) (v : Int) : Int × Option OccKind :=
  let lo : Int := f.low.toNat
  let hi : Int := f.high.toNat
  let s := v + f.stepInt
  let span := hi - lo + 1
  if v < lo ∨ hi < v then (if 0 < f.stepInt then lo else hi, some .range)
  else if lo ≤ s ∧ s ≤ hi then (s, none)
  else if hi < s then (if f.saturate then hi else lo + (s - hi - 1) % span, some .limit)
  else (if f.saturate then lo else hi - (lo - s - 1) % span, some .limit)

/-- The word written back by a fetch that found v (R127, R128). -/
def steppedWord (f : CellFields) (v : Word) : Word := BitVec.ofInt 32 (stepValue f v.toNat).1

/-- The at-limit mark after an OKAY read (R128); where no cell exists, a fetch that outlives a failed enable leaves the entry
alone (log 18). -/
def State.markAtLimit (s : State) (k : CellId) (limit : Bool) : State :=
  if s.NoCells then s else s.modCell k fun c => { c with atLimit := limit }

/-- What an OKAY read of a fetch does to the entry (R128): the at-limit mark, and a limit or range occurrence that its
enable lets arise. -/
def State.fetched (s : State) (k : CellId) (f : CellFields) (v : Word) : State :=
  match (stepValue f v.toNat).2 with
  | some .limit =>
    let s := s.markAtLimit k true
    if f.evLimit then s.cellOccurs k .limit (steppedWord f v) else s
  | some .range =>
    let s := s.markAtLimit k false
    if f.evRange then s.cellOccurs k .range v else s
  | _ => s.markAtLimit k false

/-- CELL_FAULT arises (R129); its detail is the address of the entry (log 17). -/
def State.cellFault (s : State) (k : CellId) : State := s.cellOccurs k .fault ((s.cell k).address.setWidth 32)

/-- The write-back of a fetch (R127). -/
def Fetch.writeBack (f : Fetch) (v : Word) : Access := .ofWrite (.cellWriteBack f.cell) f.addr (steppedWord f.fields v)

/-! ## Registration by the enable sequence (R133) -/

/-- The outcome of checks 1 to 4 on a cell record read by E4. -/
def State.enableCheck (s : State) (k : CellId) (a : Addr) (f : CellFields) : Option RejectReason :=
  match s.addressCheck k a with
  | some r => some r
  | none => fieldCheck f

/-- Cell k takes the four words read by E4 (R133), its at-limit mark clear; with VALID clear it stays OFF. No status write is owed, since E5 writes
the status words. -/
def State.registerCell (s : State) (k : CellId) (words : List Word) : State :=
  let copy := words.getD 0 0#32
  let f := cellFieldsOf (words.getD 1 0#32) (words.getD 2 0#32) (words.getD 3 0#32)
  let s := s.modCell k fun c => { c with copy := copy, cstate := .off, atLimit := false }
  if validOf copy then
    match s.enableCheck k (addrOf copy) f with
    | some r => (s.modCell k fun c => { c with cstate := .rejected r }).cellOccurs k .rejected (r.code.setWidth 32)
    | none => s.modCell k fun c => { c with cstate := .live f }
  else s

/-! ## Meanings -/

/-- CELL_LOAD_RESPONSE (R124). -/
def execCellLoadResponse (r : MemResponse) (s : State) : Result :=
  .next (s.respond .cellLoad fun e s =>
    match e.owner with
    | .cellLoad k _ => s.cellLoadResponse k r
    | _ => s)

/-- CELL_STATUS_WRITE_RESPONSE (R132, R169). -/
def execCellStatusWriteResponse (r : MemResponse) (s : State) : Result :=
  .next (s.respond .cellStatus fun _ s => if r = .error then s.latchStatusWriteLost else s)

/-- CELL_WRITE_BACK_RESPONSE (R129). -/
def execCellWriteBackResponse (r : MemResponse) (s : State) : Result :=
  .next (s.respond .cellWriteBack fun e s =>
    match e.owner with
    | .cellWriteBack k => if r = .error then s.cellFault k else s
    | _ => s)

end Sys2Proof.Machine
end

