-- ==== Sys2Proof/Machine/Breaks.lean ====
section
/-! DEFINITION. The Break Engine: the grant of a break with its checks and steps (R93 to R99), the cell read (R100), the
undo (R102), completion and the device's answer (R101), a request on a channel port (R89, R92), and the meanings of the
break response rows and of CHANNEL_REQUEST. -/

namespace Sys2Proof.Machine

/-! ## Completion (R101) -/

/-- LAST and SEGMENT_END as the line stands, and what the transition will read (R74, R101, R116). -/
def Channel.breakEnd (c : Channel) : BreakEnd where
  countZero := c.count == 0#24
  chainZero := c.chain == 0#26
  evSegment := evSegmentOf (c.word .control)
  segmentDone := false

/-- The final answer of a completed group (R94, R101); a group that has not ended has none. -/
def finalAnswer (r : BreakResult) (e : BreakEnd) : Option Answer :=
  match r with
  | .moved d => some (.complete d (e.countZero && e.chainZero) (e.countZero && !e.chainZero))
  | .emptyCount => some (.complete none (e.countZero && e.chainZero) (e.countZero && !e.chainZero))
  | .failed code => some (.failed code)
  | .outstanding => none

/-- The channel after the answer: its transition is made, or held while it is stalled (R82). While a CHANNEL_RESET waits
for the channel the transition is not made, and the fault that would be taken in its place is dropped (R106; log 22). -/
def State.afterBreak (s : State) (n : ChanId) (e : BreakEnd) : State :=
  if s.resetWaits n then s.modCtl n fun k => { k with pendingFault := none }
  else if (s.chan n).isStalled then s.modCtl n fun k => { k with heldCompletion := some (.breakGroup e) }
  else (s.breakTransition n e).settle n

/-- The completion of a break group whose slot holds result `r` (R101). -/
def State.completeBreak (s : State) (n : ChanId) (r : BreakResult) : State :=
  let e := (s.chan n).breakEnd
  match finalAnswer r e with
  | some a => (s.closePort n a).afterBreak n e
  | none => s

/-- No access of the break is still to be issued or answered (R101). -/
def State.breakOver (s : State) (n : ChanId) : Bool :=
  !s.heldBy (.brk n) && !(s.mport.inflight.any fun e => e.owner.isBreak n && !e.orphan)

/-- The group completes if it is over. -/
def State.finishBreak (s : State) (n : ChanId) : State :=
  match (s.chan n).port with
  | .granted _ g => if s.breakOver n then s.completeBreak n g.result else s
  | _ => s

/-! ## The granted group's progress -/

/-- The progress of a granted break changed. -/
def State.modProgress (s : State) (n : ChanId) (f : BreakProgress → BreakProgress) : State :=
  s.modChan n fun c =>
    match c.port with
    | .granted req g => { c with port := .granted req (f g) }
    | _ => c

/-- The result of the group is known. -/
def State.setResult (s : State) (n : ChanId) (r : BreakResult) : State := s.modProgress n fun g => { g with result := r }

/-- The values that come back in an undo (R102): COUNT and ADDRESS unless a passing write replaced them, ADDRESS only where
the grant touched it (log 16), and DONE. -/
def ValidLine.undo (v : ValidLine) (g : BreakProgress) : ValidLine :=
  let v := if g.countReplaced then v else v.put .count g.prevCount
  let v := if g.addressTouched && !g.addressReplaced then v.put .address g.prevAddress else v
  v.put .done g.prevDone

/-- The undo of a stepped break (R102). -/
def State.undoBreak (s : State) (n : ChanId) : State :=
  s.modChan n fun c =>
    match c.port with
    | .granted _ g => if g.stepped then c.modLine fun v => v.undo g else c
    | _ => c

/-- The group ends without moving its word (R100, R102): nothing more of it is issued, the steps are undone, and the fault
arises. -/
def State.breakFails (s : State) (n : ChanId) (code : FaultCode) (a : Addr) : State :=
  (((s.endGroup (.brk n)).undoBreak n).setResult n (.failed code)).faultArise n (.of code a)

/-! ## The grant (R93 to R99) -/

/-- The quiet timer at a break grant (R57). -/
def quietAtGrant (t : Track) (interval : BitVec 12) : Option Nat :=
  if t = .lazy ∧ interval ≠ 0#12 then some interval.toNat else none

/-- The latched MODE; COUNTED where no setup is latched, which no granted break meets (log 21). -/
def Channel.mode (c : Channel) : Mode :=
  match c.ctl.setup with
  | some u => u.mode
  | none => .counted

/-- The latched TRACK; LAZY where no setup is latched (log 21). -/
def Channel.track (c : Channel) : Track :=
  match c.ctl.setup with
  | some u => u.track
  | none => .lazy

/-- The line's ADDRESS. -/
def Channel.lineAddress (c : Channel) : Addr := addrOf (c.word .address)

/-- The cell that a CELL-mode channel names (R23, R95). -/
def Channel.cellIndex (c : Channel) : CellId := Fin.ofNat 16 (c.word .address).toNat

/-- ADDRESS + STRIDE over unlimited integers (R96, R97). -/
def Channel.strideSum (c : Channel) : Int := (c.lineAddress.toNat : Int) + strideOf (c.word .control)

/-- The break would step ADDRESS (R96). -/
def Channel.stepsAddress (c : Channel) (req : DeviceRequest) : Bool :=
  c.mode == .counted && !req.holdAddress && strideOf (c.word .control) != 0

/-- The stepped ADDRESS stays inside the address space (R97). -/
def Channel.strideInRange (c : Channel) : Bool := decide (0 ≤ c.strideSum ∧ c.strideSum ≤ 0x3FFFFFF)

/-- ADDRESS takes its stepped value (R96, R97). -/
def Channel.addressSteps (c : Channel) (req : DeviceRequest) : Bool := c.stepsAddress req && c.strideInRange

/-- The data address leaves the address space at this step (R97). -/
def Channel.strideLeaves (c : Channel) (req : DeviceRequest) : Bool := c.stepsAddress req && !c.strideInRange

/-- The group carries a write of ADDRESS (R98). -/
def Channel.writesAddress (c : Channel) : Bool := c.mode == .counted && c.track == .strict

/-- The steps of a break on the line (R96): COUNT, DONE and, where it steps, ADDRESS are dirty, and STATUS along with them
(R45); the words that a STRICT group writes are clean. -/
def Channel.stepLine (c : Channel) (req : DeviceRequest) : Channel :=
  let strict := c.track == .strict
  let writesAddress := c.writesAddress
  let steps := c.addressSteps req
  let a := BitVec.ofInt 26 c.strideSum
  c.modLine fun v =>
    let v := v.put .count (setField 0 24 (countOf v.words.count - 1#24) v.words.count)
    let v := v.put .done (setField 0 24 (field 0 24 v.words.done + 1#24) v.words.done)
    let v := if steps then v.put .address (setField 0 26 a v.words.address) else v
    { v with dirty :=
        { v.dirty with
          count := !strict
          status := true
          address := if writesAddress then false else v.dirty.address } }

/-- The Break Engine slot at the grant (R88). -/
def Channel.progressAtGrant (c : Channel) (req : DeviceRequest) (a : Addr) : BreakProgress where
  stepped := true
  addressTouched := c.addressSteps req || c.writesAddress
  prevCount := c.word .count
  prevAddress := c.word .address
  prevDone := c.word .done
  countReplaced := false
  addressReplaced := false
  dataAddr := a
  result := .outstanding

/-- The slot before any step. -/
def BreakProgress.fresh : BreakProgress where
  stepped := false
  addressTouched := false
  prevCount := 0#32
  prevAddress := 0#32
  prevDone := 0#32
  countReplaced := false
  addressReplaced := false
  dataAddr := 0#26
  result := .outstanding

/-- The data access of a break (R98). -/
def dataAccess (n : ChanId) (req : DeviceRequest) (d : Direction) (a : Addr) : Access :=
  match d with
  | .dirIn => .ofWrite (.brk n .data) a req.data
  | .dirOut => .ofRead (.brk n .data) a

/-- The STRICT record writes of a group, with the line's values after the step (R98, R99). -/
def State.strictWrites (s : State) (n : ChanId) : List Access :=
  let c := s.chan n
  if c.track = .strict then
    .ofWrite (.brk n .countWrite) (s.recordAddr n .count) (c.word .count) ::
      (if c.mode = .counted then [.ofWrite (.brk n .addressWrite) (s.recordAddr n .address) (c.word .address)] else [])
  else []

/-- The steps and the issue of a break that passed its checks (R93 steps 4 and 5): `accs` is the group after the steps. -/
def State.stepBreak (s : State) (n : ChanId) (req : DeviceRequest) (a : Addr) : State :=
  let c := s.chan n
  let g := c.progressAtGrant req a
  let s := s.modChan n fun c => { c.stepLine req with port := .granted req g }
  if c.strideLeaves req then s.faultArise n (.of .addressRange c.lineAddress) else s

/-- A group that ends at its grant with a fault (R95). -/
def State.breakEndsAtGrant (s : State) (n : ChanId) (code : FaultCode) (a : Addr) : State :=
  (s.faultArise n (.of code a)).completeBreak n (.failed code)

/-- The grant of a COUNTED or DIRECT break from its window check on (R93 steps 3 to 5, R95). -/
def State.grantDirect (s : State) (n : ChanId) (req : DeviceRequest) (a : Addr) : State :=
  if s.inWindow a then s.breakEndsAtGrant n .windowTarget a
  else
    let s := s.stepBreak n req a
    s.startGroup (.brk n) (dataAccess n req req.direction a :: s.strictWrites n) none

/-- The grant of a CELL break from its cell check on (R93 steps 2, 4 and 5, R95, R100). -/
def State.grantCell (s : State) (n : ChanId) (req : DeviceRequest) (k : CellId) : State :=
  match (s.cell k).cstate with
  | .live f =>
    let a := (s.cell k).address
    let s := s.stepBreak n req a
    s.startGroup (.brk n) [.ofRead (.brk n .cellRead) a] (some { cell := k, addr := a, fields := f })
  | _ => s.breakEndsAtGrant n .cellGone 0#26

/-- The state and the port at a grant, before the checks (R93). -/
def Channel.atGrant (c : Channel) (req : DeviceRequest) (interval : BitVec 12) : Channel :=
  let c' := { c with port := .granted req .fresh, quiet := quietAtGrant c.track interval }
  if c.ctl.state = .pending then c'.modCtl fun k => { k with state := .moving } else c'

/-- The grant of a BREAK claim (R93). -/
def State.grantBreak (s : State) (n : ChanId) : State :=
  match (s.chan n).port with
  | .accepted req =>
    let s := (s.modChan n fun c => c.atGrant req s.mgmt.quietInterval).answer n .granted
    let c := s.chan n
    if c.count = 0#24 then s.completeBreak n .emptyCount
    else match c.mode with
      | .counted => s.grantDirect n req c.lineAddress
      | .direct => s.grantDirect n req req.address
      | .cell => s.grantCell n req c.cellIndex
  | _ => s

/-! ## The responses of a group -/

/-- The word of a data access that returned OKAY: for OUT the word read (R101). -/
def movedWord (req : DeviceRequest) (d : Word) : Option Word :=
  match req.direction with
  | .dirOut => some d
  | .dirIn => none

/-- The response of the data access (R101, R102). -/
def State.dataResponse (s : State) (n : ChanId) (r : MemResponse) : State :=
  match (s.chan n).port with
  | .granted req g =>
    match r with
    | .okay d => (s.setResult n (.moved (movedWord req d))).finishBreak n
    | .error => (s.breakFails n .memoryData g.dataAddr).finishBreak n
  | _ => s

/-- The response of a STRICT record write (R99). -/
def State.strictResponse (s : State) (n : ChanId) (w : RecWord) (r : MemResponse) : State :=
  let s :=
    if r = .error then
      (s.modChan n fun c => c.modLine fun v => v.mark w).faultArise n (.of .memoryDescriptor (s.recordAddr n w))
    else s
  s.finishBreak n

/-- The accesses that follow the write-back of a CELL group (R98, R100). -/
def State.cellRest (s : State) (n : ChanId) (req : DeviceRequest) (v : Word) : List Access :=
  dataAccess n req req.direction (addrOf v) :: s.strictWrites n

/-- The lock's group goes on with the accesses that a response has released (R142, R144). -/
def State.release (s : State) (src : GroupSource) (accs : List Access) : State :=
  { s with mport := { s.mport with lock := some { source := src, todo := accs, fetch := none } } }

/-- The value that a CELL group's read returned is checked as the data address (R100). -/
def State.checkCellValue (s : State) (n : ChanId) (req : DeviceRequest) (v : Word) : State :=
  if 0x3FFFFFF < v.toNat then
    (s.breakFails n .addressRange (s.chan n).lineAddress).finishBreak n
  else if s.inWindow (addrOf v) then (s.breakFails n .windowTarget (addrOf v)).finishBreak n
  else (s.modProgress n fun g => { g with dataAddr := addrOf v }).release (.brk n) (s.cellRest n req v)

/-- The response of a CELL group's read (R100, R129), for the fetch the group waits for. -/
def State.cellReadResponse (s : State) (n : ChanId) (f : Fetch) (r : MemResponse) : State :=
  match (s.chan n).port with
  | .granted req _ =>
    match r with
    | .error => ((s.cellFault f.cell).breakFails n .cellFetch f.addr).finishBreak n
    | .okay v => ((s.fetched f.cell f.fields v).issue (f.writeBack v)).checkCellValue n req v
  | _ => s

/-- The fetch that the lock's group waits for (R144). -/
def State.fetch? (s : State) : Option Fetch :=
  match s.mport.lock with
  | some g => g.fetch
  | none => none

/-! ## A request on a channel port (R89, R92) -/

/-- A request that arrives at an IDLE port (R89). -/
def State.arriveIdle (s : State) (n : ChanId) (req : DeviceRequest) : State :=
  let c := s.chan n
  let hold := s.modChan n fun c => { c with port := .held req }
  match c.ctl.state with
  | .off => s.answer n (.refused .notArmed)
  | .halted => s.answer n (.refused .notArmed)
  | .ending => s.answer n (.refused .notArmed)
  | .faulted => s.answer n (.refused .channelFaulted)
  | .ready =>
    if !c.directionMatches req then s.answer n (.refused .directionMismatch)
    else if c.isStalled then hold else s.acceptRequest n req
  | _ => hold

/-- The PORT_PROTOCOL fault (R92). -/
def portProtocol : PendingFault := .of .portProtocol 0#26

/-- A request that arrives while another is outstanding (R92): it is discarded. -/
def State.arriveSecond (s : State) (n : ChanId) : State :=
  match (s.chan n).port with
  | .granted _ _ => s.faultArise n portProtocol
  | _ => (((s.closePort n (.failed .portProtocol)).faultArise n portProtocol).settle n)

/-- A request arrives (R89, R92). -/
def State.arrive (s : State) (n : ChanId) (req : DeviceRequest) : State :=
  match (s.chan n).port with
  | .idle => s.arriveIdle n req
  | _ => s.arriveSecond n

/-! ## Meanings -/

/-- BREAK_CELL_READ_RESPONSE (R100). -/
def execBreakCellReadResponse (r : MemResponse) (s : State) : Result :=
  .next (s.respond .breakCellRead fun e s =>
    match e.owner, s.fetch? with
    | .brk n _, some f => s.cellReadResponse n f r
    | _, _ => s)

/-- BREAK_DATA_RESPONSE (R101, R102). -/
def execBreakDataResponse (r : MemResponse) (s : State) : Result :=
  .next (s.respond .breakData fun e s =>
    match e.owner with
    | .brk n _ => s.dataResponse n r
    | _ => s)

/-- STRICT_WRITE_RESPONSE (R99). -/
def execStrictWriteResponse (r : MemResponse) (s : State) : Result :=
  .next (s.respond .strictWrite fun e s =>
    match e.owner with
    | .brk n .countWrite => s.strictResponse n .count r
    | .brk n _ => s.strictResponse n .address r
    | _ => s)

/-- CHANNEL_REQUEST (R89, R92). -/
def execChannelRequest (n : ChanId) (req : DeviceRequest) (s : State) : Result := .next (s.arrive n req)

end Sys2Proof.Machine
end

