-- ==== Sys2Proof/Machine/Passing.lean ====
section
/-! DEFINITION. The forwarding path: acceptance at the I-port (R1, R3), the head and the PASS claim (R4, R8), the grant of a
passing request by its class (R9 to R13), delivery (R5), and the meanings of READ_REQUEST, WRITE_REQUEST,
FORWARDED_RESPONSE, CELLHIT_READ_RESPONSE and ORPHANED_RESPONSE. -/

namespace Sys2Proof.Machine

/-! ## Acceptance and delivery -/

/-- A request joins the tail of the Pass Queue (R3). -/
def PassQueue.accept (q : PassQueue) (r : Request) : PassQueue :=
  { q with
    entries := q.entries ++ [{ id := q.nextId, request := r, phase := .waiting, cls := none }]
    nextId := q.nextId + 1 }

/-- The requests that stay offered are accepted in order while the queue has room (R1, R3). -/
def PassQueue.acceptOffered (q : PassQueue) : List Request → PassQueue
  | [] => { q with offered := [] }
  | r :: rest =>
    if q.entries.length < Config.passCapacity then (q.accept r).acceptOffered rest else { q with offered := r :: rest }

/-- A request is offered at the I-port (R1): accepted where the queue has room and nothing waits before it. -/
def State.offerRequest (s : State) (r : Request) : State :=
  { s with pass := s.pass.acceptOffered (s.pass.offered ++ [r]) }

/-- The response of an ANSWERED entry. -/
def PassEntry.response? (e : PassEntry) : Option PassResponse :=
  match e.phase with
  | .answered r => some r
  | _ => none

/-- The responses at the front of the queue (R5). -/
def frontResponses : List PassEntry → List PassResponse
  | [] => []
  | e :: rest =>
    match e.response? with
    | some r => r :: frontResponses rest
    | none => []

/-- The queue with the ANSWERED entries at its front gone (R5). -/
def dropAnswered : List PassEntry → List PassEntry
  | [] => []
  | e :: rest => if e.response?.isSome then dropAnswered rest else e :: rest

/-- ANSWERED entries at the front deliver their responses and leave; offered requests take the room (R3, R5). -/
def State.deliver (s : State) : State :=
  { s with
    pass := PassQueue.acceptOffered { s.pass with entries := dropAnswered s.pass.entries } s.pass.offered
    out := s.out ++ (frontResponses s.pass.entries).map PortMessage.response }

/-- An entry of the queue changed. -/
def State.modEntry (s : State) (id : Nat) (f : PassEntry → PassEntry) : State :=
  { s with pass := { s.pass with entries := s.pass.entries.map fun e => if e.id = id then f e else e } }

/-- An entry becomes ANSWERED, and what can leave leaves (R5, R10). -/
def State.answerEntry (s : State) (id : Nat) (r : PassResponse) : State :=
  (s.modEntry id fun e => { e with phase := .answered r }).deliver

/-! ## The head (R4, R8) -/

/-- The head: the oldest WAITING entry. -/
def State.passHead (s : State) : Option PassEntry := s.pass.entries.find? fun e => e.phase == .waiting

/-- A head of this class is held in this window state (R8). -/
def headHeld (st : WindowState) (c : PassClass) : Bool :=
  st == .enabling && (c == .record || c == .cellrec || c == .ringctl)

/-- The PASS claim: the head, while it is not held (R4, R136). -/
def State.passClaim (s : State) : Option PassEntry :=
  match s.passHead with
  | some e => if headHeld s.mgmt.windowState (s.classify e.request) then none else some e
  | none => none

/-! ## Served reads (R11, R41, R156) -/

/-- The channel and the record word of a window word below 64 (R21). -/
def recordPlace (w : Nat) : ChanId × RecWord := (Fin.ofNat 8 (w / 8), RecWord.ofIndex w)

/-- The word that a RECORD read is served with, where the line is VALID (R41). -/
def State.servedRecord (s : State) (w : Nat) : Option Word :=
  (s.chan (recordPlace w).1).words?.map fun ws => ws.get (recordPlace w).2

/-- The RING_STATE word as served (R33, R156). -/
def State.ringStateWord (s : State) : Word := ringStateBits s.events.nextSequence s.mgmt.ringSize s.events.path

/-- The word that a RINGCTL read is served with (R156); ATTENTION is forwarded. -/
def State.servedRing (s : State) (w : Nat) : Option Word :=
  if w = 144 then some (indexWord s.events.producer)
  else if w = 145 then some (indexWord s.events.consumer)
  else if w = 147 then some s.ringStateWord
  else none

/-- The word a passing request is served with, if its grant issues no access (R9, R138). -/
def State.served? (s : State) (r : Request) : Option Word :=
  if r.kind = .write then none
  else match s.classify r, s.windowWord r.addr with
    | .record, some w => s.servedRecord w
    | .ringctl, some w => s.servedRing w
    | _, _ => none

/-! ## The effect of a passing write at its grant (R13) -/

/-- A passing write of a cell record word or a cell status word (R31, R120, R123, R126). -/
def State.cellrecWrite (s : State) (w : Nat) (l : Lanes) (data : Word) : State :=
  if w < 128 then
    let k : CellId := Fin.ofNat 16 ((w - 64) / 4)
    match w % 4 with
    | 0 => s.cellAddrWrite k l data
    | 1 => s.cellFieldWrite k .setup l data
    | 2 => s.cellFieldWrite k .low l data
    | _ => s.cellFieldWrite k .high l data
  else s

/-- A passing write of a ring control word (R155 to R157). -/
def State.ringctlWrite (s : State) (w : Nat) (l : Lanes) (data : Word) : State :=
  if w = 145 then s.consumerWrite l data else if w = 146 then s.attentionWrite l data else s

/-- What a passing write does to the block that owns the word (R13). -/
def State.snoopWrite (s : State) (cls : PassClass) (r : Request) : State :=
  match cls, s.windowWord r.addr with
  | .record, some w => s.recordWrite (recordPlace w).1 (recordPlace w).2 r.lanes r.data
  | .cellrec, some w => s.cellrecWrite w r.lanes r.data
  | .ringctl, some w => s.ringctlWrite w r.lanes r.data
  | _, _ => s

/-! ## The grant of the PASS claim (R9) -/

/-- The access of a forwarded request: the initiator's, unchanged (R2, R10); a read carries no lanes (log 27). -/
def PassEntry.access (e : PassEntry) : Access :=
  match e.request.kind with
  | .read => .ofRead (.pass e.id) e.request.addr
  | .write =>
    { owner := .pass e.id, kind := .write, addr := e.request.addr, lanes := e.request.lanes, data := e.request.data }

/-- A forwarded request (R10), with the effect of a write (R13). -/
def State.forward (s : State) (e : PassEntry) (cls : PassClass) : State :=
  let s := (s.modEntry e.id fun x => { x with phase := .issued, cls := some cls }).startGroup (.pass e.id) [e.access] none
  if e.request.kind = .write then s.snoopWrite cls e.request else s

/-- A CELLHIT read of LIVE cell k (R12). -/
def State.grantCellhit (s : State) (e : PassEntry) (k : CellId) (f : CellFields) : State :=
  let a := (s.cell k).address
  (s.modEntry e.id fun x => { x with phase := .issued, cls := some .cellhit }).startGroup (.pass e.id)
    [.ofRead (.passCell e.id k) a] (some { cell := k, addr := a, fields := f })

/-- A served read (R11). -/
def State.serve (s : State) (e : PassEntry) (cls : PassClass) (w : Word) : State :=
  (s.modEntry e.id fun x => { x with cls := some cls }).answerEntry e.id (.okayRead w)

/-- The LIVE cell that a CELLHIT read meets, with its fields (R6, R127). -/
def State.liveCell? (s : State) (a : Addr) : Option (CellId × CellFields) :=
  match s.liveCellAt a with
  | some k =>
    match (s.cell k).cstate with
    | .live f => some (k, f)
    | _ => none
  | none => none

/-- The grant of the PASS claim (R9). -/
def State.grantPass (s : State) (e : PassEntry) : State :=
  let cls := s.classify e.request
  match s.served? e.request with
  | some w => s.serve e cls w
  | none =>
    if cls = .cellhit then
      match s.liveCell? e.request.addr with
      | some (k, f) => s.grantCellhit e k f
      | none => s
    else s.forward e cls

/-! ## Responses -/

/-- The response of a forwarded access as the initiator gets it (R10, R16). -/
def passResponse (k : Kind) (r : MemResponse) : PassResponse :=
  match r, k with
  | .error, _ => .error
  | .okay d, .read => .okayRead d
  | .okay _, .write => .okayWrite

/-- The response of the read of a CELLHIT pair (R12, R128, R129). The write-back leaves at the address captured at the grant and
checked at the entry's validation (R36), also where a failed enable has ended the window since and WINDOW_BASE has been moved
over that address: DEDUCED (log 31). -/
def State.cellhitResponse (s : State) (id : Nat) (f : Fetch) (r : MemResponse) : State :=
  match r with
  | .okay v => ((s.fetched f.cell f.fields v).release (.pass id) [f.writeBack v]).answerEntry id (.okayRead v)
  | .error => ((s.endGroup (.pass id)).cellFault f.cell).answerEntry id .error

/-! ## Meanings -/

/-- READ_REQUEST (R1, R3). -/
def execReadRequest (a : Addr) (s : State) : Result :=
  .next (s.offerRequest { kind := .read, addr := a, lanes := allLanes, data := 0#32 })

/-- WRITE_REQUEST (R1, R3). -/
def execWriteRequest (a : Addr) (l : Lanes) (d : Word) (s : State) : Result :=
  .next (s.offerRequest { kind := .write, addr := a, lanes := l, data := d })

/-- FORWARDED_RESPONSE (R10, R16). -/
def execForwardedResponse (r : MemResponse) (s : State) : Result :=
  .next (s.respond .forwarded fun e s =>
    match e.owner with
    | .pass id => s.answerEntry id (passResponse e.kind r)
    | _ => s)

/-- CELLHIT_READ_RESPONSE (R12, R129). -/
def execCellhitReadResponse (r : MemResponse) (s : State) : Result :=
  .next (s.respond .cellhitRead fun e s =>
    match e.owner, s.fetch? with
    | .passCell id _, some f => s.cellhitResponse id f r
    | _, _ => s)

/-- ORPHANED_RESPONSE (R15): discarded; an entry of the list leaves it. -/
def execOrphanedResponse (_r : MemResponse) (s : State) : Result := .next (s.respond .orphaned fun _ s => s)

end Sys2Proof.Machine
end

