-- ==== Sys2Proof/Machine/Arbiter.lean ====
section
/-! DEFINITION. The M-port Arbiter: eligibility and the order of choice (R138, R139), the counter and the ages (R140, R141),
the grants, later accesses of a group (R142, R144), and the meanings of GRANT_DECISION and GROUP_ACCESS_ISSUE. -/

namespace Sys2Proof.Machine

/-! ## The order of choice (R139) -/

/-- The PASS claim, if it is eligible: room for an access, or a served read (R138). -/
def State.eligiblePass (s : State) : Option PassEntry :=
  match s.passClaim with
  | some e => if s.hasRoom || (s.served? e.request).isSome then some e else none
  | none => none

/-- The BREAK claim of the lowest channel number, if it is eligible (R138, R139). -/
def State.eligibleBreak (s : State) : Option ChanId :=
  if s.hasRoom then chanIds.find? fun n => (s.chan n).breakClaimed else none

/-- The oldest UPKEEP claim, if it is eligible (R138). -/
def State.eligibleUpkeep (s : State) : Option UpkeepClaim := if s.hasRoom then s.arb.upkeep.head? else none

/-- The oldest UPKEEP claim whose age is 16, if it is eligible (R139 step 1). -/
def State.agedUpkeep (s : State) : Option UpkeepClaim :=
  if s.hasRoom then s.arb.upkeep.find? fun c => c.age == Config.agedAt else none

/-- Step 2 prefers the BREAK claim: there is no PASS claim, or the counter is below BREAK_RUN (R139). -/
def State.breakFirst (s : State) : Bool :=
  s.eligiblePass.isNone || decide (s.arb.breakRun < s.mgmt.breakRunLimit.toNat)

/-- A granted claim. -/
inductive Grant where
  | pass (e : PassEntry)
  | brk (n : ChanId)
  | upkeep (k : UpkeepKind)
deriving DecidableEq, Repr

/-- The claim that a decision grants (R139): the first found by the five steps. -/
def State.choose (s : State) : Option Grant :=
  match s.agedUpkeep with
  | some c => some (.upkeep c.kind)
  | none =>
    match s.eligibleBreak, s.eligiblePass with
    | some n, some e => if s.breakFirst then some (.brk n) else some (.pass e)
    | some n, none => some (.brk n)
    | none, some e => some (.pass e)
    | none, none => s.eligibleUpkeep.map fun c => .upkeep c.kind

/-! ## The grant -/

/-- The break-run counter after a grant (R140). -/
def breakRunAfter (g : Grant) (run : Nat) : Nat :=
  match g with
  | .pass _ => 0
  | .brk _ => if run < 15 then run + 1 else 15
  | .upkeep _ => run

/-- The claim is the granted one. -/
def Grant.isUpkeep (g : Grant) (k : UpkeepKind) : Bool :=
  match g with
  | .upkeep j => j == k
  | _ => false

/-- An age after a grant of another claim (R141). -/
def olderAge (age : Nat) : Nat := if age < Config.agedAt then age + 1 else Config.agedAt

/-- The arbiter after a grant (R139 to R141): the counter, the granted claim gone, every other UPKEEP claim one older. -/
def Arbiter.afterGrant (a : Arbiter) (g : Grant) : Arbiter where
  upkeep := (a.upkeep.filter fun c => !g.isUpkeep c.kind).map fun c => { c with age := olderAge c.age }
  breakRun := breakRunAfter g a.breakRun

/-- The accesses of a step of the enable sequence (R179), with the values at its grant. -/
def State.enableWrites (s : State) (q : SeqStep) : List (Kind × Addr × Word) :=
  match q with
  | .e1 => [(.read, s.wordAddr 145, 0#32)]
  | .e2 => [ (.write, s.wordAddr 144, indexWord s.events.producer)
           , (.write, s.wordAddr 147, ringStateBits 0#16 s.mgmt.ringSize .ok) ]
  | .e3 => chanIds.map fun n =>
      let k := (s.chan n).ctl
      (.write, s.recordAddr n .status, statusBits .off k.lastFault k.lastRefusal k.startCount)
  | .e4 k _ => [0, 1, 2, 3].map fun w => (.read, s.cellRecordAddr k w, 0#32)
  | .e5 => cellIds.map fun k => (.write, s.cellStatusAddr k, cellStatusBits (s.cell k).cstate 0#8 false)
  | _ => []

/-- The group of a step of the enable sequence, each access with its place and the last one marked. -/
def enableGroup (ws : List (Kind × Addr × Word)) : List Access :=
  ws.zipIdx.map fun (w, i) =>
    { owner := .enable i (i + 1 == ws.length), kind := w.1, addr := w.2.1, lanes := allLanes, data := w.2.2 }

/-- E5 carries every status word, so none is due (R133). -/
def State.clearStatusDue (s : State) (q : SeqStep) : State :=
  if q = .e5 then s.mapCells fun c => { c with statusDue := false } else s

/-- The grant of the enable claim (R179). -/
def State.grantEnable (s : State) : State :=
  match s.mgmt.sequence with
  | some q => (s.clearStatusDue q).startGroup (.upkeep .enable) (enableGroup (s.enableWrites q)) none
  | none => s

/-- The grant of the recovery read (R161). -/
def State.grantRecovery (s : State) : State :=
  if s.events.recovery = .claimed then
    (s.modEvents fun e => { e with recovery := .granted }).startGroup (.upkeep .recovery)
      [.ofRead .recovery (s.wordAddr 145)] none
  else s

/-- The grant of an UPKEEP claim. -/
def State.grantUpkeep (s : State) (k : UpkeepKind) : State :=
  match k with
  | .fill n => s.grantFill n
  | .writeback n => s.grantWriteback n
  | .link n => s.grantLink n
  | .cellLoad k => s.grantCellLoad k
  | .cellStatus k => s.grantCellStatus k
  | .post => s.grantPost
  | .recovery => s.grantRecovery
  | .enable => s.grantEnable

/-- The group of a granted claim is performed. -/
def State.perform (s : State) (g : Grant) : State :=
  match g with
  | .pass e => s.grantPass e
  | .brk n => s.grantBreak n
  | .upkeep k => s.grantUpkeep k

/-- One grant: the arbiter's own state first, then the group (R139). -/
def State.grant (s : State) (g : Grant) : State := State.perform { s with arb := s.arb.afterGrant g } g

/-- A grant decision, where the lock is free and a claim is eligible (R138). -/
def State.decision (s : State) : State :=
  if s.mport.lock.isSome then s
  else match s.choose with
    | some g => s.grant g
    | none => s

/-- The next access of the lock's group is issued, where it is released and the list has room; the lock is freed at the
issue of the last (R142). -/
def State.issueNext (s : State) : State :=
  match s.mport.lock with
  | some g =>
    match g.todo with
    | a :: rest =>
      if s.hasRoom then
        let s := s.issue a
        let lock := if rest.isEmpty && g.fetch.isNone then none else some { g with todo := rest }
        { s with mport := { s.mport with lock := lock } }
      else s
    | [] => s
  | none => s

/-! ## Meanings -/

/-- GRANT_DECISION (R138, R139). -/
def execGrantDecision (s : State) : Result := .next s.decision.disableProgress

/-- GROUP_ACCESS_ISSUE (R142). -/
def execGroupAccessIssue (s : State) : Result := .next s.issueNext

end Sys2Proof.Machine
end

