-- ==== Sys2Proof/Machine/Commands.lean ====
section
/-! DEFINITION. The meanings of the six channel commands as they reach their controller (R64 to R73; log 5), and of the two
timer rows (R57, R158), with the tick that the block makes when no command waits (log 4). -/

namespace Sys2Proof.Machine

/-! ## Commands -/

/-- Commands reach the controllers in ENABLED and DISABLING only (R86). -/
def State.reachesControllers (s : State) : Bool :=
  s.mgmt.windowState == .enabled || s.mgmt.windowState == .disabling

/-- A command reaches channel n's controller (R64): it becomes the untaken command, and is taken if the channel can take
it. -/
def State.command (s : State) (n : ChanId) (code : CommandCode) : State :=
  if s.reachesControllers then s.offerCommand n code else s

/-- START (R68). -/
def execStart (n : ChanId) (s : State) : Result := .next (s.command n 1#3)

/-- STOP (R70). -/
def execStop (n : ChanId) (s : State) : Result := .next (s.command n 2#3)

/-- RESUME (R71). -/
def execResume (n : ChanId) (s : State) : Result := .next (s.command n 3#3)

/-- ABORT (R72). -/
def execAbort (n : ChanId) (s : State) : Result := .next (s.command n 4#3)

/-- CLEAR (R73). -/
def execClear (n : ChanId) (s : State) : Result := .next (s.command n 5#3)

/-- UNKNOWN_COMMAND (R67): a code of 6 or 7. -/
def execUnknownCommand (n : ChanId) (code : CommandCode) (s : State) : Result :=
  .next (if code = 6#3 ∨ code = 7#3 then s.command n code else s)

/-! ## Timers -/

/-- The expiry of a quiet timer that has counted down to 0 (R57): it stops and triggers a writeback. -/
def State.quietExpires (s : State) (n : ChanId) : State :=
  if (s.chan n).quiet = some 0 then (s.modChan n fun c => { c with quiet := none }).triggerPlain n else s

/-- QUIET_TIMER_EXPIRY (R57). -/
def execQuietTimerExpiry (n : ChanId) (s : State) : Result := .next (s.quietExpires n)

/-- HOLDOFF_EXPIRY (R158, R159): ATTN is recomputed with the timer expired. -/
def execHoldoffExpiry (s : State) : Result := .next s.refreshAttn

/-- A quiet timer after a tick (R57). -/
def quietTick (q : Option Nat) : Option Nat := q.map fun t => t - 1

/-- A quiet timer reaches 0 at this tick. -/
def quietReachesZero (q : Option Nat) : Bool := q == some 1

/-- The holdoff timer after a tick (R158). -/
def holdoffTick (h : Option Nat) : Option Nat := h.map fun t => if t < 65535 then t + 1 else 65535

/-- The holdoff timer becomes expired at this tick (R158). -/
def EventUnit.holdoffReached (e : EventUnit) : Bool :=
  !e.holdoffExpired && EventUnit.holdoffExpired { e with holdoff := holdoffTick e.holdoff }

/-- The expiries that a tick makes: the quiet timers in channel order, then the holdoff timer. -/
def State.tickExpiries (s : State) : List Instr :=
  (chanIds.filter fun n => quietReachesZero (s.chan n).quiet).map Instr.quietTimerExpiry ++
  (if s.events.holdoffReached then [Instr.holdoffExpiry] else [])

/-- One reference tick of 1 µs (R57, R158): the running timers move, and each expiry becomes a command of the queue
(log 4). -/
def State.tick (s : State) : State :=
  let expiries := s.tickExpiries
  let s := s.mapChannels fun c => { c with quiet := quietTick c.quiet }
  let s := s.modEvents fun e => { e with holdoff := holdoffTick e.holdoff }
  { s with pending := s.pending ++ expiries }

end Sys2Proof.Machine
end

