-- ==== Sys2Proof/Machine/Management.lean ====
section
/-! DEFINITION. The Management Unit: frames and registers (R175 to R177), the window states (R178), the enable sequence
(R168, R179, R180), the end of the disable sequence (R182), the actions and resets (R183, R184), and the meanings of
their rows. -/

namespace Sys2Proof.Machine

/-! ## Frames (R175) -/

/-- The bytes that leave while a frame of six bytes is shifted in (R175). -/
def FrameResponse.bytes (r : FrameResponse) : List Byte := r.status.code :: (wordBytes r.data ++ [0x00#8])

/-- The held response of a frame is shifted out. -/
def State.shiftOut (s : State) : State := s.send (.shifted s.mgmt.response.bytes)

/-- A response replaces the held one, and no byte of a frame is left (R175). -/
def State.respondFrame (s : State) (st : FrameStatus) (data : Word) : State :=
  s.modMgmt fun m => { m with response := { status := st, data := data }, frame := [] }

/-- The ACK of a WRITE frame: its data bytes are a free value (log 8). -/
def State.ackWrite (s : State) : State :=
  { s.respondFrame .ack (Config.freeAckData s.freeCounter) with freeCounter := s.freeCounter + 1 }

/-! ## Registers (R176) -/

/-- The register that a READ frame returns, if the index names one that can be read (R176). -/
def State.readRegister (s : State) (index : Byte) : Option Word :=
  match index.toNat with
  | 0 => some Config.partId
  | 1 => some (s.mgmt.windowBase.setWidth 32)
  | 2 => some (windowControlWord s.mgmt.enable s.mgmt.ringSize s.mgmt.breakRunLimit s.mgmt.quietInterval)
  | 3 => some (s.mgmt.windowState.code.setWidth 32)
  | 4 => some s.mgmt.faults.word
  | 5 => some s.channelStatesWord
  | _ => none

/-- The registers that a WRITE frame reaches (R176). -/
inductive WriteReg where
  | windowBase
  | windowControl
  | faultStatus
  | action
deriving DecidableEq, Repr

/-- The index names a register that can be written. -/
def writeReg (index : Byte) : Option WriteReg :=
  match index.toNat with
  | 1 => some .windowBase
  | 2 => some .windowControl
  | 4 => some .faultStatus
  | 6 => some .action
  | _ => none

/-- The action code of an ACTION word (R176). -/
def actionCode (data : Word) : Nat := (field 0 8 data).toNat

/-- The value tests (R176). -/
def WriteReg.accepts (r : WriteReg) (data : Word) : Bool :=
  match r with
  | .windowBase => decide (data.toNat ≤ 0x3FFF800 ∧ data.toNat % 2048 = 0)
  | .windowControl => decide ((ringSizeField data).toNat ≤ 4) && breakRunField data != 0#4
  | .faultStatus => true
  | .action => decide (1 ≤ actionCode data ∧ actionCode data ≤ 4)

/-- Every Channel Controller is OFF or FAULTED (R178). -/
def State.channelsAtRest (s : State) : Bool :=
  chanIds.all fun n => (s.chan n).ctl.state == .off || (s.chan n).ctl.state == .faulted

/-- ENABLE makes a change that the window state forbids (R178). -/
def State.enableForbidden (s : State) (enable : Bool) : Bool :=
  match s.mgmt.windowState, enable with
  | .enabling, false => true
  | .disabling, true => true
  | .enabled, false => !s.channelsAtRest
  | _, _ => false

/-- A WRITE frame that the present state forbids (R176 to R178, R183). -/
def State.stateForbids (s : State) (r : WriteReg) (data : Word) : Bool :=
  s.mgmt.softWaiting ||
  (match r with
   | .windowBase => s.mgmt.windowState != .disabled
   | .windowControl =>
     (ringSizeField data != s.mgmt.ringSize && s.mgmt.windowState != .disabled) || s.enableForbidden (enableBit data)
   | _ => false)

/-- The judgement of a WRITE frame, in the order of R175. -/
def State.judgeWrite (s : State) (index : Byte) (data : Word) : Except FrameStatus WriteReg :=
  match writeReg index with
  | none => .error .nakIndex
  | some r =>
    if !r.accepts data then .error .nakValue
    else if s.stateForbids r data then .error .nakState
    else .ok r

/-! ## WINDOW_CONTROL (R177, R178) -/

/-- The four fields of WINDOW_CONTROL are taken together (R177). -/
def State.setWindowControl (s : State) (data : Word) : State :=
  s.modMgmt fun m =>
    { m with enable := enableBit data, ringSize := ringSizeField data, breakRunLimit := breakRunField data,
             quietInterval := quietField data }

/-- The window state changes. -/
def State.setWindowState (s : State) (st : WindowState) : State := s.modMgmt fun m => { m with windowState := st }

/-- The enable sequence starts (R179). -/
def State.startEnable (s : State) : State :=
  (((s.setWindowState .enabling).setSequence (some .e1)).modEvents fun e => { e with intake := .opened }).raise .enable

/-- A writeback of a line that belongs to the disable sequence (R181). -/
def WbServes.forDisable : WbServes := { consequence := .nothing, disable := true }

/-- The disable sequence starts (R181): D1 triggers a writeback of every line, in channel order. -/
def State.startDisable (s : State) : State :=
  State.disableProgress
    (chanIds.foldl (fun s n => s.triggerWriteback n .forDisable) ((s.setWindowState .disabling).setSequence (some .d1)))

/-- A taken WINDOW_CONTROL frame (R177, R178). -/
def State.takeWindowControl (s : State) (data : Word) : State :=
  let st := s.mgmt.windowState
  let s := s.setWindowControl data
  if st = .disabled ∧ enableBit data = true then s.startEnable
  else if st = .enabled ∧ enableBit data = false then s.startDisable
  else s

/-! ## Actions (R183) -/

/-- EVENT_PATH_RESET (R161, R171). -/
def State.eventPathReset (s : State) : State :=
  if s.events.path = .ok then s.clearEventPath
  else if s.events.recovery = .none then
    (s.modEvents fun e => { e with recovery := .claimed }).raise .recovery
  else s

/-- An action is ordered or taken (R183). -/
def State.takeAction (s : State) (data : Word) : State :=
  match actionCode data with
  | 1 => s.modMgmt fun m => { m with flushWaiting := true }
  | 2 => s.eventPathReset
  | 3 => s.modMgmt fun m => { m with resetMask := m.resetMask ||| field 8 8 data }
  | _ => s.modMgmt fun m => { m with softWaiting := true }

/-- A WRITE frame that passed the judgement. -/
def State.takeWrite (s : State) (r : WriteReg) (data : Word) : State :=
  match r with
  | .windowBase => s.modMgmt fun m => { m with windowBase := field 0 26 data }
  | .windowControl => s.takeWindowControl data
  | .faultStatus => s.modFaults fun f => f.writeOnes data
  | .action => s.takeAction data

/-- A WRITE frame (R175). -/
def State.writeFrame (s : State) (index : Byte) (data : Word) : State :=
  match s.judgeWrite index data with
  | .ok r => s.ackWrite.takeWrite r data
  | .error st => s.respondFrame st 0#32

/-- A READ frame (R175). -/
def State.readFrame (s : State) (index : Byte) : State :=
  match s.readRegister index with
  | some w => s.respondFrame .ack w
  | none => s.respondFrame .nakIndex 0#32

/-- A frame of six bytes is taken at chip-select rise (R175). -/
def State.takeFrame (s : State) (op index : Byte) (data : Word) : State :=
  let s := s.shiftOut
  if op = 0x01#8 then s.readFrame index
  else if op = 0x02#8 then s.writeFrame index data
  else s.respondFrame .nakIndex 0#32

/-- The bytes that leave during a discarded frame of `k` bytes (R175); past the sixth they are free values (log 8). -/
def State.discardedBytes (s : State) (k : Nat) : List Byte :=
  s.mgmt.response.bytes.take k ++ (List.range (k - 6)).map fun i => Config.freeShiftedByte (s.freeCounter + i)

/-- A frame of other than six bytes (R175): the held response is shifted out and kept; a list of six bytes is no discarded
frame, and nothing happens (log 3). -/
def State.discardFrame (s : State) (bytes : List Byte) : State :=
  if bytes.length = 6 then s
  else
    { s.send (.shifted (s.discardedBytes bytes.length)) with
      freeCounter := s.freeCounter + (bytes.length - 6) }

/-! ## The enable sequence (R168, R179, R180) -/

/-- The enable ends at a read's ERROR (R168). -/
def State.failEnable (s : State) : State :=
  let s := (s.endGroup (.upkeep .enable)).orphan Owner.ofEnableOrCell
  let s := s.modMgmt fun m => { m with windowState := .disabled, enable := false, sequence := none }
  (State.mapCells { s with events := .reset } fun _ => .reset).latchEnableReadError

/-- The Event Unit's values from the CONSUMER word that E1 read (R160). No cell has raised an occurrence since the entries took
their reset values (log 18), so every queued mark is clear, as R119 asks of an empty queue. -/
def EventUnit.enabledWith (e : EventUnit) (c : RingIndex) : EventUnit :=
  { e with
    queue := []
    inPost := none
    producer := c
    consumer := c
    nextSequence := 0#16
    path := .ok
    restoreOwed := false
    heldRejection := none
    intake := .opened
    holdoff := none }

/-- The next step's claim is raised (R179). -/
def State.nextEnableStep (s : State) (q : SeqStep) : State := (s.setSequence (some q)).raise .enable

/-- The step after E4 of cell k. -/
def afterE4 (k : CellId) : SeqStep := if k.val = 15 then .e5 else .e4 (Fin.ofNat 16 (k.val + 1)) []

/-- The window becomes ENABLED (R180). -/
def State.completeEnable (s : State) : State := ((s.setSequence none).setWindowState .enabled).raisePost

/-- A read of the sequence returned OKAY (R179): E1 sets the Event Unit, E4 keeps the word and registers the cell at the
fourth. -/
def State.enableRead (s : State) (d : Word) (last : Bool) : State :=
  match s.mgmt.sequence with
  | some .e1 => ((s.modEvents fun e => e.enabledWith (field 0 16 d)).refreshAttn).nextEnableStep .e2
  | some (.e4 k words) =>
    if last then (s.registerCell k (words ++ [d])).nextEnableStep (afterE4 k)
    else s.setSequence (some (.e4 k (words ++ [d])))
  | _ => s

/-- The last write of a step has returned (R179, R180). -/
def State.enableWritten (s : State) : State :=
  match s.mgmt.sequence with
  | some .e2 => s.nextEnableStep .e3
  | some .e3 => s.nextEnableStep (.e4 0 [])
  | some .e5 => s.completeEnable
  | _ => s

/-- A response of the enable sequence (R168, R179). -/
def State.enableResponse (s : State) (k : Kind) (last : Bool) (r : MemResponse) : State :=
  match k, r with
  | .read, .error => s.failEnable
  | .read, .okay d => s.enableRead d last
  | .write, .error => if last then s.latchStatusWriteLost.enableWritten else s.latchStatusWriteLost
  | .write, .okay _ => if last then s.enableWritten else s

/-! ## Boundaries (R145, R182, R183) -/

/-- The lock is free: a locked-group boundary (R145). -/
def State.atBoundary (s : State) : Bool := s.mport.lock.isNone

/-- The controller after the end of the disable sequence (R86). -/
def Controller.afterDisable (k : Controller) : Controller :=
  { Controller.reset with startCount := k.startCount, lastFault := k.lastFault, lastRefusal := k.lastRefusal }

/-- A channel after the end of the disable sequence (R86, R109, R182). -/
def Channel.afterDisable (c : Channel) : Channel :=
  { c with ctl := c.ctl.afterDisable, line := .invalid, quiet := none, walker := .reset }

/-- The end of the disable sequence (R182). -/
def State.endDisable (s : State) : State :=
  let s := (s.withdraw fun _ => true).orphan Owner.ofWindowBlock
  let s := (s.mapChannels Channel.afterDisable).mapCells fun c => { Cell.reset with copy := c.copy }
  State.modMgmt { s with events := .reset } fun m => { m with windowState := .disabled, sequence := none }

/-- The waiting FLUSH acts at a boundary (R183): a writeback of every VALID line, in channel order. -/
def State.flushNow (s : State) : State :=
  chanIds.foldl (fun s n => s.triggerPlain n) (s.modMgmt fun m => { m with flushWaiting := false })

/-- A held or accepted request of a reset channel is answered CANCELLED (R106). -/
def State.cancelPort (s : State) (n : ChanId) : State :=
  match (s.chan n).port with
  | .idle => s
  | _ => s.closePort n .cancelled

/-- The channel has no break group granted and not complete (R106). -/
def Channel.noGrantedBreak (c : Channel) : Bool :=
  match c.port with
  | .granted _ _ => false
  | _ => true

/-- CHANNEL_RESET of channel n takes effect (R60, R84, R106, R118, R145). -/
def State.resetChannel (s : State) (n : ChanId) : State :=
  let s := s.cancelPort n
  let s := (s.withdraw (UpkeepKind.ofChannel n)).orphan (Owner.isFillOrLink n)
  let s := s.modChan n fun c => { Channel.reset with ctl := { Controller.reset with startCount := c.ctl.startCount } }
  s.modMgmt fun m => { m with resetMask := m.resetMask &&& ~~~(1#8 <<< n.val) }

/-- The Management Unit when SOFT_RESET is taken (R174, R183). -/
def Mgmt.softReset (m : Mgmt) : Mgmt :=
  { m with windowState := .disabled, enable := false, faults := .clear, sequence := none, softWaiting := false,
           flushWaiting := false, resetMask := 0#8 }

/-- SOFT_RESET is taken (R19, R61, R85, R107, R134, R145, R147, R183): the ports are answered, and every block but the Pass
Queue and the in-flight list takes its reset values. -/
def State.takeSoftReset (s : State) : State :=
  let s := chanIds.foldl (fun s n => s.cancelPort n) s
  let s := s.orphan fun o => !o.isPass
  { s with
    arb := { upkeep := [], breakRun := 0 }
    channels := Vector.replicate 8 .reset
    cells := Vector.replicate 16 .reset
    events := .reset
    mgmt := s.mgmt.softReset }

/-- Power-on reset (R18, R184): every part takes its power-on value. The requests still offered at the I-port are new
arrivals; the model's own fields are kept (log 25). -/
def State.powerOn (s : State) : State :=
  { State.reset with
    pass := State.reset.pass.acceptOffered s.pass.offered
    freeCounter := s.freeCounter
    out := s.out
    pending := s.pending }

/-! ## Meanings -/

/-- REGISTER_WRITE (R175, R176): any frame of six bytes (log 7). -/
def execRegisterWrite (op index : Byte) (data : Word) (s : State) : Result := .next (s.takeFrame op index data)

/-- ENABLE_WINDOW (R179): a WRITE frame to WINDOW_CONTROL with ENABLE 1; with ENABLE 0 it is no such command (log 3). -/
def execEnableWindow (data : Word) (s : State) : Result :=
  .next (if enableBit data then s.takeFrame 0x02#8 0x02#8 data else s)

/-- DISABLE_WINDOW (R181): a WRITE frame to WINDOW_CONTROL with ENABLE 0; with ENABLE 1 it is no such command (log 3). -/
def execDisableWindow (data : Word) (s : State) : Result :=
  .next (if enableBit data then s else s.takeFrame 0x02#8 0x02#8 data)

/-- FAULT_STATUS_CLEAR (R170): a WRITE frame to FAULT_STATUS. -/
def execFaultStatusClear (data : Word) (s : State) : Result := .next (s.takeFrame 0x02#8 0x04#8 data)

/-- FLUSH (R183): the frame that orders it. -/
def execFlush (s : State) : Result := .next (s.takeFrame 0x02#8 0x06#8 1#32)

/-- EVENT_PATH_RESET (R161, R171): the frame that orders it. -/
def execEventPathReset (s : State) : Result := .next (s.takeFrame 0x02#8 0x06#8 2#32)

/-- CHANNEL_RESET (R183): the frame that orders it. -/
def execChannelReset (mask : BitVec 8) (s : State) : Result :=
  .next (s.takeFrame 0x02#8 0x06#8 (3#32 ||| (mask.setWidth 32 <<< 8)))

/-- SOFT_RESET (R183): the frame that orders it. -/
def execSoftReset (s : State) : Result := .next (s.takeFrame 0x02#8 0x06#8 4#32)

/-- DISCARDED_FRAME (R175). -/
def execDiscardedFrame (bytes : List Byte) (s : State) : Result := .next (s.discardFrame bytes)

/-- ENABLE_STEP_RESPONSE (R168, R179, R180). -/
def execEnableStepResponse (r : MemResponse) (s : State) : Result :=
  .next (s.respond .enableStep fun e s =>
    match e.owner with
    | .enable _ last => s.enableResponse e.kind last r
    | _ => s)

/-- DISABLE_END (R182): at a boundary, once D2 has ended. -/
def execDisableEnd (s : State) : Result :=
  .next (if s.mgmt.sequence = some .d3 ∧ s.atBoundary = true then s.endDisable else s)

/-- FLUSH_AT_BOUNDARY (R183): at a boundary, while a FLUSH waits. -/
def execFlushAtBoundary (s : State) : Result :=
  .next (if s.mgmt.flushWaiting && s.atBoundary then s.flushNow else s)

/-- CHANNEL_RESET_TAKES_EFFECT (R84, R106): at a boundary, while the channel is in the waiting mask and has no break group
granted and not complete. -/
def execChannelResetTakesEffect (n : ChanId) (s : State) : Result :=
  .next (if s.resetWaits n && s.atBoundary && (s.chan n).noGrantedBreak then (s.resetChannel n).disableProgress else s)

/-- SOFT_RESET_TAKEN (R183): at a boundary, while a SOFT_RESET waits. -/
def execSoftResetTaken (s : State) : Result := .next (if s.mgmt.softWaiting && s.atBoundary then s.takeSoftReset else s)

/-- POWER_ON_RESET (R184). -/
def execPowerOnReset (s : State) : Result := .next s.powerOn

end Sys2Proof.Machine
end

