-- ==== Sys2Proof/Machine/Dispatch.lean ====
section
/-! DEFINITION. The meaning of each command: one arm per row of spec/opcode_table.json. -/

namespace Sys2Proof.Machine

/-- A command's effect on the state. -/
def exec (i : Instr) (s : State) : Host.Outcome State Fault Refusal :=
  match i with
  | .readRequest addr => Sys2Proof.Machine.execReadRequest addr s
  | .writeRequest addr lanes data => Sys2Proof.Machine.execWriteRequest addr lanes data s
  | .grantDecision => Sys2Proof.Machine.execGrantDecision s
  | .groupAccessIssue => Sys2Proof.Machine.execGroupAccessIssue s
  | .start n => Sys2Proof.Machine.execStart n s
  | .stop n => Sys2Proof.Machine.execStop n s
  | .resume n => Sys2Proof.Machine.execResume n s
  | .abort n => Sys2Proof.Machine.execAbort n s
  | .clear n => Sys2Proof.Machine.execClear n s
  | .unknownCommand n code => Sys2Proof.Machine.execUnknownCommand n code s
  | .forwardedResponse r => Sys2Proof.Machine.execForwardedResponse r s
  | .cellhitReadResponse r => Sys2Proof.Machine.execCellhitReadResponse r s
  | .cellWriteBackResponse r => Sys2Proof.Machine.execCellWriteBackResponse r s
  | .breakCellReadResponse r => Sys2Proof.Machine.execBreakCellReadResponse r s
  | .breakDataResponse r => Sys2Proof.Machine.execBreakDataResponse r s
  | .strictWriteResponse r => Sys2Proof.Machine.execStrictWriteResponse r s
  | .fillReadResponse r => Sys2Proof.Machine.execFillReadResponse r s
  | .writebackWriteResponse r => Sys2Proof.Machine.execWritebackWriteResponse r s
  | .linkReadResponse r => Sys2Proof.Machine.execLinkReadResponse r s
  | .cellLoadResponse r => Sys2Proof.Machine.execCellLoadResponse r s
  | .cellStatusWriteResponse r => Sys2Proof.Machine.execCellStatusWriteResponse r s
  | .postWriteResponse r => Sys2Proof.Machine.execPostWriteResponse r s
  | .recoveryReadResponse r => Sys2Proof.Machine.execRecoveryReadResponse r s
  | .enableStepResponse r => Sys2Proof.Machine.execEnableStepResponse r s
  | .orphanedResponse r => Sys2Proof.Machine.execOrphanedResponse r s
  | .channelRequest n req => Sys2Proof.Machine.execChannelRequest n req s
  | .quietTimerExpiry n => Sys2Proof.Machine.execQuietTimerExpiry n s
  | .holdoffExpiry => Sys2Proof.Machine.execHoldoffExpiry s
  | .enableWindow data => Sys2Proof.Machine.execEnableWindow data s
  | .disableWindow data => Sys2Proof.Machine.execDisableWindow data s
  | .disableEnd => Sys2Proof.Machine.execDisableEnd s
  | .registerWrite op index data => Sys2Proof.Machine.execRegisterWrite op index data s
  | .faultStatusClear data => Sys2Proof.Machine.execFaultStatusClear data s
  | .flush => Sys2Proof.Machine.execFlush s
  | .flushAtBoundary => Sys2Proof.Machine.execFlushAtBoundary s
  | .eventPathReset => Sys2Proof.Machine.execEventPathReset s
  | .channelReset mask => Sys2Proof.Machine.execChannelReset mask s
  | .channelResetTakesEffect n => Sys2Proof.Machine.execChannelResetTakesEffect n s
  | .softReset => Sys2Proof.Machine.execSoftReset s
  | .softResetTaken => Sys2Proof.Machine.execSoftResetTaken s
  | .discardedFrame bytes => Sys2Proof.Machine.execDiscardedFrame bytes s
  | .powerOnReset => Sys2Proof.Machine.execPowerOnReset s

end Sys2Proof.Machine
end

