-- ==== Sys2Proof/Machine/Step.lean ====
section
/-! DEFINITION. One step: the command at the front of the queue, or a reference tick on an empty queue (log 4). -/

namespace Sys2Proof.Machine

/-- One step (log 2, log 4): the front command acts on the state with the queue's rest; on an empty queue one reference
tick of 1 µs passes. -/
def step (s : State) : Host.Outcome State Fault Refusal :=
  match s.pending with
  | [] => .next s.tick
  | c :: rest => exec c { s with pending := rest }

/-- The command that a word spells, at the front of the queue; no row of the table gives bits, so no word spells one
(log 24). -/
def State.withFetchWord (s : State) (nbits w : Nat) : State :=
  match decodeTableWord nbits w with
  | some c => { s with pending := c :: s.pending }
  | none => s

end Sys2Proof.Machine
end

