-- ==== Sys2Proof/Safety.lean ====
section
/-! DEFINITION. The laws that every step keeps: the capacities (R3, R14, R140, R141, R148), the ring (R155), the cells
(R121), and STATUS (R62); and the words in which the statements say what a command finds and what it leaves. -/

namespace Sys2Proof.Machine

/-- The capacities: the Pass Queue (R3), the in-flight list (R14), the Pending Event Queue (R148), the break-run counter
(R140) and the ages (R141). -/
def State.Capacities (s : State) : Prop :=
  s.pass.entries.length ≤ 8 ∧ s.mport.inflight.length ≤ 4 ∧ s.events.count ≤ 8 ∧ s.arb.breakRun ≤ 15 ∧
  ∀ c ∈ s.arb.upkeep, c.age ≤ 16

/-- A post is claimed below N only, and the event in post was granted at the PRODUCER before the present one (R151,
R152). -/
def State.PostLaw (s : State) : Prop :=
  (s.events.postPhase = .claimed → s.events.occupancy < s.ringSlots) ∧
  ∀ p, s.events.inPost = some p → s.events.producer = p.prevProducer + 1#16

/-- In DISABLED the Event Unit has no post, no recovery read and no failed path, its indices agree, and no sequence is
under way. -/
def State.AtRest (s : State) : Prop :=
  s.mgmt.windowState = .disabled →
    s.events.producer = s.events.consumer ∧ s.events.postPhase = .none ∧ s.events.inPost = none ∧
    s.events.recovery = .none ∧ s.events.path = .ok ∧ s.mgmt.sequence = none

/-- The ring: the occupancy never exceeds N (R155), with what makes a step keep it. -/
def State.RingLaw (s : State) : Prop := s.events.occupancy ≤ s.ringSlots ∧ s.PostLaw ∧ s.AtRest

/-- No two entries in LOADING or LIVE have one address (R121). -/
def State.CellsDistinct (s : State) : Prop :=
  ∀ j k, j ≠ k → (s.cell j).isRegistered = true → (s.cell k).isRegistered = true →
    (s.cell j).address ≠ (s.cell k).address

/-- No entry in LOADING or LIVE has an address inside the window (R121). -/
def State.CellsOutside (s : State) : Prop :=
  ∀ k, (s.cell k).isRegistered = true → s.inWindow (s.cell k).address = false

/-- The cells: the law of R121, with no cell in DISABLED (R17), where the window may be placed anew. -/
def State.CellLaw (s : State) : Prop :=
  s.CellsDistinct ∧ s.CellsOutside ∧
  (s.mgmt.windowState = .disabled → s.mgmt.sequence = none ∧ ∀ k, (s.cell k).isRegistered = false)

/-- A channel's line, where it is VALID, shows the STATUS of its controller (R62). -/
def Channel.StatusAgrees (c : Channel) : Prop := c.lineValid = true → c.word .status = c.ctl.statusWord

/-- STATUS in every VALID line is the controller's (R62). -/
def State.StatusLaw (s : State) : Prop := ∀ n, (s.chan n).StatusAgrees

/-! ## What a command finds -/

/-- A grant decision of this state grants g: the lock is free, and g is the first claim that the five steps find (R138,
R139). -/
def State.Grants (s : State) (g : Grant) : Prop := s.mport.lock = none ∧ s.choose = some g

/-- The oldest in-flight access has this owner and is not orphaned, and `rest` stands behind it (R15). -/
def State.Awaits (s : State) (o : Owner) (rest : List InFlight) : Prop :=
  ∃ e, s.mport.inflight = e :: rest ∧ e.owner = o ∧ e.orphan = false

/-- Channel n takes a command that reaches it (R64, R86). -/
def State.Takes (s : State) (n : ChanId) : Prop := s.reachesControllers = true ∧ (s.chan n).canTake = true

/-- Channel n is at rest between its operations: it is not stalled, no fault of it is pending and no CHANNEL_RESET waits
for it. -/
def State.Unhindered (s : State) (n : ChanId) : Prop :=
  (s.chan n).ctl.stalled = none ∧ (s.chan n).ctl.pendingFault = none ∧ s.resetWaits n = false

/-- No request is held at channel n's port. -/
def Channel.NoHeld (c : Channel) : Prop := ∀ req, c.port ≠ .held req

/-! ## What a command leaves -/

/-- The two states differ at most in channel n, the M-port, the UPKEEP list, the tail of the Pending Event Queue with the
post phase, and the messages sent since. -/
def State.OnlyChannel (n : ChanId) (s t : State) : Prop :=
  t.pass = s.pass ∧ t.arb.breakRun = s.arb.breakRun ∧ (∀ m, m ≠ n → t.chan m = s.chan m) ∧ t.cells = s.cells ∧
  (∃ more phase, t.events = { s.events with queue := s.events.queue ++ more, postPhase := phase }) ∧
  t.mgmt = s.mgmt ∧ t.freeCounter = s.freeCounter ∧ t.pending = s.pending ∧ ∃ more, t.out = s.out ++ more

/-- The two states differ at most in cell k, the M-port, the UPKEEP list, the tail of the Pending Event Queue with the
post phase, and FAULT_STATUS. -/
def State.OnlyCell (k : CellId) (s t : State) : Prop :=
  t.pass = s.pass ∧ t.arb.breakRun = s.arb.breakRun ∧ t.channels = s.channels ∧ (∀ j, j ≠ k → t.cell j = s.cell j) ∧
  (∃ more phase, t.events = { s.events with queue := s.events.queue ++ more, postPhase := phase }) ∧
  t.mgmt = { s.mgmt with faults := t.mgmt.faults } ∧ t.freeCounter = s.freeCounter ∧ t.pending = s.pending ∧
  t.out = s.out

/-- The Event Unit and the Management Unit are as they were, but that a disable sequence in its step D1 or D2 may have
advanced (R181). -/
def State.OnlyDisableAdvances (s t : State) : Prop :=
  t.events = { s.events with intake := t.events.intake } ∧ t.mgmt = { s.mgmt with sequence := t.mgmt.sequence } ∧
  (s.mgmt.sequence ≠ some .d1 → s.mgmt.sequence ≠ some .d2 → t.events = s.events ∧ t.mgmt = s.mgmt)

/-- A group of accesses has been granted to `src`: the first access has left at the M-port and stands last in the
in-flight list, and the lock is held for the rest, or free where there is none (R142). -/
def State.GroupStarted (s t : State) (src : GroupSource) (first : Access) (rest : List Access) : Prop :=
  t.mport.inflight = s.mport.inflight ++
    [{ owner := first.owner, kind := first.kind, addr := first.addr, lanes := first.lanes, orphan := false }] ∧
  t.mport.lock = (if rest = [] then none else some { source := src, todo := rest, fetch := none }) ∧
  t.out = s.out ++ [first.message]

/-- A channel event was created (R81, R148): discarded while Intake is CLOSED, at the queue's tail where it has room,
else in the channel's stalled slot. -/
def State.EventCreated (s t : State) (n : ChanId) (ev : Event) : Prop :=
  if s.events.intake = .closed then
    t.events.queue = s.events.queue ∧ (t.chan n).ctl.stalled = (s.chan n).ctl.stalled
  else if s.events.count < 8 then
    t.events.queue = s.events.queue ++ [ev] ∧ (t.chan n).ctl.stalled = (s.chan n).ctl.stalled
  else t.events.queue = s.events.queue ∧ (t.chan n).ctl.stalled = some ev

/-- A command was taken and refused (R64, R81): the channel's state, START_COUNT and LAST_FAULT stand, LAST_REFUSAL takes
the reason, COMMAND_REFUSED is created with the code as written, and no command is left untaken. A request still held at
a READY channel is considered next (R65), so there the state stands where no request is held. -/
def State.CommandRefused (s t : State) (n : ChanId) (code : CommandCode) (r : RefusalReason) : Prop :=
  ((s.chan n).NoHeld → (t.chan n).ctl.state = (s.chan n).ctl.state) ∧
  (t.chan n).ctl.startCount = (s.chan n).ctl.startCount ∧ (t.chan n).ctl.lastFault = (s.chan n).ctl.lastFault ∧
  (t.chan n).ctl.lastRefusal = some r ∧ (t.chan n).untaken = 0#3 ∧
  s.EventCreated t n
    { kind := .commandRefused, source := BitVec.ofNat 4 n.val, word1 := (s.chan n).cookie,
      detailA := refusedDetail code r, detailB := (s.chan n).ctl.startCount.setWidth 32 }

/-- A writeback of channel n's VALID line was triggered while some word of it was dirty (R54, R55): claimed, joined to the
waiting claim, or requested behind the granted one. -/
def State.WritebackTriggered (s t : State) (n : ChanId) : Prop :=
  ∀ v, (s.chan n).line = .valid v → ∃ v', (t.chan n).line = .valid v' ∧
    match v.wbPhase with
    | .none => v'.wbPhase = .claimed ∧ { kind := .writeback n, age := 0 } ∈ t.arb.upkeep
    | .claimed => v'.wbPhase = .claimed
    | .granted o f => v'.wbPhase = .granted o f ∧ v'.requested.isSome = true

/-- The writeback of channel n's VALID line that has been triggered serves q: the waiting claim does, or the one requested
behind the granted one (R55, R63, R73, R80). -/
def State.WritebackServes (t : State) (n : ChanId) (q : WbConsequence) : Prop :=
  ∀ v, (t.chan n).line = .valid v →
    (v.wbPhase = .claimed ∧ v.serves.consequence = q) ∨
    ∃ o f w, v.wbPhase = .granted o f ∧ v.requested = some w ∧ w.consequence = q

/-- The words and marks that a break's steps leave in the line (R96 to R98): COUNT one less, DONE one more, ADDRESS
stepped where the mode, the request and STRIDE say so and the sum stays in the address space; the other words stand but
for STATUS. DONE and STATUS are dirty; COUNT is dirty, or clean in a STRICT group; ADDRESS is clean in a STRICT COUNTED group and
else dirty where it stepped. -/
def BreakSteps (c : Channel) (req : DeviceRequest) (v v' : ValidLine) : Prop :=
  let sum : Int := ((addrOf v.words.address).toNat : Int) + strideOf v.words.control
  let steps := c.mode = .counted ∧ req.holdAddress = false ∧ strideOf v.words.control ≠ 0 ∧ 0 ≤ sum ∧ sum ≤ 0x3FFFFFF
  v'.words.count = setField 0 24 (countOf v.words.count - 1#24) v.words.count ∧
  v'.words.done = setField 0 24 (field 0 24 v.words.done + 1#24) v.words.done ∧
  (steps → v'.words.address = setField 0 26 (BitVec.ofInt 26 sum) v.words.address) ∧
  (¬ steps → v'.words.address = v.words.address) ∧
  v'.words.control = v.words.control ∧ v'.words.chain = v.words.chain ∧ v'.words.cookie = v.words.cookie ∧
  v'.words.segments = v.words.segments ∧
  v'.dirty.done = true ∧ v'.dirty.status = true ∧ v'.dirty.count = decide (c.track = .lazy) ∧
  (c.mode = .counted → c.track = .strict → v'.dirty.address = false) ∧
  (¬ (c.mode = .counted ∧ c.track = .strict) → steps → v'.dirty.address = true) ∧
  (¬ (c.mode = .counted ∧ c.track = .strict) → ¬ steps → v'.dirty.address = v.dirty.address) ∧
  v'.wbPhase = v.wbPhase ∧ v'.serves = v.serves ∧ v'.requested = v.requested

/-- Some other access of channel n's break is still to be issued or to return (R101). -/
def State.BreakGoesOn (s : State) (n : ChanId) (rest : List InFlight) : Prop :=
  s.heldBy (.brk n) = true ∨ ∃ e ∈ rest, e.owner.isBreak n = true ∧ e.orphan = false

/-- A break ended without moving its word and its fault was taken (R78, R102): the port is IDLE, DONE comes back, COUNT and
ADDRESS come back unless a passing write replaced them (ADDRESS where the grant touched it), each restored word is dirty,
and the channel is FAULTED with the code. `v` is the line before, `g` the slot. -/
def State.BreakFailed (t : State) (n : ChanId) (g : BreakProgress) (v : ValidLine) (code : FaultCode) : Prop :=
  (t.chan n).port = .idle ∧ (t.chan n).ctl.state = .faulted ∧ (t.chan n).ctl.lastFault = some code ∧
  ∃ v', (t.chan n).line = .valid v' ∧ v'.words.done = g.prevDone ∧ v'.dirty.done = true ∧
    v'.words.count = (if g.countReplaced then v.words.count else g.prevCount) ∧
    v'.dirty.count = (if g.countReplaced then v.dirty.count else true) ∧
    v'.words.address = (if g.addressTouched && !g.addressReplaced then g.prevAddress else v.words.address) ∧
    v'.dirty.address = (if g.addressTouched && !g.addressReplaced then true else v.dirty.address)

/-- What a completion finds in the line of a channel (R74, R101, R116). -/
def ValidLine.breakEnd (v : ValidLine) : BreakEnd where
  countZero := countOf v.words.count == 0#24
  chainZero := addrOf v.words.chain == 0#26
  evSegment := evSegmentOf v.words.control
  segmentDone := false

/-- A break group of channel n has ended, its answer has left and its port is IDLE: that is s, and t is what follows. While a
CHANNEL_RESET waits, a pending fault is dropped (R106; log 22); while the channel is stalled, the completion is held with
what it found (R82; log 13); else the transition is made (R74, R75), and settle follows (R65). -/
def State.GroupEnds (s : State) (n : ChanId) (e : BreakEnd) (t : State) : Prop :=
  (s.resetWaits n = true → t = s.modCtl n fun k => { k with pendingFault := none }) ∧
  (s.resetWaits n = false → (s.chan n).ctl.stalled ≠ none →
    t = s.modCtl n fun k => { k with heldCompletion := some (.breakGroup e) }) ∧
  (s.resetWaits n = false → (s.chan n).ctl.stalled = none → t = (s.breakTransition n e).settle n)

/-- The final event of channel n for an ending kind (R80, R81). -/
def State.finalOf (s : State) (n : ChanId) (e : EndingKind) : Event where
  kind := match e with
    | .terminal => .terminal
    | .aborted _ => .aborted
  source := BitVec.ofNat 4 n.val
  word1 := (s.chan n).cookie
  detailA := (s.chan n).done24.setWidth 32
  detailB := match e with
    | .terminal => (s.chan n).segments16.setWidth 32
    | .aborted count => count.setWidth 32

/-- The FAULT event of channel n (R78, R79, R81). -/
def State.faultEvent (s : State) (n : ChanId) (code : FaultCode) (a : Addr) : Event where
  kind := .fault
  source := BitVec.ofNat 4 n.val
  word1 := (s.chan n).cookie
  detailA := faultDetail code (s.chan n).ctl.startCount
  detailB := a.setWidth 32

end Sys2Proof.Machine
end

