-- ==== Sys2Proof/Certificates/Slice0/Obligations.lean ====
section
/-! DEFINITION. The statements about the GA58 for the provers. Each docstring names the rules it formalises; a clause that
rests on the model's own choice names the log entry. -/

open Sys2Proof Sys2Proof.Machine

/-! ## The machine -/

/-- A step with command c at the front of the queue is exec c on the state with the queue's rest (log 2). -/
def Obligations.StepRunsFrontCommand : Prop :=
  ∀ (c : Instr) (rest : List Instr) (s : State),
    step { s with pending := c :: rest } = exec c { s with pending := rest }

/-- Every command of every state answers a next state, also where the event it stands for cannot happen (the model's choice:
log 3). It leaves the queue of waiting commands alone and takes back no message already sent; the queue and the list of
messages are the model's own fields (log 2, log 9). -/
def Obligations.EveryCommandCompletes : Prop :=
  ∀ (c : Instr) (s : State), ∃ t, exec c s = .next t ∧ t.pending = s.pending ∧ ∃ more, t.out = s.out ++ more

/-- The values after power-on reset (R18, R39, R62, R88, R109, R119, R146, R147, R159, R174). -/
def Obligations.ResetValues : Prop :=
  let s := State.reset
  s.pass.entries = [] ∧ s.mport.inflight = [] ∧ s.mport.lock = none ∧ s.arb.upkeep = [] ∧ s.arb.breakRun = 0 ∧
  (∀ n, (s.chan n).ctl =
      { state := .off, startCount := 0#8, lastFault := none, lastRefusal := none, setup := none, ending := none,
        abortRecorded := false, pendingFault := none, stalled := none, heldCompletion := none, mailbox := 0#3,
        clearing := false } ∧
    (s.chan n).port = .idle ∧ (s.chan n).line = .invalid ∧ (s.chan n).quiet = none ∧ (s.chan n).walker.phase = .none ∧
    (s.chan n).walker.emptyRun = 0 ∧ (s.chan n).walker.flags.evEnd = false ∧ (s.chan n).walker.flags.hold = false) ∧
  (∀ k, s.cell k = { cstate := .off, copy := 0#32, atLimit := false, statusDue := false, queuedMark := false,
                     held := none }) ∧
  s.events =
    { queue := [], inPost := none, postPhase := .none, producer := 0#16, consumer := 0#16, nextSequence := 0#16,
      path := .ok, restoreOwed := false, heldRejection := none, intake := .opened,
      attention := { enable := false, threshold := 1#9, holdoff := 0#16 }, holdoff := none, recovery := .none,
      overtaken := false, attn := false } ∧
  s.mgmt =
    { windowState := .disabled, windowBase := 0#26, enable := false, ringSize := 0#3, breakRunLimit := 4#4,
      quietInterval := 0#12,
      faults := { eventPathFailed := false, ringMisuse := false, enableReadError := false, statusWriteLost := false },
      sequence := none, softWaiting := false, flushWaiting := false, resetMask := 0#8, frame := [],
      response := { status := .ack, data := 0#32 } }

/-- The laws that every step keeps hold after power-on reset. -/
def Obligations.ResetIsLawful : Prop :=
  State.reset.Capacities ∧ State.reset.RingLaw ∧ State.reset.CellLaw ∧ State.reset.StatusLaw

/-- Every step keeps the capacities: 8 entries in the Pass Queue (R3), 4 accesses in flight (R14), 8 events in the Pending
Event Queue with the one in post (R148), a break-run counter of 15 (R140), ages of 16 (R141). -/
def Obligations.EveryStepKeepsTheCapacities : Prop :=
  ∀ s t : State, s.Capacities → step s = .next t → t.Capacities

/-- Every step keeps the ring law: the occupancy never exceeds N (R155). -/
def Obligations.EveryStepKeepsTheRingLaw : Prop :=
  ∀ s t : State, s.Capacities → s.RingLaw → step s = .next t → t.RingLaw

/-- Every step keeps the cell law: no two entries in LOADING or LIVE have one address, and none lies inside the window
(R121). -/
def Obligations.EveryStepKeepsTheCellLaw : Prop :=
  ∀ s t : State, s.Capacities → s.CellLaw → step s = .next t → t.CellLaw

/-- Every step keeps STATUS in every VALID line equal to the controller's fields (R62). -/
def Obligations.EveryStepKeepsTheStatusLaw : Prop :=
  ∀ s t : State, s.Capacities → s.StatusLaw → step s = .next t → t.StatusLaw

/-! ## Words, classes and the order of choice -/

/-- The enabled lanes of written data replace their bytes, and the other bytes stand (R13); lane i carries bits 8i+7 to 8i
(R22). -/
def Obligations.EnabledLanesReplaceTheirBytes : Prop :=
  ∀ (l : Lanes) (data old : Word) (i : Nat), i < 32 →
    (lay l data old).getLsbD i = if l.getLsbD (i / 8) then data.getLsbD i else old.getLsbD i

/-- The Classifier's table (R6, R7): the window is the words from WINDOW_BASE to WINDOW_BASE + 148 + 4N − 1, and a request
takes the class of the first test it meets. -/
def Obligations.ClassifierTable : Prop :=
  ∀ (s : State) (r : Request),
    (∀ w, s.windowWord r.addr = some w ↔
      r.addr.toNat = s.mgmt.windowBase.toNat + w ∧ w < 148 + 4 * (16 * 2 ^ s.mgmt.ringSize.toNat)) ∧
    (s.mgmt.windowState = .disabled → s.classify r = .plain) ∧
    (s.mgmt.windowState ≠ .disabled →
      (∀ w, s.windowWord r.addr = some w →
        (w ≤ 63 → s.classify r = .record) ∧ (64 ≤ w → w ≤ 143 → s.classify r = .cellrec) ∧
        (144 ≤ w → w ≤ 147 → s.classify r = .ringctl) ∧ (148 ≤ w → s.classify r = .ringbody)) ∧
      (s.windowWord r.addr = none →
        (r.kind = .read → (∃ k, (s.cell k).isLive = true ∧ (s.cell k).address = r.addr) → s.classify r = .cellhit) ∧
        (r.kind = .read → (¬ ∃ k, (s.cell k).isLive = true ∧ (s.cell k).address = r.addr) → s.classify r = .plain) ∧
        (r.kind = .write → s.classify r = .plain)))

/-- The five steps of the order of choice (R138, R139), over the claims as the state holds them: a claim needs a free place
in the in-flight list, but for a PASS claim that will be served. -/
def Obligations.OrderOfChoice : Prop :=
  ∀ s : State,
    let room := s.mport.inflight.length < 4
    let aged := room ∧ ∃ c ∈ s.arb.upkeep, c.age = 16
    let brk := fun n : ChanId =>
      room ∧ (s.chan n).breakClaimed = true ∧ ∀ m, m < n → (s.chan m).breakClaimed = false
    let pass := fun e : PassEntry => s.passClaim = some e ∧ (room ∨ (s.served? e.request).isSome = true)
    (∀ l c r, room → s.arb.upkeep = l ++ c :: r → (∀ d ∈ l, d.age ≠ 16) → c.age = 16 →
      s.choose = some (.upkeep c.kind)) ∧
    (∀ n, ¬ aged → brk n → ((¬ ∃ e, pass e) ∨ s.arb.breakRun < s.mgmt.breakRunLimit.toNat) →
      s.choose = some (.brk n)) ∧
    (∀ e, ¬ aged → pass e → ((¬ ∃ n, brk n) ∨ ¬ s.arb.breakRun < s.mgmt.breakRunLimit.toNat) →
      s.choose = some (.pass e)) ∧
    (∀ c r, ¬ aged → (¬ ∃ n, brk n) → (¬ ∃ e, pass e) → room → s.arb.upkeep = c :: r →
      s.choose = some (.upkeep c.kind)) ∧
    ((¬ ∃ e, pass e) → (¬ room ∨ ((¬ ∃ n, brk n) ∧ s.arb.upkeep = [])) → s.choose = none)

/-! ## The I-port and the responses -/

/-- A request offered at the I-port joins the tail of the Pass Queue as a WAITING entry where the queue has room and no
request waits before it (R1, R3), and stays offered while the queue holds 8 entries. Nothing else changes. (A read carries
no lanes and no data: log 27. The identity and the list of offered requests are the model's own: log 9.) -/
def Obligations.RequestIsAcceptedOrStaysOffered : Prop :=
  ∀ (a : Addr) (l : Lanes) (d : Word) (s : State),
    let accepted := fun r : Request =>
      { s with pass := { s.pass with
          entries := s.pass.entries ++ [{ id := s.pass.nextId, request := r, phase := .waiting, cls := none }],
          nextId := s.pass.nextId + 1 } }
    let offered := fun r : Request => { s with pass := { s.pass with offered := s.pass.offered ++ [r] } }
    let read : Request := { kind := .read, addr := a, lanes := 0xF#4, data := 0#32 }
    let write : Request := { kind := .write, addr := a, lanes := l, data := d }
    (s.pass.entries.length < 8 → s.pass.offered = [] →
      exec (.readRequest a) s = .next (accepted read) ∧ exec (.writeRequest a l d) s = .next (accepted write)) ∧
    (8 ≤ s.pass.entries.length →
      exec (.readRequest a) s = .next (offered read) ∧ exec (.writeRequest a l d) s = .next (offered write))

/-- A response that arrives while the in-flight list is empty is discarded, whichever row it is given as (R15, R18); an
orphaned response is discarded too: its entry leaves the in-flight list, and nothing else changes (R15). -/
def Obligations.StrayResponsesAreDiscarded : Prop :=
  (∀ (r : MemResponse) (s : State), s.mport.inflight = [] →
     ∀ c ∈ [Instr.forwardedResponse r, .cellhitReadResponse r, .cellWriteBackResponse r, .breakCellReadResponse r,
            .breakDataResponse r, .strictWriteResponse r, .fillReadResponse r, .writebackWriteResponse r,
            .linkReadResponse r, .cellLoadResponse r, .cellStatusWriteResponse r, .postWriteResponse r,
            .recoveryReadResponse r, .enableStepResponse r, .orphanedResponse r], exec c s = .next s) ∧
  (∀ (r : MemResponse) (e : InFlight) (rest : List InFlight) (s : State),
     s.mport.inflight = e :: rest → e.orphan = true →
     exec (.orphanedResponse r) s = .next { s with mport := { s.mport with inflight := rest } })

/-- The response of a forwarded access decides its entry's answer (R10, R16): at the front of the queue the answer is
delivered with those of the ANSWERED entries behind it, the entries leave and offered requests take the room (R3, R5);
behind the front the entry becomes ANSWERED and nothing is delivered. Only the Pass Queue, the in-flight list and the
messages sent change. -/
def Obligations.ForwardedResponseAnswersItsEntry : Prop :=
  ∀ (r : MemResponse) (e : InFlight) (rest : List InFlight) (p : PassEntry) (ps : List PassEntry) (s : State),
    s.mport.inflight = e :: rest → e.orphan = false → s.pass.entries = p :: ps →
    let response : PassResponse :=
      match r, e.kind with
      | .error, _ => .error
      | .okay d, .read => .okayRead d
      | .okay _, .write => .okayWrite
    (e.owner = .pass p.id → (∀ x ∈ ps, x.id ≠ p.id) →
      exec (.forwardedResponse r) s = .next
        { s with
          mport := { s.mport with inflight := rest }
          pass := PassQueue.acceptOffered { s.pass with entries := dropAnswered ps } s.pass.offered
          out := s.out ++ .response response :: (frontResponses ps).map PortMessage.response }) ∧
    (∀ id, e.owner = .pass id → p.id ≠ id → p.response? = none → s.pass.offered = [] →
      exec (.forwardedResponse r) s = .next
        { s with
          mport := { s.mport with inflight := rest }
          pass := { s.pass with
            entries := p :: ps.map fun x => if x.id = id then { x with phase := .answered response } else x } })

/-! ## Grants of the PASS claim -/

/-- The grant of a request that is forwarded and acts on no block: any request of class PLAIN or RINGBODY, and any read
that is not served and not CELLHIT (R9, R10, R17). The initiator's access leaves unchanged, the entry becomes ISSUED with
its class, the counter becomes 0 (R140), every UPKEEP claim ages (R141), and the blocks stand. -/
def Obligations.ForwardedGrantIssuesTheAccessUnchanged : Prop :=
  ∀ (e : PassEntry) (s : State), s.Grants (.pass e) → s.served? e.request = none →
    s.classify e.request ≠ .cellhit →
    (e.request.kind = .read ∨ s.classify e.request = .plain ∨ s.classify e.request = .ringbody) →
    ∃ t, exec .grantDecision s = .next t ∧
      t.out = s.out ++ [match e.request.kind with
        | .read => .memRead e.request.addr
        | .write => .memWrite e.request.addr e.request.lanes e.request.data] ∧
      (∃ l, t.mport = { s.mport with inflight := s.mport.inflight ++
        [{ owner := .pass e.id, kind := e.request.kind, addr := e.request.addr, lanes := l, orphan := false }] } ∧
        (e.request.kind = .write → l = e.request.lanes)) ∧
      t.pass = { s.pass with entries := s.pass.entries.map fun x =>
        if x.id = e.id then { x with phase := .issued, cls := some (s.classify e.request) } else x } ∧
      t.arb.breakRun = 0 ∧ t.arb.upkeep = s.arb.upkeep.map (fun c => { c with age := min (c.age + 1) 16 }) ∧
      t.channels = s.channels ∧ t.cells = s.cells ∧ s.OnlyDisableAdvances t ∧
      t.freeCounter = s.freeCounter ∧ t.pending = s.pending

/-- A passing write of class RECORD, CELLREC or RINGCTL is forwarded with its lanes and data unchanged and acts on its
owning block at its grant, in the same decision (R10, R13): the block's operation runs on the state that the grant and the
issue leave. -/
def Obligations.SnoopedWriteActsAtItsGrant : Prop :=
  ∀ (e : PassEntry) (w : Nat) (s : State), s.Grants (.pass e) → e.request.kind = .write →
    s.windowWord e.request.addr = some w → s.mgmt.windowState ≠ .disabled → w < 148 →
    let issued : State :=
      { s with
        arb := { upkeep := s.arb.upkeep.map (fun c => { c with age := olderAge c.age }), breakRun := 0 }
        pass := { s.pass with entries := s.pass.entries.map fun x =>
          if x.id = e.id then { x with phase := .issued, cls := some (s.classify e.request) } else x }
        mport := { s.mport with inflight := s.mport.inflight ++
          [{ owner := .pass e.id, kind := .write, addr := e.request.addr, lanes := e.request.lanes, orphan := false }] }
        out := s.out ++ [.memWrite e.request.addr e.request.lanes e.request.data] }
    let l := e.request.lanes
    let d := e.request.data
    (w < 64 → exec .grantDecision s =
      .next (issued.recordWrite (Fin.ofNat 8 (w / 8)) (RecWord.ofIndex w) l d).disableProgress) ∧
    (64 ≤ w → w < 128 → w % 4 = 0 → exec .grantDecision s =
      .next (issued.cellAddrWrite (Fin.ofNat 16 ((w - 64) / 4)) l d).disableProgress) ∧
    (64 ≤ w → w < 128 → w % 4 = 1 → exec .grantDecision s =
      .next (issued.cellFieldWrite (Fin.ofNat 16 ((w - 64) / 4)) .setup l d).disableProgress) ∧
    (64 ≤ w → w < 128 → w % 4 = 2 → exec .grantDecision s =
      .next (issued.cellFieldWrite (Fin.ofNat 16 ((w - 64) / 4)) .low l d).disableProgress) ∧
    (64 ≤ w → w < 128 → w % 4 = 3 → exec .grantDecision s =
      .next (issued.cellFieldWrite (Fin.ofNat 16 ((w - 64) / 4)) .high l d).disableProgress) ∧
    ((128 ≤ w ∧ w < 144) ∨ w = 144 ∨ w = 147 → exec .grantDecision s = .next issued.disableProgress) ∧
    (w = 145 → exec .grantDecision s = .next (issued.consumerWrite l d).disableProgress) ∧
    (w = 146 → exec .grantDecision s = .next (issued.attentionWrite l d).disableProgress)

/-- A served read issues no access and is answered at its grant from the owning block's copy (R11): a RECORD read of
window word 8n + w from channel n's VALID line (R41), a RINGCTL read of word 144, 145 or 147 from the Event Unit (R156).
At the front of the queue the answer leaves at once, with those of the ANSWERED entries behind it (R5); behind the front
the entry keeps it. The owning block does not change. -/
def Obligations.ServedReadIsAnsweredFromTheCopy : Prop :=
  ∀ (e p : PassEntry) (ps : List PassEntry) (w : Nat) (x : Word) (s : State), s.Grants (.pass e) →
    e.request.kind = .read → s.mgmt.windowState ≠ .disabled → s.windowWord e.request.addr = some w →
    ((∃ (n : ChanId) (i : RecWord) (v : ValidLine), w = 8 * n.val + i.index ∧ (s.chan n).line = .valid v ∧ x = v.words.get i) ∨
      (w = 144 ∧ x = s.events.producer.setWidth 32) ∨ (w = 145 ∧ x = s.events.consumer.setWidth 32) ∨
      (w = 147 ∧ x = ringStateBits s.events.nextSequence s.mgmt.ringSize s.events.path)) →
    s.pass.entries = p :: ps → (∀ y ∈ ps, y.id ≠ p.id) → s.pass.offered = [] →
    ∃ t, exec .grantDecision s = .next t ∧
      (e.id = p.id →
        t.out = s.out ++ .response (.okayRead x) :: (frontResponses ps).map PortMessage.response ∧
        t.pass.entries = dropAnswered ps) ∧
      (e.id ≠ p.id → p.response? = none →
        t.out = s.out ∧ t.pass.entries = p :: ps.map fun y =>
          if y.id = e.id then { y with cls := some (s.classify e.request), phase := .answered (.okayRead x) } else y) ∧
      t.mport = s.mport ∧ t.arb.breakRun = 0 ∧ t.channels = s.channels ∧ t.cells = s.cells ∧
      s.OnlyDisableAdvances t ∧ t.freeCounter = s.freeCounter ∧ t.pending = s.pending

/-- A CELLHIT pair. Its grant (R12, R127): the read of the cell's address leaves with the PASS entry's identity, the lock is
held for the write-back that waits for its response, the entry becomes ISSUED, and no block changes. The read's response (R12,
R128, R129): OKAY answers the entry with the value found and releases the write-back of the stepped value under the lock; ERROR
answers ERROR, frees the lock with no write issued, and records CELL_FAULT with the entry's address. (At the response the entry
stands at the front, with no answered entry behind it; the last clause says the same of an entry anywhere, through the
operations fetched, cellOccurs and answerEntry. The address that CELL_FAULT carries is log 17's; a response after a failed
enable, where no cell exists, marks nothing: log 18; its write-back leaves unchecked: log 31.) -/
def Obligations.CellhitPairReadsAndWritesBack : Prop :=
  (∀ (e : PassEntry) (k : CellId) (f : CellFields) (s : State), s.Grants (.pass e) →
     s.classify e.request = .cellhit → (s.cell k).cstate = .live f → (s.cell k).address = e.request.addr →
     s.CellsDistinct →
     ∃ t, exec .grantDecision s = .next t ∧
       t.out = s.out ++ [.memRead e.request.addr] ∧
       t.mport.inflight = s.mport.inflight ++
         [{ owner := .passCell e.id k, kind := .read, addr := e.request.addr, lanes := 0xF#4, orphan := false }] ∧
       t.mport.lock = some { source := .pass e.id, todo := [], fetch := some { cell := k, addr := e.request.addr, fields := f } } ∧
       t.pass = { s.pass with entries := s.pass.entries.map fun x =>
         if x.id = e.id then { x with phase := .issued, cls := some .cellhit } else x } ∧
       t.arb.breakRun = 0 ∧ t.channels = s.channels ∧ t.cells = s.cells ∧ s.OnlyDisableAdvances t ∧
       t.freeCounter = s.freeCounter ∧ t.pending = s.pending) ∧
  (∀ (r : MemResponse) (rest : List InFlight) (p : PassEntry) (ps : List PassEntry) (f : Fetch) (s : State),
     s.Awaits (.passCell p.id f.cell) rest →
     s.mport.lock = some { source := .pass p.id, todo := [], fetch := some f } →
     s.pass.entries = p :: ps → s.pass.offered = [] → (∀ x ∈ ps, x.id ≠ p.id ∧ x.response? = none) →
     let s' : State := { s with mport := { s.mport with inflight := rest } }
     let freed : State := { s with mport := { inflight := rest, lock := none } }
     ∃ t, exec (.cellhitReadResponse r) s = .next t ∧
       t.pass = { s.pass with entries := ps } ∧ t.mport.inflight = rest ∧
       s.OnlyCell f.cell { t with pass := s.pass, out := s.out } ∧ t.mgmt = s.mgmt ∧
       (∀ v, r = .okay v →
         t.out = s.out ++ [.response (.okayRead v)] ∧
         t.mport.lock = some { source := .pass p.id, fetch := none, todo :=
           [{ owner := .cellWriteBack f.cell, kind := .write, addr := f.addr, lanes := 0xF#4,
              data := BitVec.ofInt 32 (stepValue f.fields v.toNat).1 }] } ∧
         (t.cell f.cell).cstate = (s.cell f.cell).cstate ∧
         (¬ s.NoCells →
           (t.cell f.cell).atLimit = decide ((stepValue f.fields v.toNat).2 = some .limit)) ∧
         t = { s'.fetched f.cell f.fields v with pass := t.pass, out := t.out, mport := t.mport }) ∧
       (r = .error →
         t = { freed.cellOccurs f.cell .fault ((s.cell f.cell).address.setWidth 32) with pass := t.pass, out := t.out } ∧
         t.out = s.out ++ [.response .error] ∧ t.mport.lock = none ∧
         (t.cell f.cell).cstate = (s.cell f.cell).cstate ∧ (t.cell f.cell).atLimit = (s.cell f.cell).atLimit)) ∧
  (∀ (id : Nat) (rest : List InFlight) (f : Fetch) (s : State), s.Awaits (.passCell id f.cell) rest →
     s.mport.lock = some { source := .pass id, todo := [], fetch := some f } →
     let s' : State := { s with mport := { s.mport with inflight := rest } }
     let freed : State := { s with mport := { inflight := rest, lock := none } }
     (∀ v, exec (.cellhitReadResponse (.okay v)) s = .next
       (State.answerEntry
         { s'.fetched f.cell f.fields v with
           mport :=
             { inflight := rest
               lock := some { source := .pass id, fetch := none, todo :=
                 [{ owner := .cellWriteBack f.cell, kind := .write, addr := f.addr, lanes := 0xF#4,
                    data := BitVec.ofInt 32 (stepValue f.fields v.toNat).1 }] } } } id (.okayRead v))) ∧
     exec (.cellhitReadResponse .error) s = .next
       ((freed.cellOccurs f.cell .fault ((s.cell f.cell).address.setWidth 32)).answerEntry id .error))

/-- A later access of the lock's group is issued where the list has room and the access is released; the lock is freed at
the issue of the last, and kept where the group still waits for a fetch (R142, R144). Where no group holds the lock,
nothing of it is released, or the list is full, the row changes nothing (the model's choice: log 3). -/
def Obligations.GroupAccessIssueSendsTheNextAccess : Prop :=
  ∀ s : State,
    (∀ (g : Group) (a : Access) (rest : List Access), s.mport.lock = some g → g.todo = a :: rest →
      s.mport.inflight.length < 4 →
      exec .groupAccessIssue s = .next
        { s with
          mport :=
            { inflight := s.mport.inflight ++
                [{ owner := a.owner, kind := a.kind, addr := a.addr, lanes := a.lanes, orphan := false }]
              lock := if rest = [] ∧ g.fetch = none then none else some { g with todo := rest } }
          out := s.out ++ [match a.kind with
            | .read => .memRead a.addr
            | .write => .memWrite a.addr a.lanes a.data] }) ∧
    ((s.mport.lock = none ∨ (∃ g, s.mport.lock = some g ∧ g.todo = []) ∨ 4 ≤ s.mport.inflight.length) →
      exec .groupAccessIssue s = .next s)

/-! ## Passing writes at their grant -/

/-- A passing write of a record word, by the line's state. VALID, and a word other than CONTROL: COUNT, ADDRESS, CHAIN and
COOKIE take the written lanes, all four lanes leave the word clean and fewer leave its mark (R42); STATUS, DONE and SEGMENTS
keep their value and are marked dirty, whatever the lanes (R44); the line's other words, marks and phase stand. A write of
COUNT, ADDRESS or CHAIN joins the overlay of a granted link (R112), and one of COUNT or ADDRESS is noted in the slot of a
granted break, so that an undo keeps it (R102), unless no lane was enabled (log 16). A waiting
writeback whose words have all become clean ends instead with nothing written (R52): the statement leaves that case to the
operation it names. FILLING: a claimed fill takes nothing but the command that a CONTROL write carries (R47); a granted one
merges the lanes, or the written-since mark, into its overlay as well (R48). INVALID: only a CONTROL write that carries a
command acts: it becomes the mailbox's, in place of an earlier one, and settle takes it where the channel can (R64, R65), else
it waits there (R66). Nothing but the channel changes where no command is taken. -/
def Obligations.RecordWriteByLineState : Prop :=
  ∀ (n : ChanId) (w : RecWord) (l : Lanes) (d : Word) (s : State),
    let carries := w = .control ∧ l.getLsbD 1 = true ∧ commandOf d ≠ 0#3
    let withLine := fun (x : Line) => s.setChan n { s.chan n with line := x }
    let joined := fun (h : HeldLanes) => { value := lay l d h.value, lanes := h.lanes ||| l : HeldLanes }
    let overlay := fun (o : LinkOverlay) =>
      { count := if w = .count then joined o.count else o.count
        address := if w = .address then joined o.address else o.address
        chain := if w = .chain then joined o.chain else o.chain : LinkOverlay }
    let walker : Walker :=
      match (s.chan n).walker.phase with
      | .granted a ws o => { (s.chan n).walker with phase := .granted a ws (overlay o) }
      | _ => (s.chan n).walker
    let port : Port :=
      match (s.chan n).port with
      | .granted req g => .granted req
          { g with countReplaced := g.countReplaced || (w == .count && l != 0#4)
                   addressReplaced := g.addressReplaced || (w == .address && l != 0#4) }
      | p => p
    (∀ v, (s.chan n).line = .valid v → w ≠ .control →
      let shared := w = .count ∨ w = .address ∨ w = .chain ∨ w = .cookie
      let mark := if shared then (v.dirty.get w && l != 0xF#4) else true
      let v' : ValidLine :=
        { v with words := if shared then v.words.set w (lay l d (v.words.get w)) else v.words, dirty := v.dirty.set w mark }
      let c := { s.chan n with line := .valid v', walker := walker, port := port }
      (v.wbPhase ≠ .claimed ∨ v'.dirty.any = true → s.recordWrite n w l d = s.setChan n c) ∧
      (v.wbPhase = .claimed → v'.dirty.any = false →
        s.recordWrite n w l d = ((s.setChan n c).withdraw fun k => k == .writeback n).endWriteback n none)) ∧
    (∀ waiting, (s.chan n).line = .filling .claimed waiting →
      s.recordWrite n w l d = withLine (.filling .claimed (if carries then commandOf d else waiting))) ∧
    (∀ ws o waiting, (s.chan n).line = .filling (.granted ws o) waiting →
      let o' : FillOverlay :=
        { count := if w = .count then joined o.count else o.count
          address := if w = .address then joined o.address else o.address
          control := if w = .control then joined o.control else o.control
          chain := if w = .chain then joined o.chain else o.chain
          cookie := if w = .cookie then joined o.cookie else o.cookie
          status := o.status || w == .status
          done := o.done || w == .done
          segments := o.segments || w == .segments }
      s.recordWrite n w l d = withLine (.filling (.granted ws o') (if carries then commandOf d else waiting))) ∧
    ((s.chan n).line = .invalid → ¬ carries → s.recordWrite n w l d = s) ∧
    ((s.chan n).line = .invalid → carries → s.recordWrite n w l d =
      (s.setChan n { s.chan n with ctl := { (s.chan n).ctl with mailbox := commandOf d } }).settle n) ∧
    ((s.chan n).line = .invalid → carries → (s.chan n).canTake = false → (s.chan n).NoHeld →
      s.recordWrite n w l d = s.setChan n { s.chan n with ctl := { (s.chan n).ctl with mailbox := commandOf d } })

/-- A passing write of CONTROL on a VALID line (R43, R76): the setup fields are the written ones, or the line's where the
write is setup-locked; STRIDE, EV_SEGMENT and the spare bits are taken as written; COMMAND is the written one where lane 1
is enabled and it is not NONE, else it stands. CONTROL is clean just where it was clean or all four lanes were written and
the result is the written lanes over the prior word. The other words and marks stand. A setup-locked write that carries no
command, in LOADING, READY, PENDING, MOVING, LINKING, DRAINING and ENDING: the line keeps its setup fields and CONTROL is
dirty, LAST_REFUSAL becomes SETUP_LOCKED, and COMMAND_REFUSED is created with code 0, or no event where the channel is
stalled; the state stands, and nothing but the channel and the event changes. Every such write is the line's write, then that
refusal, with the code written, where the setup is locked, then in READY, PENDING, MOVING, DRAINING and LINKING, where it
leaves a forbidden STRIDE, the fault BAD_SETUP (R77), then settle; a waiting writeback whose words are all clean ends after it
(R52). OFF, HALTED and FAULTED take new setup fields with no refusal (R76). The fault is taken, or pends while a group runs or
the channel is stalled (R78). Settle takes an untaken command just as the row of that command does (R64, R65, R67 to R73), and
does nothing where none can be taken and no request is held. (The fault after the refusal and before the command: log 12.) -/
def Obligations.ControlWriteAndItsSetupLock : Prop :=
  (∀ (v : ValidLine) (l : Lanes) (d : Word) (locked : Bool),
     let prior := v.words.control
     let m := lay l d prior
     let v' := v.writeControl l d locked
     let r := v'.words.control
     setupBits r = (if locked then setupBits prior else setupBits m) ∧
     (∀ i, 6 ≤ i → i ≤ 11 → r.getLsbD i = m.getLsbD i) ∧ (∀ i, 15 ≤ i → i ≤ 31 → r.getLsbD i = m.getLsbD i) ∧
     commandOf r = (if l.getLsbD 1 = true ∧ commandOf d ≠ 0#3 then commandOf d else commandOf prior) ∧
     (v'.dirty.control = false ↔ (v.dirty.control = false ∨ l = 0xF#4) ∧ r = m) ∧
     v' = { v with words := { v.words with control := r }, dirty := { v.dirty with control := v'.dirty.control } }) ∧
  (∀ (n : ChanId) (l : Lanes) (d : Word) (v : ValidLine) (s : State),
     (s.chan n).line = .valid v →
     (s.chan n).ctl.state ∈ [ChanState.loading, .ready, .pending, .moving, .linking, .draining, .ending] →
     setupBits (lay l d v.words.control) ≠ setupBits v.words.control →
     (l.getLsbD 1 = false ∨ commandOf d = 0#3) → commandOf v.words.control = 0#3 → (s.chan n).NoHeld →
     strideValid (lay l d v.words.control) = true →
     let t := s.recordWrite n .control l d
     (∃ v', (t.chan n).line = .valid v' ∧ setupBits v'.words.control = setupBits v.words.control ∧
       v'.dirty.control = true) ∧
     (t.chan n).ctl.state = (s.chan n).ctl.state ∧ (t.chan n).ctl.lastRefusal = some .setupLocked ∧
     ((s.chan n).ctl.stalled = none →
       s.EventCreated t n
         { kind := .commandRefused, source := BitVec.ofNat 4 n.val, word1 := v.words.cookie,
           detailA := refusedDetail 0#3 .setupLocked, detailB := (s.chan n).ctl.startCount.setWidth 32 }) ∧
     (∀ ev, (s.chan n).ctl.stalled = some ev →
       t.events.queue = s.events.queue ∧ (t.chan n).ctl.stalled = some ev) ∧
     s.OnlyChannel n t ∧ t.mport = s.mport) ∧
  (∀ (n : ChanId) (l : Lanes) (d : Word) (v : ValidLine) (s : State), (s.chan n).line = .valid v →
     let c := s.chan n
     let code : CommandCode := if l.getLsbD 1 = true then commandOf d else 0#3
     let locks := c.ctl.state ∈ [ChanState.loading, .ready, .pending, .moving, .linking, .draining, .ending] ∧
       setupBits (lay l d v.words.control) ≠ setupBits v.words.control
     let faults := c.ctl.state ∈ [ChanState.ready, .pending, .moving, .draining, .linking] ∧
       strideValid (lay l d v.words.control) = false
     let fault : PendingFault := { code := .badSetup, address := 0#26, noWriteback := false }
     let written := fun locked : Bool => s.setChan n { c with line := .valid (v.writeControl l d locked) }
     let t := s.recordWrite n .control l d
     let goesOn := fun x : State =>
       (¬ faults → t = (x.settle n).withdrawClean n) ∧ (faults → t = ((x.faultArise n fault).settle n).withdrawClean n)
     let rests := (v.wbPhase ≠ .claimed ∨ (v.writeControl l d false).dirty.any = true) ∧ c.NoHeld ∧
       (code = 0#3 ∧ commandOf v.words.control = 0#3 ∨ c.canTake = false)
     (¬ locks → goesOn (written false)) ∧
     (locks → c.ctl.stalled = none → goesOn ((written true).refuse n code .setupLocked)) ∧
     (locks → c.ctl.stalled ≠ none → goesOn ((written true).setRefusal n .setupLocked)) ∧
     (¬ locks → ¬ faults → rests → t = written false) ∧
     (¬ locks → faults → rests →
       (c.opInFlight = true ∨ c.ctl.stalled ≠ none → t = (written false).modCtl n fun k =>
         { k with pendingFault := some (k.pendingFault.getD fault) }) ∧
       (c.opInFlight = false → c.ctl.stalled = none → c.ctl.pendingFault = none → commandOf v.words.control = 0#3 →
         code = 0#3 →
         (t.chan n).ctl.state = .faulted ∧ (t.chan n).ctl.lastFault = some .badSetup ∧
         s.EventCreated t n (s.faultEvent n .badSetup 0#26) ∧ s.OnlyChannel n t))) ∧
  (∀ (n : ChanId) (s : State),
     (∀ p ∈ [(Instr.start n, 1#3), (.stop n, 2#3), (.resume n, 3#3), (.abort n, 4#3), (.clear n, 5#3),
             (.unknownCommand n 6#3, 6#3), (.unknownCommand n 7#3, 7#3)],
       s.Takes n → (s.chan n).untaken = p.2 → exec p.1 s = .next (s.settle n)) ∧
     ((s.chan n).untaken = 0#3 ∨ (s.chan n).canTake = false → (s.chan n).NoHeld → s.settle n = s))

/-- Passing writes of the ring control words at their grant. CONSUMER (R155): bits 15:0 of the written lanes over the kept
value are accepted where PRODUCER minus them is at most N, and then become CONSUMER, clear the restore mark where lanes 0 and 1
were both written, and restart or stop the holdoff timer (R158); else CONSUMER stands, the restore is owed, RING_MISUSE is
latched, and CONSUMER_REJECTED is created where Intake and the held rejection allow (R148, R150). A granted recovery read is
marked overtaken either way (R162). ATTENTION (R157): the copy takes the written lanes and ATTN is recomputed by R159, the
elapsed time standing. -/
def Obligations.RingControlWritesAtTheirGrant : Prop :=
  ∀ (l : Lanes) (d : Word) (s : State),
    let c : RingIndex := field 0 16 (lay l d (s.events.consumer.setWidth 32))
    let t := s.consumerWrite l d
    let u := s.attentionWrite l d
    let a := lay l d s.events.attention.word
    ((s.events.producer - c).toNat ≤ s.ringSlots →
      t.events.consumer = c ∧
      t.events.restoreOwed = (if l.getLsbD 0 && l.getLsbD 1 then false else s.events.restoreOwed) ∧
      t.events.holdoff = (if s.events.producer = c then none else some 0) ∧
      t.events.attn = t.events.attnLevel s.ringSlots ∧ t.mgmt = s.mgmt ∧ t.events.queue = s.events.queue ∧
      t.events.heldRejection = s.events.heldRejection) ∧
    (¬ (s.events.producer - c).toNat ≤ s.ringSlots →
      t.events.consumer = s.events.consumer ∧ t.events.restoreOwed = true ∧
      t.events.holdoff = s.events.holdoff ∧ t.events.attn = s.events.attn ∧
      t.mgmt = { s.mgmt with faults := { s.mgmt.faults with ringMisuse := true } } ∧
      (s.events.intake = .opened → s.events.heldRejection = none →
        let ev : Event := { kind := .consumerRejected, source := 0#4, word1 := 0#32, detailA := c.setWidth 32,
                            detailB := s.events.consumer.setWidth 32 }
        (s.events.count < 8 → t.events.queue = s.events.queue ++ [ev] ∧ t.events.heldRejection = none) ∧
        (¬ s.events.count < 8 → t.events.queue = s.events.queue ∧ t.events.heldRejection = some ev)) ∧
      (s.events.intake = .closed ∨ s.events.heldRejection.isSome = true →
        t.events.queue = s.events.queue ∧ t.events.heldRejection = s.events.heldRejection)) ∧
    t.events = { s.events with
      consumer := t.events.consumer, restoreOwed := t.events.restoreOwed, holdoff := t.events.holdoff,
      attn := t.events.attn, queue := t.events.queue, heldRejection := t.events.heldRejection,
      postPhase := t.events.postPhase, overtaken := s.events.recovery == .granted || s.events.overtaken } ∧
    t.pass = s.pass ∧ t.mport = s.mport ∧ t.arb.breakRun = s.arb.breakRun ∧ t.channels = s.channels ∧
    t.cells = s.cells ∧ t.out = s.out ∧
    u = { s with events := { s.events with
        attention := { enable := a.getLsbD 15, threshold := field 0 9 a, holdoff := field 16 16 a }
        attn := a.getLsbD 15 && (decide (effectiveThreshold (field 0 9 a).toNat s.ringSlots ≤
            (s.events.producer - s.events.consumer).toNat) ||
          (match s.events.holdoff with
            | some e => decide ((field 16 16 a).toNat ≤ e)
            | none => false)) } }

/-- Passing writes of a cell record at their grant. CELL_ADDR (R120, R121, R126): the copy takes the written lanes; then, by
CSTATE and the copy's VALID and ADDRESS, the entry goes OFF, stays, commits into LOADING, is REJECTED by check 1 or 2, or,
LIVE, moves to the new address. A commit of a LOADING entry keeps a load that is due or claimed, and restarts a granted one:
its reads in flight are orphaned, and the load is claimed anew, or due behind a status claim (R122, R125). A load that ends in
OFF or REJECTED is abandoned: its claim is withdrawn, its reads are orphaned. A change of CSTATE sets status due. SETUP, LOW
and HIGH (R123, R126): a granted load merges the lanes into its overlay; a LIVE entry takes them, and is REJECTED where STEP
becomes 0 or LOW rises above HIGH; an entry in any other state changes nothing. Each entry to REJECTED makes a CELL_REJECTED
occurrence with the reason's code (R121, R126, R130), by the operation cellOccurs. -/
def Obligations.CellRecordWritesByState : Prop :=
  ∀ (k : CellId) (l : Lanes) (d : Word) (s : State), s.mgmt.windowState ≠ .disabled →
    let copy := lay l d (s.cell k).copy
    let a : Addr := field 0 26 copy
    let duplicate := ∃ j, j ≠ k ∧ (s.cell j).isRegistered = true ∧ (s.cell j).address = a
    let c := (s.cellAddrWrite k l d).cell k
    let orphaned := s.mport.inflight.map fun e => if e.owner.isCellLoad k then { e with orphan := true } else e
    let rejected := fun (x : Cell) (r : RejectReason) (code : Word) (t : State) =>
      let u := (s.setCell k { x with cstate := .rejected r, statusDue := true }).cellOccurs k .rejected code
      t.cell k = u.cell k ∧ t.events = u.events
    c.copy = copy ∧
    (∀ p, (s.cell k).cstate = .loading p → (∀ q, c.cstate ≠ .loading q) →
      (s.cellAddrWrite k l d).mport = { s.mport with inflight := orphaned } ∧
      ∀ x ∈ (s.cellAddrWrite k l d).arb.upkeep, x.kind ≠ .cellLoad k) ∧
    (copy.getLsbD 31 = false → c.cstate = .off ∧ ((s.cell k).cstate ≠ .off → c.statusDue = true)) ∧
    (copy.getLsbD 31 = true → (s.cell k).isLive = true → (s.cell k).address = a → c.cstate = (s.cell k).cstate) ∧
    (copy.getLsbD 31 = true → ¬ ((s.cell k).isLive = true ∧ (s.cell k).address = a) →
      (s.inWindow a = true → c.cstate = .rejected .inWindow ∧ c.statusDue = true ∧
        rejected { s.cell k with copy := copy } .inWindow 1#32 (s.cellAddrWrite k l d)) ∧
      (s.inWindow a = false → duplicate → c.cstate = .rejected .duplicate ∧ c.statusDue = true ∧
        rejected { s.cell k with copy := copy } .duplicate 2#32 (s.cellAddrWrite k l d)) ∧
      (s.inWindow a = false → ¬ duplicate → ∀ f, (s.cell k).cstate = .live f → c.cstate = .live f) ∧
      (s.inWindow a = false → ¬ duplicate → (s.cell k).isLive = false → ∃ p, c.cstate = .loading p) ∧
      (s.inWindow a = false → ¬ duplicate → (s.cell k).cstate = .loading .due ∨ (s.cell k).cstate = .loading .claimed →
        s.cellAddrWrite k l d = s.setCell k { s.cell k with copy := copy }) ∧
      (∀ ws o, s.inWindow a = false → ¬ duplicate → (s.cell k).cstate = .loading (.granted ws o) →
        c = { s.cell k with
          copy := copy, cstate := .loading (if s.claimed (.cellStatus k) then .due else .claimed) } ∧
        (s.cellAddrWrite k l d).mport = { s.mport with inflight := orphaned } ∧
        (s.cellAddrWrite k l d).arb.upkeep = s.arb.upkeep.filter (fun x => x.kind != .cellLoad k) ++
          (if s.claimed (.cellStatus k) then [] else [{ kind := .cellLoad k, age := 0 }])) ∧
      (s.inWindow a = false → ¬ duplicate → (s.cell k).isRegistered = false →
        c.atLimit = false ∧ c.statusDue = true ∧
        (s.cellClaimed k = false → c.cstate = .loading .claimed ∧
          { kind := .cellLoad k, age := 0 } ∈ (s.cellAddrWrite k l d).arb.upkeep))) ∧
    s.OnlyCell k (s.cellAddrWrite k l d) ∧ (s.cellAddrWrite k l d).mgmt = s.mgmt ∧
    (∀ w : CellWord,
      let t := s.cellFieldWrite k w l d
      let old := s.cell k
      let joined := fun (h : HeldLanes) => { value := lay l d h.value, lanes := h.lanes ||| l : HeldLanes }
      (∀ ws o, old.cstate = .loading (.granted ws o) →
        t = s.setCell k { old with cstate := .loading (.granted ws
          { setup := if w = .setup then joined o.setup else o.setup
            low := if w = .low then joined o.low else o.low
            high := if w = .high then joined o.high else o.high }) }) ∧
      (∀ f, old.cstate = .live f →
        let f' : CellFields := cellFieldsOf (if w = .setup then lay l d f.setupWord else f.setupWord)
          (if w = .low then lay l d f.low else f.low) (if w = .high then lay l d f.high else f.high)
        let bad := if w = .setup then f'.step = 0#8 else f'.high.toNat < f'.low.toNat
        (¬ bad → t = s.setCell k { old with cstate := .live f' }) ∧
        (bad → (t.cell k).cstate = .rejected (if w = .setup then .zeroStep else .badBounds) ∧
          (t.cell k).statusDue = true ∧ s.OnlyCell k t ∧ t.mgmt = s.mgmt ∧
          (if w = .setup then rejected old .zeroStep 3#32 t else rejected old .badBounds 4#32 t))) ∧
      ((∀ ws o, old.cstate ≠ .loading (.granted ws o)) → (∀ f, old.cstate ≠ .live f) → t = s))

/-- An occurrence of a cell (R131): merged into the held one, MERGE rising by one and staying at 255; entering the queue
as its event where the queued mark is clear, no event of the cell is in post and the queue has room (R130); else held with
MERGE 0. While Intake is CLOSED it is discarded (R148), and where no cell exists: in DISABLED (R17), and until E1 has ended,
where only a fetch from before a failed enable can ask for one (the model's choice: log 18). -/
def Obligations.CellOccurrenceEntersWaitsOrMerges : Prop :=
  ∀ (k : CellId) (kind : OccKind) (detail : Word) (s : State),
    (s.mgmt.windowState = .disabled ∨ s.mgmt.sequence = some .e1 → s.cellOccurs k kind detail = s) ∧
    (s.mgmt.windowState ≠ .disabled → s.mgmt.sequence ≠ some .e1 →
    let t := s.cellOccurs k kind detail
    let c := s.cell k
    let enters := c.queuedMark = false ∧ s.events.count < 8 ∧ ¬ ∃ p, s.events.inPost = some p ∧ p.event.cell? = some k
    (s.events.intake = .closed → t = s) ∧
    (∀ o, s.events.intake = .opened → c.held = some o →
      t = s.setCell k { c with held := some { o with merge := if o.merge = 255#8 then 255#8 else o.merge + 1#8 } }) ∧
    (s.events.intake = .opened → c.held = none → enters →
      t.events.queue = s.events.queue ++
        [{ kind := kind.event, source := BitVec.ofNat 4 k.val, word1 := c.address.setWidth 32, detailA := detail,
           detailB := 0#32 }] ∧
      t.cell k = { c with queuedMark := true } ∧ s.OnlyCell k t ∧ t.mgmt = s.mgmt ∧ t.mport = s.mport) ∧
    (s.events.intake = .opened → c.held = none → ¬ enters →
      t = s.setCell k { c with held := some { kind := kind, detail := detail, merge := 0#8 } }))

/-- The stepped value of a fetch and what it records (R128): v′ by the first matching row of the table, over integers of
unlimited range; at each OKAY read the at-limit mark is set by a limit row and cleared by any other; a limit row creates
CELL_LIMIT with v′ where EV_LIMIT is set, a range row CELL_RANGE with v where EV_RANGE is set, and with the enable clear
nothing is created. R128 makes no exception; that all of this is said of the states outside DISABLED and E1, and that in those
two, where no cell exists, the fetch of a window that a failed enable has ended changes nothing, is the model's choice: log
18. -/
def Obligations.SteppedValueAndItsOccurrence : Prop :=
  ∀ (f : CellFields) (v : Word) (k : CellId) (s : State), f.step ≠ 0#8 → f.low.toNat ≤ f.high.toNat →
    (s.mgmt.windowState = .disabled ∨ s.mgmt.sequence = some .e1 → s.fetched k f v = s) ∧
    (s.mgmt.windowState ≠ .disabled → s.mgmt.sequence ≠ some .e1 →
    let x : Int := v.toNat
    let lo : Int := f.low.toNat
    let hi : Int := f.high.toNat
    let st : Int := f.step.toInt
    let sum := x + st
    let span := hi - lo + 1
    let row := stepValue f x
    let marked := fun b => s.setCell k { s.cell k with atLimit := b }
    ((x < lo ∨ hi < x) → 0 < st → row = (lo, some .range)) ∧
    ((x < lo ∨ hi < x) → st < 0 → row = (hi, some .range)) ∧
    (lo ≤ x → x ≤ hi → lo ≤ sum → sum ≤ hi → row = (sum, none)) ∧
    (lo ≤ x → x ≤ hi → hi < sum → f.saturate = false → row = (lo + (sum - hi - 1) % span, some .limit)) ∧
    (lo ≤ x → x ≤ hi → hi < sum → f.saturate = true → row = (hi, some .limit)) ∧
    (lo ≤ x → x ≤ hi → sum < lo → f.saturate = false → row = (hi - (lo - sum - 1) % span, some .limit)) ∧
    (lo ≤ x → x ≤ hi → sum < lo → f.saturate = true → row = (lo, some .limit)) ∧
    lo ≤ row.1 ∧ row.1 ≤ hi ∧ ((steppedWord f v).toNat : Int) = row.1 ∧
    (row.2 = none → s.fetched k f v = marked false) ∧
    (row.2 = some .limit → f.evLimit = true → s.fetched k f v = (marked true).cellOccurs k .limit (steppedWord f v)) ∧
    (row.2 = some .limit → f.evLimit = false → s.fetched k f v = marked true) ∧
    (row.2 = some .range → f.evRange = true → s.fetched k f v = (marked false).cellOccurs k .range v) ∧
    (row.2 = some .range → f.evRange = false → s.fetched k f v = marked false))

/-! ## Breaks -/

/-- The grant of a COUNTED or DIRECT break that passes its checks (R93, R95 to R98): GRANTED is answered, a PENDING channel
enters MOVING and a DRAINING one stays, the quiet timer restarts (R57), the line steps, the data access leaves, and the lock
is held for the STRICT record writes with the line's stepped values. Where the step would leave the address space,
ADDRESS_RANGE becomes pending (R97). The counter rises by one up to 15 (R140). The slot keeps COUNT, ADDRESS and DONE as they
were for the undo (R96, R102), no word replaced yet, and ADDRESS touched where it stepped or a STRICT group writes it (the
model's reading: log 16). -/
def Obligations.BreakGrantStepsAndIssuesTheData : Prop :=
  ∀ (n : ChanId) (req : DeviceRequest) (v : ValidLine) (s : State), s.Grants (.brk n) →
    (s.chan n).port = .accepted req → (s.chan n).line = .valid v →
    ((s.chan n).ctl.state = .pending ∨ (s.chan n).ctl.state = .draining) →
    countOf v.words.count ≠ 0#24 → (s.chan n).mode ≠ .cell →
    let c := s.chan n
    let a : Addr := if c.mode = .direct then req.address else addrOf v.words.address
    let sum : Int := ((addrOf v.words.address).toNat : Int) + strideOf v.words.control
    let leaves := c.mode = .counted ∧ req.holdAddress = false ∧ strideOf v.words.control ≠ 0 ∧
      ¬ (0 ≤ sum ∧ sum ≤ 0x3FFFFFF)
    s.inWindow a = false →
    ∃ t v', exec .grantDecision s = .next t ∧ (t.chan n).line = .valid v' ∧ BreakSteps c req v v' ∧
      t.out = s.out ++ [.answer n .granted,
        match req.direction with
        | .dirIn => .memWrite a 0xF#4 req.data
        | .dirOut => .memRead a] ∧
      t.mport.inflight = s.mport.inflight ++
        [{ owner := .brk n .data, kind := (match req.direction with | .dirIn => .write | .dirOut => .read), addr := a,
           lanes := 0xF#4, orphan := false }] ∧
      t.mport.lock = (if c.track = .strict then
        some { source := .brk n, fetch := none, todo :=
          { owner := .brk n .countWrite, kind := .write, addr := s.recordAddr n .count, lanes := 0xF#4,
            data := v'.words.count } ::
          (if c.mode = .counted then
            [{ owner := .brk n .addressWrite, kind := .write, addr := s.recordAddr n .address, lanes := 0xF#4,
               data := v'.words.address }] else []) }
        else none) ∧
      (∃ g, (t.chan n).port = .granted req g ∧ g.result = .outstanding ∧ g.dataAddr = a ∧ g.stepped = true ∧
        g.prevCount = v.words.count ∧ g.prevAddress = v.words.address ∧ g.prevDone = v.words.done ∧
        g.countReplaced = false ∧ g.addressReplaced = false ∧
        (g.addressTouched = true ↔ c.mode = .counted ∧ (c.track = .strict ∨
          req.holdAddress = false ∧ strideOf v.words.control ≠ 0 ∧ 0 ≤ sum ∧ sum ≤ 0x3FFFFFF))) ∧
      (t.chan n).ctl.state = (if c.ctl.state = .pending then .moving else .draining) ∧
      (t.chan n).quiet = (if c.track = .lazy ∧ s.mgmt.quietInterval ≠ 0#12 then some s.mgmt.quietInterval.toNat else none) ∧
      (¬ leaves → (t.chan n).ctl.pendingFault = c.ctl.pendingFault) ∧
      (leaves → (t.chan n).ctl.pendingFault = some (c.ctl.pendingFault.getD
        { code := .addressRange, address := addrOf v.words.address, noWriteback := false })) ∧
      t.arb.breakRun = min (s.arb.breakRun + 1) 15 ∧
      (∀ m, m ≠ n → t.chan m = s.chan m) ∧ t.cells = s.cells ∧ t.pass = s.pass ∧ s.OnlyDisableAdvances t

/-- A break that ends at its grant issues no access (R93 to R95, R143): the device is answered GRANTED, then COMPLETE with
no word where COUNT is 0 (LAST where CHAIN is 0, SEGMENT_END where it is not), FAILED(WINDOW_TARGET) where the data address
is inside the window, FAILED(CELL_GONE) where the cell is not LIVE. In each case no access leaves, the port is IDLE, and the
line stays VALID with its COUNT, ADDRESS and DONE, whatever CHAIN, SEGMENT_DONE, a recorded ABORT, a stall or a pending fault
makes of the transition. Where nothing holds the channel back, one that ended with a fault is FAULTED with it, and the empty
count of an ended chain with no SEGMENT_DONE due enters ENDING(TERMINAL) with SEGMENTS one more (R74, R75, R116), and the
writeback for the final event is triggered (R63, R80). -/
def Obligations.BreakGrantThatIssuesNothing : Prop :=
  ∀ (n : ChanId) (req : DeviceRequest) (v : ValidLine) (s : State), s.Grants (.brk n) →
    (s.chan n).port = .accepted req → (s.chan n).line = .valid v →
    ((s.chan n).ctl.state = .pending ∨ (s.chan n).ctl.state = .draining) →
    let c := s.chan n
    let a : Addr := if c.mode = .direct then req.address else addrOf v.words.address
    let k : CellId := Fin.ofNat 16 v.words.address.toNat
    let rests := s.Unhindered n ∧ commandOf v.words.control = 0#3
    let ends := fun (answer : Answer) (outcome : State → ValidLine → Prop) =>
      ∃ t v', exec .grantDecision s = .next t ∧
        t.out = s.out ++ [.answer n .granted, .answer n answer] ∧ t.mport = s.mport ∧
        t.arb.breakRun = min (s.arb.breakRun + 1) 15 ∧ (t.chan n).port = .idle ∧ (t.chan n).line = .valid v' ∧
        v'.words.count = v.words.count ∧ v'.words.address = v.words.address ∧ v'.words.done = v.words.done ∧
        (∀ m, m ≠ n → t.chan m = s.chan m) ∧ t.cells = s.cells ∧ t.pass = s.pass ∧ outcome t v'
    let faulted := fun (code : FaultCode) (address : Addr) (t : State) (_ : ValidLine) => rests →
      (t.chan n).ctl.state = .faulted ∧ (t.chan n).ctl.lastFault = some code ∧
      s.EventCreated t n
        { kind := .fault, source := BitVec.ofNat 4 n.val, word1 := v.words.cookie,
          detailA := faultDetail code c.ctl.startCount, detailB := address.setWidth 32 }
    (countOf v.words.count = 0#24 →
      ends (.complete none (addrOf v.words.chain == 0#26) (addrOf v.words.chain != 0#26)) fun t v' =>
        rests → addrOf v.words.chain = 0#26 → evSegmentOf v.words.control = false → c.walker.flags.evEnd = false →
          c.ctl.abortRecorded = false →
          segmentsOf v'.words.segments = segmentsOf v.words.segments + 1#16 ∧
          (t.chan n).ctl.state = .ending ∧ (t.chan n).ctl.ending = some .terminal ∧ s.WritebackTriggered t n ∧
          t.WritebackServes n .finalEvent) ∧
    (countOf v.words.count ≠ 0#24 → c.mode ≠ .cell → s.inWindow a = true →
      ends (.failed .windowTarget) (faulted .windowTarget a)) ∧
    (countOf v.words.count ≠ 0#24 → c.mode = .cell → (s.cell k).isLive = false →
      ends (.failed .cellGone) (faulted .cellGone 0#26))

/-- The grant of a CELL break whose cell is LIVE (R93, R95, R96, R98, R100): the line steps, the read of the cell's address
leaves, and the lock is held for the write-back and the data access that wait for its response. The quiet timer restarts (R57),
the counter rises by one up to 15 (R140), and the slot keeps COUNT, ADDRESS and DONE as they were for the undo (R96, R102), no
word replaced yet and ADDRESS not touched (the model's reading: log 16). -/
def Obligations.CellBreakGrantIssuesTheCellRead : Prop :=
  ∀ (n : ChanId) (req : DeviceRequest) (v : ValidLine) (f : CellFields) (s : State), s.Grants (.brk n) →
    (s.chan n).port = .accepted req → (s.chan n).line = .valid v →
    ((s.chan n).ctl.state = .pending ∨ (s.chan n).ctl.state = .draining) →
    countOf v.words.count ≠ 0#24 → (s.chan n).mode = .cell →
    let c := s.chan n
    let k : CellId := Fin.ofNat 16 v.words.address.toNat
    (s.cell k).cstate = .live f →
    ∃ t v', exec .grantDecision s = .next t ∧ (t.chan n).line = .valid v' ∧ BreakSteps c req v v' ∧
      t.out = s.out ++ [.answer n .granted, .memRead (s.cell k).address] ∧
      t.mport.inflight = s.mport.inflight ++
        [{ owner := .brk n .cellRead, kind := .read, addr := (s.cell k).address, lanes := 0xF#4, orphan := false }] ∧
      t.mport.lock = some { source := .brk n, todo := [], fetch := some { cell := k, addr := (s.cell k).address, fields := f } } ∧
      (∃ g, (t.chan n).port = .granted req g ∧ g.result = .outstanding ∧ g.stepped = true ∧
        g.dataAddr = (s.cell k).address ∧ g.prevCount = v.words.count ∧ g.prevAddress = v.words.address ∧
        g.prevDone = v.words.done ∧ g.countReplaced = false ∧ g.addressReplaced = false ∧ g.addressTouched = false) ∧
      (t.chan n).quiet = (if c.track = .lazy ∧ s.mgmt.quietInterval ≠ 0#12 then some s.mgmt.quietInterval.toNat else none) ∧
      t.arb.breakRun = min (s.arb.breakRun + 1) 15 ∧
      (t.chan n).ctl.state = (if c.ctl.state = .pending then .moving else .draining) ∧
      (t.chan n).ctl.pendingFault = c.ctl.pendingFault ∧
      (∀ m, m ≠ n → t.chan m = s.chan m) ∧ t.cells = s.cells ∧ t.pass = s.pass ∧ s.OnlyDisableAdvances t

/-- The response of a break's data access (R101, R102). OKAY moves the word: while the group goes on that is all; at its end
the device is answered COMPLETE, with the word for OUT and with LAST and SEGMENT_END as the line stands, the port is IDLE,
and the channel makes its transition, which a stall holds back (R82): with COUNT above 0 a MOVING channel enters READY and a
DRAINING one HALTED (R74, R75). ERROR at the end of a group undoes the steps, frees the lock, answers FAILED(MEMORY_DATA) and
faults the channel with the data address. ERROR while other accesses of the break are outstanding makes the undo, ends the
lock and leaves the fault pending. While a CHANNEL_RESET waits for the channel, the end of the group makes no transition and
drops a pending fault (R106; log 22). (What a held completion keeps, COUNT 0, CHAIN 0 and EV_SEGMENT as found, is log 13's
reading of R82; that the undo of R102 restores and marks ADDRESS only where the grant touched it is log 16's.) -/
def Obligations.BreakDataResponseEndsTheGroup : Prop :=
  ∀ (n : ChanId) (rest : List InFlight) (req : DeviceRequest) (g : BreakProgress) (v : ValidLine) (s : State),
    s.Awaits (.brk n .data) rest → (s.chan n).port = .granted req g → (s.chan n).line = .valid v →
    let c := s.chan n
    let countZero := countOf v.words.count == 0#24
    let chainZero := addrOf v.words.chain == 0#26
    let completes := fun d : Word => PortMessage.answer n (.complete
      (match req.direction with | .dirOut => some d | .dirIn => none) (countZero && chainZero) (countZero && !chainZero))
    let freed : MPort := { inflight := rest, lock := if s.heldBy (.brk n) then none else s.mport.lock }
    let pends : PendingFault := c.ctl.pendingFault.getD { code := .memoryData, address := g.dataAddr, noWriteback := false }
    (∀ d, s.BreakGoesOn n rest →
      exec (.breakDataResponse (.okay d)) s = .next
        (State.setChan { s with mport := { s.mport with inflight := rest } } n
          { c with
            port := .granted req
              { g with result := .moved (match req.direction with | .dirOut => some d | .dirIn => none) } })) ∧
    (∀ d, ¬ s.BreakGoesOn n rest →
      ∃ t, exec (.breakDataResponse (.okay d)) s = .next t ∧
        t.out = s.out ++ [.answer n (.complete (match req.direction with | .dirOut => some d | .dirIn => none)
          (countZero && chainZero) (countZero && !chainZero))] ∧
        (t.chan n).port = .idle ∧ t.mport = { s.mport with inflight := rest } ∧ s.OnlyChannel n t ∧
        (State.setChan { s with mport := { s.mport with inflight := rest }, out := s.out ++ [completes d] } n
          { c with port := .idle }).GroupEnds n v.breakEnd t ∧
        (∀ f, s.resetWaits n = false → c.ctl.stalled = none → c.ctl.pendingFault = some f →
          commandOf v.words.control = 0#3 →
          (t.chan n).ctl.state = .faulted ∧ (t.chan n).ctl.lastFault = some f.code ∧
          s.EventCreated t n (s.faultEvent n f.code f.address)) ∧
        (s.resetWaits n = true → (t.chan n).ctl = { c.ctl with pendingFault := none }) ∧
        (s.resetWaits n = false → c.ctl.stalled.isSome = true →
          (t.chan n).ctl.state = c.ctl.state ∧ (t.chan n).ctl.heldCompletion = some (.breakGroup
            { countZero := countZero, chainZero := chainZero, evSegment := evSegmentOf v.words.control,
              segmentDone := false })) ∧
        (s.Unhindered n → c.ctl.abortRecorded = false → commandOf v.words.control = 0#3 → countZero = false →
          (c.ctl.state = .moving → (t.chan n).ctl.state = .ready) ∧
          (c.ctl.state = .draining → (t.chan n).ctl.state = .halted))) ∧
    ((¬ ∃ e ∈ rest, e.owner.isBreak n = true ∧ e.orphan = false) → s.Unhindered n → c.ctl.state ≠ .faulted →
      commandOf v.words.control = 0#3 → g.stepped = true →
      ∃ t, exec (.breakDataResponse .error) s = .next t ∧
        t.out = s.out ++ [.answer n (.failed .memoryData)] ∧ t.BreakFailed n g v .memoryData ∧
        t.mport = { inflight := rest, lock := if s.heldBy (.brk n) then none else s.mport.lock } ∧
        s.EventCreated t n (s.faultEvent n .memoryData g.dataAddr) ∧ s.OnlyChannel n t) ∧
    ((¬ ∃ e ∈ rest, e.owner.isBreak n = true ∧ e.orphan = false) → c.ctl.state ≠ .faulted → g.stepped = true →
      ∃ t, exec (.breakDataResponse .error) s = .next t ∧
        (State.setChan { s with mport := freed, out := s.out ++ [.answer n (.failed .memoryData)] } n
          { c with
            line := .valid (v.undo g)
            port := .idle
            ctl := { c.ctl with pendingFault := some pends } }).GroupEnds n (v.undo g).breakEnd t ∧
        (s.resetWaits n = false → c.ctl.stalled = none → commandOf v.words.control = 0#3 →
          (t.chan n).ctl.state = .faulted ∧ (t.chan n).ctl.lastFault = some pends.code ∧
          s.EventCreated t n (s.faultEvent n pends.code pends.address))) ∧
    ((∃ e ∈ rest, e.owner.isBreak n = true ∧ e.orphan = false) → c.ctl.state ≠ .faulted → g.stepped = true →
      exec (.breakDataResponse .error) s = .next
        (State.setChan
          { s with mport := { inflight := rest, lock := if s.heldBy (.brk n) then none else s.mport.lock } } n
          { c with
            line := .valid (v.undo g)
            port := .granted req { g with result := .failed .memoryData }
            ctl := { c.ctl with pendingFault := some (c.ctl.pendingFault.getD
              { code := .memoryData, address := g.dataAddr, noWriteback := false }) } }))

/-- The response of a CELL break's read (R100, R127 to R129). OKAY with an address that is in range and outside the window:
the write-back of the stepped value leaves, the data access and the STRICT COUNT write are released under the lock, and the
entry's at-limit mark follows R128. OKAY with any other value: the write-back leaves all the same, the lock ends, the steps
are undone, and the break fails with ADDRESS_RANGE and the line's ADDRESS, or WINDOW_TARGET and that address. ERROR: nothing
leaves, CELL_FAULT arises (R129), and the break fails with CELL_FETCH and the cell's address. What the read does to the cell
is the operation fetched or cellOccurs; the FAULT event comes after it (R78). (The address that CELL_FAULT carries is log
17's; that the undo of R102 restores and marks ADDRESS only where the grant touched it is log 16's; that the cell's event
comes before the channel's is log 28's.) A fault that pends already is the one taken (R78), and a stall or a waiting
CHANNEL_RESET holds or drops the end by GroupEnds (R82, R106; logs 13 and 22). -/
def Obligations.BreakCellReadResponseChecksTheValue : Prop :=
  ∀ (n : ChanId) (rest : List InFlight) (f : Fetch) (req : DeviceRequest) (g : BreakProgress) (v : ValidLine) (s : State),
    s.Awaits (.brk n .cellRead) rest → s.mport.lock = some { source := .brk n, todo := [], fetch := some f } →
    (s.chan n).port = .granted req g → (s.chan n).line = .valid v →
    let c := s.chan n
    let stepped := fun x : Word => BitVec.ofInt 32 (stepValue f.fields x.toNat).1
    let writeBack : InFlight :=
      { owner := .cellWriteBack f.cell, kind := .write, addr := f.addr, lanes := 0xF#4, orphan := false }
    let ends := (¬ ∃ e ∈ rest, e.owner.isBreak n = true ∧ e.orphan = false) ∧ s.Unhindered n ∧ c.ctl.state ≠ .faulted ∧
      commandOf v.words.control = 0#3 ∧ g.stepped = true
    let freed : State := { s with mport := { inflight := rest, lock := none } }
    let fetched := fun x : Word => freed.fetched f.cell f.fields x
    let missed := freed.cellOccurs f.cell .fault ((s.cell f.cell).address.setWidth 32)
    (∀ x : Word, x.toNat ≤ 0x3FFFFFF → s.inWindow (addrOf x) = false →
      ∃ t, exec (.breakCellReadResponse (.okay x)) s = .next t ∧
        t.out = s.out ++ [.memWrite f.addr 0xF#4 (stepped x)] ∧ t.mport.inflight = rest ++ [writeBack] ∧
        t.mport.lock = some { source := .brk n, fetch := none, todo :=
          { owner := .brk n .data, kind := (match req.direction with | .dirIn => .write | .dirOut => .read),
            addr := addrOf x, lanes := 0xF#4,
            data := (match req.direction with | .dirIn => req.data | .dirOut => 0#32) } :: s.strictWrites n } ∧
        t.chan n = { c with port := .granted req { g with dataAddr := addrOf x } } ∧
        (∀ m, m ≠ n → t.chan m = s.chan m) ∧ (t.cell f.cell).cstate = (s.cell f.cell).cstate ∧
        (¬ s.NoCells →
          (t.cell f.cell).atLimit = decide ((stepValue f.fields x.toNat).2 = some .limit)) ∧
        t.cells = (fetched x).cells ∧ t.events = (fetched x).events ∧ t.pass = s.pass ∧ t.mgmt = s.mgmt) ∧
    (∀ x : Word, (0x3FFFFFF < x.toNat ∨ s.inWindow (addrOf x) = true) → ends →
      let code := if 0x3FFFFFF < x.toNat then FaultCode.addressRange else .windowTarget
      ∃ t, exec (.breakCellReadResponse (.okay x)) s = .next t ∧
        t.out = s.out ++ [.memWrite f.addr 0xF#4 (stepped x), .answer n (.failed code)] ∧
        t.mport = { inflight := rest ++ [writeBack], lock := none } ∧ t.BreakFailed n g v code ∧
        t.cells = (fetched x).cells ∧
        (fetched x).EventCreated t n (s.faultEvent n code
          (if 0x3FFFFFF < x.toNat then addrOf v.words.address else addrOf x)) ∧
        (∀ m, m ≠ n → t.chan m = s.chan m) ∧ t.pass = s.pass ∧ t.mgmt = s.mgmt) ∧
    (ends →
      ∃ t, exec (.breakCellReadResponse .error) s = .next t ∧
        t.out = s.out ++ [.answer n (.failed .cellFetch)] ∧
        t.mport = { inflight := rest, lock := none } ∧ t.BreakFailed n g v .cellFetch ∧
        t.cells = missed.cells ∧ missed.EventCreated t n (s.faultEvent n .cellFetch f.addr) ∧
        (∀ m, m ≠ n → t.chan m = s.chan m) ∧ (t.cell f.cell).cstate = (s.cell f.cell).cstate ∧
        (t.cell f.cell).atLimit = (s.cell f.cell).atLimit ∧ t.pass = s.pass ∧ t.mgmt = s.mgmt) ∧
    ((¬ ∃ e ∈ rest, e.owner.isBreak n = true ∧ e.orphan = false) → c.ctl.state ≠ .faulted → g.stepped = true →
      let failed : FaultCode → Addr → Channel := fun code a =>
        let pends : PendingFault := c.ctl.pendingFault.getD { code := code, address := a, noWriteback := false }
        { c with line := .valid (v.undo g), port := .idle, ctl := { c.ctl with pendingFault := some pends } }
      (∀ x : Word, (0x3FFFFFF < x.toNat ∨ s.inWindow (addrOf x) = true) →
        let code := if 0x3FFFFFF < x.toNat then FaultCode.addressRange else .windowTarget
        let a := if 0x3FFFFFF < x.toNat then addrOf v.words.address else addrOf x
        ∃ t, exec (.breakCellReadResponse (.okay x)) s = .next t ∧
          (State.setChan
            { fetched x with
              mport := { inflight := rest ++ [writeBack], lock := none }
              out := s.out ++ [.memWrite f.addr 0xF#4 (stepped x), .answer n (.failed code)] } n
            (failed code a)).GroupEnds n (v.undo g).breakEnd t) ∧
      ∃ t, exec (.breakCellReadResponse .error) s = .next t ∧
        (State.setChan { missed with out := s.out ++ [.answer n (.failed .cellFetch)] } n
          (failed .cellFetch f.addr)).GroupEnds n (v.undo g).breakEnd t)

/-- The response of a STRICT record write (R99). OKAY changes nothing while the group goes on. ERROR marks the word dirty
and MEMORY_DESCRIPTOR with the word's window address becomes pending, unless a fault pends already (R78); the line keeps its
values. At the end of a group the device is answered COMPLETE where its word moved, and FAILED with its code where its
data access failed (R101, R102), and the end is GroupEnds: the transition, in which a pending fault is taken, what a stall
holds (R82; log 13), or what a waiting CHANNEL_RESET leaves (R106; log 22). -/
def Obligations.StrictWriteResponseMarksAFailedWord : Prop :=
  ∀ (n : ChanId) (rest : List InFlight) (i : RecWord) (req : DeviceRequest) (g : BreakProgress) (v : ValidLine) (s : State),
    (i = .count ∧ s.Awaits (.brk n .countWrite) rest ∨ i = .address ∧ s.Awaits (.brk n .addressWrite) rest) →
    (s.chan n).port = .granted req g → (s.chan n).line = .valid v →
    let c := s.chan n
    let s' : State := { s with mport := { s.mport with inflight := rest } }
    let answer : PortMessage := .answer n (.complete (match g.result with | .moved d => d | _ => none)
      (countOf v.words.count == 0#24 && addrOf v.words.chain == 0#26)
      (countOf v.words.count == 0#24 && addrOf v.words.chain != 0#26))
    (∀ d, s.BreakGoesOn n rest → exec (.strictWriteResponse (.okay d)) s = .next s') ∧
    (s.BreakGoesOn n rest → c.ctl.state ≠ .faulted →
      exec (.strictWriteResponse .error) s = .next (s'.setChan n
        { c with
          line := .valid { v with dirty := v.dirty.set i true }
          ctl := { c.ctl with pendingFault := some (c.ctl.pendingFault.getD
            { code := .memoryDescriptor, address := s.recordAddr n i, noWriteback := false }) } })) ∧
    (∀ d x, ¬ s.BreakGoesOn n rest → g.result = .moved x →
      ∃ t, exec (.strictWriteResponse (.okay d)) s = .next t ∧ t.out = s.out ++ [answer] ∧
        (t.chan n).port = .idle ∧ t.mport = s'.mport ∧ s.OnlyChannel n t) ∧
    (∀ x, ¬ s.BreakGoesOn n rest → g.result = .moved x → s.Unhindered n → c.ctl.state ≠ .faulted →
      commandOf v.words.control = 0#3 →
      ∃ t v', exec (.strictWriteResponse .error) s = .next t ∧ t.out = s.out ++ [answer] ∧
        (t.chan n).port = .idle ∧ t.mport = s'.mport ∧ (t.chan n).line = .valid v' ∧
        v'.words.count = v.words.count ∧ v'.words.address = v.words.address ∧ v'.words.done = v.words.done ∧
        v'.dirty.get i = true ∧ (t.chan n).ctl.state = .faulted ∧
        (t.chan n).ctl.lastFault = some .memoryDescriptor ∧
        s.EventCreated t n (s.faultEvent n .memoryDescriptor (s.recordAddr n i)) ∧ s.OnlyChannel n t) ∧
    (∀ a, ¬ s.BreakGoesOn n rest →
        ((∃ x, g.result = .moved x ∧ a = answer) ∨ ∃ code, g.result = .failed code ∧ a = .answer n (.failed code)) →
      let answered := fun c' : Channel => State.setChan { s' with out := s.out ++ [a] } n { c' with port := .idle }
      let pends : PendingFault := c.ctl.pendingFault.getD
        { code := .memoryDescriptor, address := s.recordAddr n i, noWriteback := false }
      (∀ d, ∃ t, exec (.strictWriteResponse (.okay d)) s = .next t ∧ (answered c).GroupEnds n v.breakEnd t ∧
        (∀ f, s.resetWaits n = false → c.ctl.stalled = none → c.ctl.pendingFault = some f →
          commandOf v.words.control = 0#3 →
          (t.chan n).ctl.state = .faulted ∧ (t.chan n).ctl.lastFault = some f.code ∧
          s.EventCreated t n (s.faultEvent n f.code f.address))) ∧
      (c.ctl.state ≠ .faulted → ∃ t, exec (.strictWriteResponse .error) s = .next t ∧
        (answered
          { c with
            line := .valid { v with dirty := v.dirty.set i true }
            ctl := { c.ctl with pendingFault := some pends } }).GroupEnds n v.breakEnd t ∧
        (s.resetWaits n = false → c.ctl.stalled = none → commandOf v.words.control = 0#3 →
          (t.chan n).ctl.state = .faulted ∧ (t.chan n).ctl.lastFault = some pends.code ∧
          s.EventCreated t n (s.faultEvent n pends.code pends.address))))

/-- The transition at the completion of a break group (R74 for MOVING, R75 for DRAINING, R116): the first row whose
condition holds. At the end of an extent SEGMENTS rises by one, and SEGMENT_DONE, where EV_END or EV_SEGMENT asks for it, is
created before the rest with the line's COOKIE, DONE and raised SEGMENTS (R81); where it finds no room, the channel is
stalled with it and the rest is held, and goes on from there without the two (R83). The conditions are those that the
completion found (log 13); a CHAIN that has been written to 0 since names no segment (R29), and the chain ends. Each entry to
ENDING triggers the writeback that the final event waits for (R63, R80). -/
def Obligations.BreakCompletionTable : Prop :=
  ∀ (n : ChanId) (e : BreakEnd) (v : ValidLine) (s : State),
    (s.chan n).line = .valid v → (s.chan n).ctl.stalled = none →
    let c := s.chan n
    let t := s.breakTransition n e
    let finals := s.WritebackTriggered t n ∧ t.WritebackServes n .finalEvent
    let free := c.ctl.pendingFault = none ∧ c.ctl.abortRecorded = false
    let due := e.segmentDone = false ∧ (c.walker.flags.evEnd = true ∨ e.evSegment = true)
    let goesOn := ¬ due ∨ s.events.intake = .closed ∨ s.events.count < 8
    let segments := segmentsOf v.words.segments + (if e.segmentDone then 0#16 else 1#16)
    let done : Event :=
      { kind := .segmentDone, source := BitVec.ofNat 4 n.val, word1 := v.words.cookie,
        detailA := (field 0 24 v.words.done).setWidth 32, detailB := segments.setWidth 32 }
    (∀ f, c.ctl.pendingFault = some f → (t.chan n).ctl.state = .faulted ∧ (t.chan n).ctl.lastFault = some f.code ∧
      s.EventCreated t n (s.faultEvent n f.code f.address)) ∧
    (c.ctl.pendingFault = none → c.ctl.abortRecorded = true →
      (t.chan n).ctl.state = .ending ∧ (t.chan n).ctl.ending = some (.aborted (countOf v.words.count)) ∧ finals) ∧
    (free → e.countZero = true →
      (t.chan n).segments16 = segments ∧
      (goesOn → e.chainZero = true →
        (t.chan n).ctl.state = .ending ∧ (t.chan n).ctl.ending = some .terminal ∧ finals ∧
        (¬ due ∨ s.events.intake = .closed → t.events.queue = s.events.queue)) ∧
      (goesOn → e.chainZero = false → c.walker.flags.hold = true → (t.chan n).ctl.state = .halted) ∧
      (goesOn → e.chainZero = false → c.walker.flags.hold = false → addrOf v.words.chain = 0#26 →
        (t.chan n).ctl.state = .ending ∧ (t.chan n).ctl.ending = some .terminal ∧ finals) ∧
      (goesOn → e.chainZero = false → c.walker.flags.hold = false → addrOf v.words.chain ≠ 0#26 → c.opInFlight = false →
        ((segmentAddrs (addrOf v.words.chain)).any (fun a => s.inWindow a) = false →
          (t.chan n).ctl.state = .linking ∧ (t.chan n).walker.phase = .claimed (addrOf v.words.chain) ∧
          { kind := .link n, age := 0 } ∈ t.arb.upkeep) ∧
        ((segmentAddrs (addrOf v.words.chain)).any (fun a => s.inWindow a) = true →
          (t.chan n).ctl.state = .faulted ∧ (t.chan n).ctl.lastFault = some .windowTarget)) ∧
      (due → s.events.intake = .opened → s.events.count < 8 →
        ∃ more, t.events.queue = s.events.queue ++ done :: more) ∧
      (¬ goesOn → (t.chan n).ctl.state = c.ctl.state ∧ (t.chan n).ctl.stalled = some done ∧
        t.events.queue = s.events.queue ∧
        (t.chan n).ctl.heldCompletion = some (.breakGroup { e with segmentDone := true }))) ∧
    (free → e.countZero = false → c.ctl.state = .draining → (t.chan n).ctl.state = .halted) ∧
    (free → e.countZero = false → c.ctl.state ≠ .draining → (t.chan n).ctl.state = .ready) ∧
    s.OnlyChannel n t ∧ t.mport = s.mport ∧ (t.chan n).ctl.startCount = c.ctl.startCount

/-! ## Channel commands (they reach the controller as rows of their own: log 5) -/

/-- The six channel commands, CHANNEL_REQUEST and QUIET_TIMER_EXPIRY of channel n change nothing but channel n, the UPKEEP
list, the tail of the Pending Event Queue with the post phase, and the messages sent; no access is issued or orphaned, and
STATUS in the line follows the controller (R62). -/
def Obligations.ChannelCommandsTouchOnlyTheirChannel : Prop :=
  ∀ (n : ChanId) (code : CommandCode) (req : DeviceRequest) (s : State),
    ∀ c ∈ [Instr.start n, .stop n, .resume n, .abort n, .clear n, .unknownCommand n code, .channelRequest n req,
           .quietTimerExpiry n],
      ∃ t, exec c s = .next t ∧ s.OnlyChannel n t ∧ t.mport = s.mport ∧
        ((s.chan n).StatusAgrees → (t.chan n).StatusAgrees)

/-- Where the channel cannot take a command (R64: LOADING, LINKING, ENDING, stalled, or clearing), the command waits as the
untaken command in place of an earlier one, and nothing else changes (where no request is held at a state that answers it
at once). While the window is DISABLED or ENABLING it reaches no controller and nothing happens (R86). UNKNOWN_COMMAND (R67):
a code of 6 or 7 is refused at its taking in every taking state, with the code as written; any other code is no such row and
changes nothing (log 3). -/
def Obligations.UntakenAndUnknownCommands : Prop :=
  (∀ (n : ChanId) (s : State),
     ∀ p ∈ [(Instr.start n, 1#3), (.stop n, 2#3), (.resume n, 3#3), (.abort n, 4#3), (.clear n, 5#3),
            (.unknownCommand n 6#3, 6#3), (.unknownCommand n 7#3, 7#3)],
       (s.reachesControllers = true → (s.chan n).canTake = false →
         ∃ t, exec p.1 s = .next t ∧ (t.chan n).untaken = p.2 ∧ s.OnlyChannel n t ∧ t.mport = s.mport ∧
           ((s.chan n).NoHeld ∨ (s.chan n).ctl.stalled.isSome = true ∨ (s.chan n).ctl.state = .loading ∨
               (s.chan n).ctl.state = .linking →
             t = s.setChan n ((s.chan n).placeCommand p.2))) ∧
       (s.reachesControllers = false → exec p.1 s = .next s)) ∧
  (∀ (n : ChanId) (code : CommandCode) (s : State),
     (s.Takes n → code = 6#3 ∨ code = 7#3 →
       ∃ t, exec (.unknownCommand n code) s = .next t ∧ s.CommandRefused t n code .unknownCommand) ∧
     (code ≠ 6#3 → code ≠ 7#3 → exec (.unknownCommand n code) s = .next s))

/-- START (R68): taken in OFF, READY and HALTED while the window is ENABLED, it enters LOADING with START_COUNT one more, and
LAST_FAULT and LAST_REFUSAL stand; an INVALID line enters FILLING with its fill claim raised, a VALID line's writeback is
triggered and the reload waits for its end. In the other taking states, and everywhere in DISABLING, it is refused. -/
def Obligations.StartLoadsOrIsRefused : Prop :=
  ∀ (n : ChanId) (s : State), s.Takes n →
    let c := s.chan n
    (s.mgmt.windowState ≠ .disabling → (c.ctl.state = .off ∨ c.ctl.state = .ready ∨ c.ctl.state = .halted) →
      ∃ t, exec (.start n) s = .next t ∧ (t.chan n).ctl.state = .loading ∧
        (t.chan n).ctl.startCount = c.ctl.startCount + 1#8 ∧ (t.chan n).ctl.lastFault = c.ctl.lastFault ∧
        (t.chan n).ctl.lastRefusal = c.ctl.lastRefusal ∧ (t.chan n).ctl.setup = c.ctl.setup ∧
        (c.line = .invalid → (t.chan n).line = .filling .claimed 0#3 ∧
          { kind := .fill n, age := 0 } ∈ t.arb.upkeep) ∧
        s.WritebackTriggered t n ∧
        (∀ v, c.line = .valid v → (t.chan n).untaken = 0#3 ∧ ∃ v', (t.chan n).line = .valid v' ∧ v'.reloading = true) ∧
        t.events = s.events ∧ t.out = s.out) ∧
    (s.mgmt.windowState = .disabling ∨
      c.ctl.state ∈ [ChanState.pending, .moving, .draining, .faulted] →
      ∃ t, exec (.start n) s = .next t ∧ s.CommandRefused t n 1#3 .notAllowedInState)

/-- STOP (R70): READY enters HALTED, with HALTED created and a writeback triggered (R63); PENDING and MOVING enter DRAINING,
the request and its claim standing; OFF, DRAINING, HALTED and FAULTED refuse it. -/
def Obligations.StopHaltsOrDrains : Prop :=
  ∀ (n : ChanId) (s : State), s.Takes n →
    let c := s.chan n
    (c.ctl.state = .ready →
      ∃ t, exec (.stop n) s = .next t ∧ (t.chan n).ctl.state = .halted ∧ s.WritebackTriggered t n ∧
        s.EventCreated t n { kind := .halted, source := BitVec.ofNat 4 n.val, word1 := c.cookie,
                             detailA := c.done24.setWidth 32, detailB := c.count.setWidth 32 }) ∧
    (c.ctl.state = .pending ∨ c.ctl.state = .moving →
      ∃ t, exec (.stop n) s = .next t ∧ (t.chan n).ctl.state = .draining ∧ (t.chan n).port = c.port ∧
        (t.chan n).untaken = 0#3 ∧ t.events = s.events ∧ t.arb = s.arb ∧ t.out = s.out) ∧
    (c.ctl.state ∈ [ChanState.off, .draining, .halted, .faulted] →
      ∃ t, exec (.stop n) s = .next t ∧ s.CommandRefused t n 2#3 .notAllowedInState)

/-- RESUME (R71): taken in HALTED, it validates the line's CONTROL by the checks of R69 and enters READY, LINKING or
ENDING(TERMINAL), whose writeback the final event waits for (R80), by COUNT and CHAIN with the setup latched, or
FAULTED(BAD_SETUP); DONE, SEGMENTS and START_COUNT stand. The other taking states refuse it. -/
def Obligations.ResumeValidatesAndGoesOn : Prop :=
  ∀ (n : ChanId) (s : State), s.Takes n →
    let c := s.chan n
    let checked := validateSetup (c.word .control)
    (∀ v u, c.ctl.state = .halted → c.line = .valid v → checked = some u → c.NoHeld →
      c.opInFlight = false → c.ctl.pendingFault = none →
      ∃ t, exec (.resume n) s = .next t ∧
        (c.count ≠ 0#24 → (t.chan n).ctl.state = .ready ∧ (t.chan n).ctl.setup = some u) ∧
        (c.count = 0#24 → c.chain ≠ 0#26 → (segmentAddrs c.chain).any (fun a => s.inWindow a) = false →
          (t.chan n).ctl.state = .linking ∧ (t.chan n).ctl.setup = some u ∧
          (t.chan n).walker.phase = .claimed c.chain ∧ { kind := .link n, age := 0 } ∈ t.arb.upkeep) ∧
        (c.count = 0#24 → c.chain ≠ 0#26 → (segmentAddrs c.chain).any (fun a => s.inWindow a) = true →
          (t.chan n).ctl.state = .faulted ∧ (t.chan n).ctl.lastFault = some .windowTarget) ∧
        (c.count = 0#24 → c.chain = 0#26 →
          (t.chan n).ctl.state = .ending ∧ (t.chan n).ctl.ending = some .terminal ∧ (t.chan n).ctl.setup = some u ∧
          s.WritebackTriggered t n ∧ t.WritebackServes n .finalEvent) ∧
        (t.chan n).ctl.startCount = c.ctl.startCount ∧ (t.chan n).done24 = c.done24 ∧
        (t.chan n).segments16 = c.segments16) ∧
    (∀ v, c.ctl.state = .halted → c.line = .valid v → checked = none → c.opInFlight = false →
      c.ctl.pendingFault = none →
      ∃ t, exec (.resume n) s = .next t ∧ (t.chan n).ctl.state = .faulted ∧
        (t.chan n).ctl.lastFault = some .badSetup ∧ (t.chan n).ctl.startCount = c.ctl.startCount ∧
        s.EventCreated t n (s.faultEvent n .badSetup 0#26)) ∧
    (c.ctl.state ∈ [ChanState.off, .ready, .pending, .moving, .draining, .faulted] →
      ∃ t, exec (.resume n) s = .next t ∧ s.CommandRefused t n 3#3 .notAllowedInState)

/-- ABORT (R72, R105): READY and HALTED enter ENDING(ABORTED) with the line's COUNT; PENDING, and DRAINING before its grant,
answer the accepted request CANCELLED and do the same, each triggering the writeback that the final event waits for (R80);
MOVING, and DRAINING after its grant, record it and stay; OFF and FAULTED refuse it. -/
def Obligations.AbortEndsOrIsRecorded : Prop :=
  ∀ (n : ChanId) (s : State), s.Takes n →
    let c := s.chan n
    (c.ctl.state = .ready ∨ c.ctl.state = .halted → c.NoHeld →
      ∃ t, exec (.abort n) s = .next t ∧ (t.chan n).ctl.state = .ending ∧
        (t.chan n).ctl.ending = some (.aborted c.count) ∧ s.WritebackTriggered t n ∧
        t.WritebackServes n .finalEvent ∧ t.events = s.events ∧
        t.out = s.out) ∧
    (∀ req, c.port = .accepted req → (c.ctl.state = .pending ∨ c.ctl.state = .draining) →
      ∃ t, exec (.abort n) s = .next t ∧ (t.chan n).ctl.state = .ending ∧
        (t.chan n).ctl.ending = some (.aborted c.count) ∧ (t.chan n).port = .idle ∧
        t.out = s.out ++ [.answer n .cancelled] ∧ s.WritebackTriggered t n ∧ t.WritebackServes n .finalEvent ∧
        t.events = s.events) ∧
    (c.ctl.state = .moving ∨ (c.ctl.state = .draining ∧ c.breakClaimed = false) →
      ∃ t, exec (.abort n) s = .next t ∧ (t.chan n).ctl = { c.ctl with
          abortRecorded := true, mailbox := (t.chan n).ctl.mailbox } ∧
        (t.chan n).port = c.port ∧ (t.chan n).untaken = 0#3 ∧ t.events = s.events ∧ t.arb = s.arb ∧ t.out = s.out) ∧
    (c.ctl.state = .off ∨ c.ctl.state = .faulted →
      ∃ t, exec (.abort n) s = .next t ∧ s.CommandRefused t n 4#3 .notAllowedInState)

/-- CLEAR (R73): in OFF, LAST_FAULT and LAST_REFUSAL become NONE and a VALID line's writeback is triggered; in FAULTED the
channel also enters OFF with its setup gone, and a VALID line's writeback is the CLEAR writeback, with the clearing flag set;
the other taking states refuse it. -/
def Obligations.ClearReturnsToOff : Prop :=
  ∀ (n : ChanId) (s : State), s.Takes n →
    let c := s.chan n
    (c.ctl.state = .off →
      ∃ t, exec (.clear n) s = .next t ∧ (t.chan n).ctl.state = .off ∧ (t.chan n).ctl.lastFault = none ∧
        (t.chan n).ctl.lastRefusal = none ∧ (t.chan n).ctl.startCount = c.ctl.startCount ∧
        (t.chan n).ctl.clearing = false ∧ s.WritebackTriggered t n ∧ (c.line = .invalid → (t.chan n).line = .invalid) ∧
        t.events = s.events) ∧
    (c.ctl.state = .faulted →
      ∃ t, exec (.clear n) s = .next t ∧ (t.chan n).ctl.state = .off ∧ (t.chan n).ctl.lastFault = none ∧
        (t.chan n).ctl.lastRefusal = none ∧ (t.chan n).ctl.startCount = c.ctl.startCount ∧
        (t.chan n).ctl.setup = none ∧ (t.chan n).ctl.clearing = c.lineValid ∧ s.WritebackTriggered t n ∧
        t.WritebackServes n .clear ∧
        (c.line = .invalid → (t.chan n).line = .invalid) ∧ t.events = s.events) ∧
    (c.ctl.state ∈ [ChanState.ready, .pending, .moving, .draining, .halted] →
      ∃ t, exec (.clear n) s = .next t ∧ s.CommandRefused t n 5#3 .notAllowedInState)

/-! ## Channel ports and timers -/

/-- A request at an IDLE port by the table of R89, each row with everything it changes; and a second request (R92): at a HELD
or ACCEPTED port the first is answered FAILED(PORT_PROTOCOL), the port is IDLE and the fault is taken where nothing holds it
back; at a GRANTED port the fault becomes pending and the group runs on. A HELD request is considered, when the state changes or
a stall ends, by settle (R65, R90): with no command to take first, it is refused NOT_ARMED in OFF, HALTED and ENDING and
CHANNEL_FAULTED in FAULTED, accepted in READY or refused DIRECTION_MISMATCH there, and stays held in every other state and
while the channel is stalled. -/
def Obligations.ChannelRequestByState : Prop :=
  ∀ (n : ChanId) (req : DeviceRequest) (s : State),
    let c := s.chan n
    let run := exec (.channelRequest n req) s
    let refused := fun r : PortRefusal => run = .next { s with out := s.out ++ [.answer n (.refused r)] }
    let held := run = .next (s.setChan n { c with port := .held req })
    (c.port = .idle →
      (c.ctl.state = .off ∨ c.ctl.state = .halted ∨ c.ctl.state = .ending → refused .notArmed) ∧
      (c.ctl.state = .faulted → refused .channelFaulted) ∧
      (c.ctl.state = .loading ∨ c.ctl.state = .linking → held) ∧
      (c.ctl.state = .pending ∨ c.ctl.state = .moving ∨ c.ctl.state = .draining → held) ∧
      (∀ u, c.ctl.state = .ready → c.ctl.setup = some u →
        (u.direction ≠ req.direction → refused .directionMismatch) ∧
        (u.direction = req.direction → c.ctl.stalled.isSome = true → held) ∧
        (u.direction = req.direction → c.ctl.stalled = none →
          ∃ t, run = .next t ∧ (t.chan n).port = .accepted req ∧
            (t.chan n).ctl = { c.ctl with state := .pending } ∧ (t.chan n).quiet = c.quiet ∧
            (t.chan n).walker = c.walker ∧ (∀ i, i ≠ .status → (t.chan n).word i = c.word i) ∧
            t.out = s.out ∧ t.arb = s.arb ∧ t.events = s.events))) ∧
    (∀ old, c.port = .held old ∨ c.port = .accepted old →
      ∃ t, run = .next t ∧ (t.chan n).port = .idle ∧
        t.out = s.out ++ [.answer n (.failed .portProtocol)] ∧
        (c.ctl.state ≠ .faulted → c.ctl.pendingFault = none → c.untaken = 0#3 → c.opInFlight = false →
          c.ctl.stalled = none →
          (t.chan n).ctl.state = .faulted ∧ (t.chan n).ctl.lastFault = some .portProtocol ∧
          s.EventCreated t n (s.faultEvent n .portProtocol 0#26)) ∧
        (c.ctl.state ≠ .faulted → c.ctl.pendingFault = none → c.opInFlight = true ∨ c.ctl.stalled.isSome = true →
          c.ctl.stalled.isSome = true ∨ c.ctl.state = .loading ∨ c.ctl.state = .linking →
          (t.chan n).ctl = { c.ctl with
            pendingFault := some { code := .portProtocol, address := 0#26, noWriteback := false } })) ∧
    (∀ old g, c.port = .granted old g → c.ctl.state ≠ .faulted →
      run = .next (s.setChan n { c with ctl := { c.ctl with
        pendingFault := some (c.ctl.pendingFault.getD
          { code := .portProtocol, address := 0#26, noWriteback := false }) } })) ∧
    (c.port = .held req → c.untaken = 0#3 ∨ c.canTake = false →
      let t := s.settle n
      let closed := fun r : PortRefusal =>
        t = State.setChan { s with out := s.out ++ [.answer n (.refused r)] } n { c with port := .idle }
      (c.ctl.stalled ≠ none → t = s) ∧
      (c.ctl.stalled = none →
        (c.ctl.state = .off ∨ c.ctl.state = .halted ∨ c.ctl.state = .ending → closed .notArmed) ∧
        (c.ctl.state = .faulted → closed .channelFaulted) ∧
        (∀ u, c.ctl.state = .ready → c.ctl.setup = some u →
          (u.direction ≠ req.direction → closed .directionMismatch) ∧
          (u.direction = req.direction → (t.chan n).port = .accepted req ∧
            (t.chan n).ctl = { c.ctl with state := .pending } ∧ (t.chan n).quiet = c.quiet ∧
            (t.chan n).walker = c.walker ∧ (∀ i, i ≠ .status → (t.chan n).word i = c.word i) ∧ s.OnlyChannel n t ∧
            t.mport = s.mport ∧ t.out = s.out ∧ t.arb = s.arb ∧ t.events = s.events)) ∧
        (c.ctl.state ∈ [ChanState.loading, .linking, .pending, .moving, .draining] → t = s)))

/-- Time. On an empty queue a step is one reference tick (log 4): each running quiet timer loses 1 µs (R57), a running holdoff
timer gains 1 µs up to 65,535 (R158), the timers that reach their expiry put their rows into the queue, and nothing else
changes. A quiet timer that has counted down stops and triggers a writeback of the line (R57), and a row for a timer that
has not changes nothing (log 3). A HOLDOFF expiry recomputes ATTN by R159 and changes nothing else. -/
def Obligations.TicksAndTimerExpiries : Prop :=
  (∀ s : State, s.pending = [] → ∃ t, step s = .next t ∧
     (∀ n, t.chan n = { s.chan n with quiet := (s.chan n).quiet.map (· - 1) }) ∧
     t.events = { s.events with holdoff := s.events.holdoff.map fun e => min (e + 1) 65535 } ∧
     t.pass = s.pass ∧ t.mport = s.mport ∧ t.arb = s.arb ∧ t.cells = s.cells ∧ t.mgmt = s.mgmt ∧
     t.freeCounter = s.freeCounter ∧ t.out = s.out ∧
     (∀ c ∈ t.pending, c = .holdoffExpiry ∨ ∃ n, c = .quietTimerExpiry n) ∧
     (∀ n, Instr.quietTimerExpiry n ∈ t.pending ↔ (s.chan n).quiet = some 1) ∧
     (Instr.holdoffExpiry ∈ t.pending ↔ s.events.holdoffExpired = false ∧ t.events.holdoffExpired = true)) ∧
  (∀ (n : ChanId) (s : State),
     ((s.chan n).quiet = some 0 →
       ∃ t, exec (.quietTimerExpiry n) s = .next t ∧ (t.chan n).quiet = none ∧
         (∀ v, (s.chan n).line = .valid v → v.dirty.any = true → s.WritebackTriggered t n) ∧
         (∀ v, (s.chan n).line = .valid v → v.wbPhase = .none → v.dirty.any = false →
           t = s.setChan n { s.chan n with quiet := none }) ∧
         (t.chan n).ctl = (s.chan n).ctl ∧ (t.chan n).port = (s.chan n).port ∧ t.events = s.events ∧ t.out = s.out) ∧
     ((s.chan n).quiet ≠ some 0 → exec (.quietTimerExpiry n) s = .next s) ∧
     exec .holdoffExpiry s = .next { s with events := { s.events with
       attn := s.events.attention.enable &&
         (decide (effectiveThreshold s.events.attention.threshold.toNat s.ringSlots ≤
           (s.events.producer - s.events.consumer).toNat) || s.events.holdoffExpired) } })

/-! ## UPKEEP grants and their responses -/

/-- The grant of an UPKEEP claim issues its group and makes its owner's changes at the grant: a fill of eight reads (R46), a
link of four (R111), a cell load of three (R123), a cell status write with the entry's values (R132), the recovery read
(R161), and a writeback of the dirty words in word order, whose marks are cleared (R52). The counter stands (R140). -/
def Obligations.UpkeepGrantIssuesItsGroup : Prop :=
  ∀ (s : State),
    (∀ n w, s.Grants (.upkeep (.fill n)) → (s.chan n).line = .filling .claimed w →
      ∃ t, exec .grantDecision s = .next t ∧ (t.chan n).line = .filling (.granted [] .empty) w ∧
        s.GroupStarted t (.upkeep (.fill n)) (.ofRead (.fill n 0) (s.wordAddr (8 * n.val)))
          ([1, 2, 3, 4, 5, 6, 7].map fun i => .ofRead (.fill n i) (s.wordAddr (8 * n.val + i))) ∧
        t.arb.breakRun = s.arb.breakRun ∧ (∀ m, m ≠ n → t.chan m = s.chan m) ∧ t.cells = s.cells ∧ t.pass = s.pass ∧
        s.OnlyDisableAdvances t) ∧
    (∀ n v a l, s.Grants (.upkeep (.writeback n)) → (s.chan n).line = .valid v → v.dirtyWords = a :: l →
      let write := fun i => Access.ofWrite (.writeback n i) (s.wordAddr (8 * n.val + i.index)) (v.words.get i)
      ∃ t, exec .grantDecision s = .next t ∧
        (t.chan n).line = .valid { v with dirty := .fill false, wbPhase := .granted (l.length + 1) none } ∧
        s.GroupStarted t (.upkeep (.writeback n)) (write a) (l.map write) ∧
        (∀ i, i ∈ v.dirtyWords ↔ v.dirty.get i = true) ∧
        t.arb.breakRun = s.arb.breakRun ∧ (∀ m, m ≠ n → t.chan m = s.chan m) ∧ t.cells = s.cells ∧ t.pass = s.pass ∧
        s.OnlyDisableAdvances t) ∧
    (∀ n a, s.Grants (.upkeep (.link n)) → (s.chan n).walker.phase = .claimed a →
      ∃ t, exec .grantDecision s = .next t ∧ (t.chan n).walker.phase = .granted a [] .empty ∧
        (t.chan n).line = (s.chan n).line ∧ (t.chan n).ctl = (s.chan n).ctl ∧
        s.GroupStarted t (.upkeep (.link n)) (.ofRead (.link n 0) a)
          [.ofRead (.link n 1) (a + 1#26), .ofRead (.link n 2) (a + 2#26), .ofRead (.link n 3) (a + 3#26)] ∧
        t.arb.breakRun = s.arb.breakRun ∧ (∀ m, m ≠ n → t.chan m = s.chan m) ∧ t.cells = s.cells ∧ t.pass = s.pass ∧
        s.OnlyDisableAdvances t) ∧
    (∀ k p, s.Grants (.upkeep (.cellLoad k)) → (s.cell k).cstate = .loading p →
      ∃ t, exec .grantDecision s = .next t ∧ (t.cell k).cstate = .loading (.granted [] .empty) ∧
        s.GroupStarted t (.upkeep (.cellLoad k)) (.ofRead (.cellLoad k 0) (s.wordAddr (65 + 4 * k.val)))
          [.ofRead (.cellLoad k 1) (s.wordAddr (66 + 4 * k.val)), .ofRead (.cellLoad k 2) (s.wordAddr (67 + 4 * k.val))] ∧
        t.arb.breakRun = s.arb.breakRun ∧ (∀ j, j ≠ k → t.cell j = s.cell j) ∧ t.channels = s.channels ∧
        t.pass = s.pass ∧ s.OnlyDisableAdvances t) ∧
    (∀ k, s.Grants (.upkeep (.cellStatus k)) →
      ∃ t, exec .grantDecision s = .next t ∧ (t.cell k).statusDue = false ∧
        s.GroupStarted t (.upkeep (.cellStatus k))
          (.ofWrite (.cellStatus k) (s.wordAddr (128 + k.val))
            (cellStatusBits (s.cell k).cstate (s.cell k).mergeCount (s.cell k).atLimit)) [] ∧
        t.arb.breakRun = s.arb.breakRun ∧ (∀ j, j ≠ k → t.cell j = s.cell j) ∧ t.channels = s.channels ∧
        t.pass = s.pass ∧ s.OnlyDisableAdvances t) ∧
    (s.Grants (.upkeep .recovery) → s.events.recovery = .claimed →
      ∃ t, exec .grantDecision s = .next t ∧ t.events.recovery = .granted ∧
        s.GroupStarted t (.upkeep .recovery) (.ofRead .recovery (s.wordAddr 145)) [] ∧
        t.arb.breakRun = s.arb.breakRun ∧ t.channels = s.channels ∧ t.cells = s.cells ∧ t.pass = s.pass)

/-- The grant of the post claim (R152, R158): the head of the queue is the event in post with SEQUENCE NEXT_SEQUENCE,
PRODUCER and NEXT_SEQUENCE rise by one, the four words of the record, PRODUCER, and CONSUMER where the restore is owed, are
written in this order from the slot that the old PRODUCER names, a cell's queued mark is cleared (R130), the holdoff timer
starts where the ring was empty, and ATTN follows (R159). -/
def Obligations.PostGrantWritesTheEventAndTheIndex : Prop :=
  ∀ (ev : Event) (more : List Event) (s : State), s.Grants (.upkeep .post) → s.events.postPhase = .claimed →
    s.events.queue = ev :: more →
    let p := s.events.producer
    let slot := 148 + 4 * (p.toNat % s.ringSlots)
    let writes : List Access :=
      [.ofWrite (.post 1) (s.wordAddr (slot + 1)) ev.word1, .ofWrite (.post 2) (s.wordAddr (slot + 2)) ev.detailA,
       .ofWrite (.post 3) (s.wordAddr (slot + 3)) ev.detailB,
       .ofWrite (.post 4) (s.wordAddr 144) ((p + 1#16).setWidth 32)] ++
      (if s.events.restoreOwed then [.ofWrite (.post 5) (s.wordAddr 145) (s.events.consumer.setWidth 32)] else [])
    ∃ t, exec .grantDecision s = .next t ∧
      s.GroupStarted t (.upkeep .post) (.ofWrite (.post 0) (s.wordAddr slot) (ev.word0 s.events.nextSequence)) writes ∧
      t.events.queue = more ∧
      t.events.inPost = some { event := ev, sequence := s.events.nextSequence, prevProducer := p,
                               prevSequence := s.events.nextSequence, restored := s.events.restoreOwed } ∧
      t.events.producer = p + 1#16 ∧ t.events.nextSequence = s.events.nextSequence + 1#16 ∧
      t.events.postPhase = .granted (if s.events.restoreOwed then 6 else 5) ∧ t.events.restoreOwed = false ∧
      t.events.consumer = s.events.consumer ∧
      t.events.holdoff = (if s.events.occupancy = 0 then some 0 else s.events.holdoff) ∧
      t.events.attn = t.events.attnLevel s.ringSlots ∧
      (∀ k, ev.cell? = some k → (t.cell k).queuedMark = false) ∧
      (∀ j, ev.cell? ≠ some j → t.cell j = s.cell j) ∧ t.channels = s.channels ∧ t.pass = s.pass

/-- The grant of a step of the enable sequence (R179): E1 reads CONSUMER, E2 writes PRODUCER and RING_STATE, E3 the eight
STATUS words with STATE OFF, E4 reads the four words of a cell's record, E5 writes the sixteen cell status words with MERGE 0
and the mark clear. Each is one group under the lock. -/
def Obligations.EnableGrantIssuesItsStep : Prop :=
  ∀ (q : SeqStep) (s : State), s.Grants (.upkeep .enable) → s.mgmt.sequence = some q →
    let issues := fun (l : List (Kind × Addr × Word)) => ∃ t first rest, exec .grantDecision s = .next t ∧
      s.GroupStarted t (.upkeep .enable) first rest ∧
      (first :: rest).map (fun a => (a.kind, a.addr, a.data)) = l ∧
      (∀ a ∈ first :: rest, a.lanes = 0xF#4) ∧
      ((first :: rest).map (·.owner)) = (List.range l.length).map (fun i => .enable i (i + 1 == l.length)) ∧
      t.channels = s.channels ∧ t.events = s.events ∧ t.mgmt = s.mgmt ∧ t.pass = s.pass ∧
      (∀ k, t.cell k = if q = .e5 then { s.cell k with statusDue := false } else s.cell k)
    (q = .e1 → issues [(.read, s.wordAddr 145, 0#32)]) ∧
    (q = .e2 → issues [(.write, s.wordAddr 144, s.events.producer.setWidth 32),
      (.write, s.wordAddr 147, ringStateBits 0#16 s.mgmt.ringSize .ok)]) ∧
    (q = .e3 → issues (([0, 1, 2, 3, 4, 5, 6, 7] : List ChanId).map fun n => (.write, s.wordAddr (8 * n.val + 3),
      statusBits .off (s.chan n).ctl.lastFault (s.chan n).ctl.lastRefusal (s.chan n).ctl.startCount))) ∧
    (∀ k l, q = .e4 k l → issues ([0, 1, 2, 3].map fun i => (.read, s.wordAddr (64 + 4 * k.val + i), 0#32))) ∧
    (q = .e5 → issues (cellIds.map fun k => (.write, s.wordAddr (128 + k.val),
      cellStatusBits (s.cell k).cstate 0#8 false)))

/-- The response of a fill read. OKAY before the eighth keeps the word. The eighth installs the record (R49): COUNT, ADDRESS,
CHAIN and COOKIE with the overlay laid over, DONE and SEGMENTS 0, COMMAND the waiting command; and with a good setup, COUNT
above 0 and nothing waiting the channel enters READY with its setup latched and its counter and flags clear (R69, R109). For
every install: CONTROL keeps F's setup fields (R49); a failed check gives FAULTED(BAD_SETUP), COUNT 0 gives LINKING or, with
CHAIN 0, ENDING(TERMINAL), and a fault pending before is taken instead; the waiting command stands in COMMAND, and settle takes
it where the state can (R64, R65) and then considers a held request. A merged setup change first sets SETUP_LOCKED and creates
COMMAND_REFUSED with code 0; where that event or an earlier one stalls the channel, the validation is held (R82; on a channel
stalled before, the refusal creates no event: log 14; the held install is decided from the line as it stands after the stall:
log 30). ERROR (R50): the line is INVALID, the other fill reads in flight are orphaned, the lock ends, and the channel is
FAULTED with MEMORY_DESCRIPTOR and the failed word's window address; a fault pending before is taken in its place (R78), a
stalled channel keeps it pending (R167), and the waiting command goes to the mailbox, where settle finds it (R66). -/
def Obligations.FillResponseInstallsTheRecord : Prop :=
  ∀ (n : ChanId) (i : RecWord) (rest : List InFlight) (ws : List Word) (o : FillOverlay) (waiting : CommandCode) (s : State),
    s.Awaits (.fill n i.index) rest → (s.chan n).line = .filling (.granted ws o) waiting →
    let c := s.chan n
    let s' : State := { s with mport := { s.mport with inflight := rest } }
    (∀ d, ws.length ≠ 7 → exec (.fillReadResponse (.okay d)) s = .next
      (s'.setChan n { c with line := .filling (.granted (ws ++ [d]) o) waiting })) ∧
    (∀ d u, ws.length = 7 → s.Unhindered n → c.NoHeld → waiting = 0#3 →
      let f := recordOfList (ws ++ [d])
      setupBits (o.control.over f.control) = setupBits f.control →
      validateSetup (setCommand 0#3 (o.control.over f.control)) = some u → countOf (o.count.over f.count) ≠ 0#24 →
      ∃ t v, exec (.fillReadResponse (.okay d)) s = .next t ∧ (t.chan n).line = .valid v ∧
        v.words = { count := o.count.over f.count, address := o.address.over f.address,
                    control := setCommand 0#3 (o.control.over f.control),
                    status := statusBits .ready c.ctl.lastFault c.ctl.lastRefusal c.ctl.startCount,
                    chain := o.chain.over f.chain, cookie := o.cookie.over f.cookie, done := 0#32, segments := 0#32 } ∧
        v.dirty = { count := false, address := false, control := v.words.control != o.control.over f.control,
                    status := true, chain := false, cookie := false, done := (f.done != 0#32) || o.done,
                    segments := (f.segments != 0#32) || o.segments } ∧
        (t.chan n).ctl = { c.ctl with state := .ready, setup := some u } ∧ (t.chan n).quiet = none ∧
        (t.chan n).walker.emptyRun = 0 ∧ (t.chan n).walker.flags = { evEnd := false, hold := false } ∧
        t.mport = s'.mport ∧ t.out = s.out ∧ t.events = s.events ∧ s.OnlyChannel n t) ∧
    (∀ d, ws.length = 7 →
      let f := recordOfList (ws ++ [d])
      let m := o.control.over f.control
      let merged := setupBits m ≠ setupBits f.control
      let words : Record Word :=
        { count := o.count.over f.count, address := o.address.over f.address,
          control := setCommand waiting (setField 0 6 (setupBits f.control) m), status := c.ctl.statusWord,
          chain := o.chain.over f.chain, cookie := o.cookie.over f.cookie, done := 0#32, segments := 0#32 }
      let installed : State := s'.setChan n
        { c with
          quiet := none
          walker := { c.walker with emptyRun := 0, flags := { evEnd := false, hold := false } }
          line := .valid
            { words := words
              dirty := { count := false, address := false, control := words.control != m,
                         status := (words.status != f.status) || o.status, chain := false, cookie := false,
                         done := (f.done != 0#32) || o.done, segments := (f.segments != 0#32) || o.segments }
              wbPhase := .none, serves := .plain, requested := none } }
      let run := exec (.fillReadResponse (.okay d)) s
      let held := fun u : State => run = .next (u.modCtl n fun k => { k with heldCompletion := some .install })
      let refused := installed.refuse n 0#3 .setupLocked
      let out := installed.installTransition n
      let chain := addrOf words.chain
      let good := c.ctl.pendingFault = none ∧ validateSetup words.control ≠ none
      (¬ merged → c.ctl.stalled = none → run = .next (out.settle n)) ∧
      (¬ merged → c.ctl.stalled ≠ none → held installed) ∧
      (merged → c.ctl.stalled ≠ none → held (installed.modStatus n fun k => { k with lastRefusal := some .setupLocked })) ∧
      (merged → c.ctl.stalled = none →
        (refused.chan n).ctl.lastRefusal = some .setupLocked ∧
        s.EventCreated refused n
          { kind := .commandRefused, source := BitVec.ofNat 4 n.val, word1 := words.cookie,
            detailA := refusedDetail 0#3 .setupLocked, detailB := c.ctl.startCount.setWidth 32 } ∧
        ((refused.chan n).ctl.stalled = none → run = .next ((refused.installTransition n).settle n)) ∧
        ((refused.chan n).ctl.stalled ≠ none → held refused)) ∧
      (c.ctl.stalled = none →
        (out.chan n).untaken = waiting ∧
        (∀ p, c.ctl.pendingFault = some p →
          (out.chan n).ctl.state = .faulted ∧ (out.chan n).ctl.lastFault = some p.code) ∧
        (c.ctl.pendingFault = none → validateSetup words.control = none →
          (out.chan n).ctl.state = .faulted ∧ (out.chan n).ctl.lastFault = some .badSetup ∧
          (out.chan n).ctl.setup = none ∧
          s.EventCreated out n { s.faultEvent n .badSetup 0#26 with word1 := words.cookie }) ∧
        (good → countOf words.count ≠ 0#24 →
          (out.chan n).ctl = { c.ctl with state := .ready, setup := validateSetup words.control }) ∧
        (good → countOf words.count = 0#24 → chain ≠ 0#26 → (segmentAddrs chain).any (fun a => s.inWindow a) = false →
          (out.chan n).ctl = { c.ctl with state := .linking, setup := validateSetup words.control } ∧
          (out.chan n).walker =
            { phase := .claimed chain, emptyRun := 0, flags := { evEnd := false, hold := false } } ∧
          { kind := .link n, age := 0 } ∈ out.arb.upkeep) ∧
        (good → countOf words.count = 0#24 → chain = 0#26 →
          (out.chan n).ctl =
            { c.ctl with state := .ending, ending := some .terminal, setup := validateSetup words.control } ∧
          (out.chan n).done24 = 0#24 ∧ (out.chan n).segments16 = 0#16 ∧ installed.WritebackTriggered out n ∧
          out.WritebackServes n .finalEvent))) ∧
    (let fault : PendingFault := c.ctl.pendingFault.getD
       { code := .memoryDescriptor, address := s.wordAddr (8 * n.val + i.index), noWriteback := false }
     let lost : State := State.setChan
       { s with
         mport := { inflight := rest.map fun e => if e.owner.isFill n then { e with orphan := true } else e
                    lock := if s.heldBy (.upkeep (.fill n)) then none else s.mport.lock }
         arb := { s.arb with
           upkeep := s.arb.upkeep.filter fun x => !(x.kind == .fill n || x.kind == .writeback n) } } n
       { c with line := .invalid, quiet := none, ctl := { c.ctl with mailbox := waiting } }
     let out := lost.enterFaulted n fault
     (c.ctl.stalled ≠ none → exec (.fillReadResponse .error) s = .next
       (lost.modCtl n fun k => { k with pendingFault := some fault })) ∧
     (c.ctl.stalled = none → exec (.fillReadResponse .error) s = .next (out.settle n) ∧
       (out.chan n).line = .invalid ∧ (out.chan n).untaken = waiting ∧ (out.chan n).ctl.state = .faulted ∧
       (out.chan n).ctl.lastFault = some fault.code ∧
       s.EventCreated out n { s.faultEvent n fault.code fault.address with word1 := 0#32 })) ∧
    (s.Unhindered n → waiting = 0#3 → c.ctl.state ≠ .faulted →
      ∃ t, exec (.fillReadResponse .error) s = .next t ∧ (t.chan n).line = .invalid ∧ (t.chan n).quiet = none ∧
        (t.chan n).ctl.state = .faulted ∧ (t.chan n).ctl.lastFault = some .memoryDescriptor ∧
        s.EventCreated t n { s.faultEvent n .memoryDescriptor (s.wordAddr (8 * n.val + i.index)) with word1 := 0#32 } ∧
        t.mport = { inflight := rest.map fun e => if e.owner.isFill n then { e with orphan := true } else e,
                    lock := if s.heldBy (.upkeep (.fill n)) then none else s.mport.lock } ∧
        (∀ c ∈ t.arb.upkeep, c.kind ≠ .fill n ∧ c.kind ≠ .writeback n) ∧ s.OnlyChannel n t)

/-- The response of a writeback write (R53). Before the last, an ERROR marks its word dirty again and is remembered, the
first in word order, and an OKAY changes nothing but the count; an ERROR in step D1 of the disable sequence is not remembered,
so it raises no fault (R181; log 29). At the last with no failed word: nothing waited, and the phase is NONE; a requested
writeback is claimed where a word is dirty (R55); the ENDING writeback creates the final event, and the channel enters OFF as
it enters the queue, or is stalled with it, or holds it back (R80); the reload enters FILLING with the line's command waiting
(R59; a writeback requested behind it is dropped: log 14). At the end of a CLEAR writeback, failed words or not, the line is
INVALID and its command goes to the mailbox (R73). At the last with a failed word, whether it failed just now or earlier, a
channel that nothing holds back is FAULTED with MEMORY_DESCRIPTOR and the first failed word's window address, with no
writeback of its own (R164), in place of a final event (R166) or a fill (R165), where a fault pending before is taken
instead. A writeback requested meanwhile is triggered first in each of these, but for the reload that goes on to FILLING
and the CLEAR (R55). The part then acts by settle (R65), which does nothing where no command is untaken and no request is
held. -/
def Obligations.WritebackResponseEndsTheWriteback : Prop :=
  ∀ (n : ChanId) (i : RecWord) (rest : List InFlight) (v : ValidLine) (left : Nat) (failed : Option RecWord) (s : State),
    s.Awaits (.writeback n i) rest → (s.chan n).line = .valid v → v.wbPhase = .granted left failed →
    let c := s.chan n
    let s' : State := { s with mport := { s.mport with inflight := rest } }
    let first := failed.getD i
    let remembered := fun r : MemResponse => if r = .error ∧ s.mgmt.sequence ≠ some .d1 then some first else failed
    let dirty := fun r : MemResponse => if r = .error then v.dirty.set i true else v.dirty
    let fault := fun w : RecWord =>
      { code := .memoryDescriptor, address := s.wordAddr (8 * n.val + w.index), noWriteback := true : PendingFault }
    (∀ r, 1 < left → ∃ t, exec (.writebackWriteResponse r) s = .next t ∧
      t.chan n =
        { c with line := .valid { v with dirty := dirty r, wbPhase := .granted (left - 1) (remembered r) } } ∧
      t.mport = s'.mport ∧ t.arb = s.arb ∧ t.out = s.out ∧ s.OnlyDisableAdvances t) ∧
    (∀ r, left = 1 → remembered r = none → v.serves.consequence = .nothing → v.requested = none →
      commandOf v.words.control = 0#3 → c.NoHeld →
      ∃ t, exec (.writebackWriteResponse r) s = .next t ∧
        t.chan n = { c with line := .valid { v with dirty := dirty r, wbPhase := .none, serves := .plain } } ∧
        t.mport = s'.mport ∧ t.arb = s.arb ∧ t.out = s.out ∧ s.OnlyDisableAdvances t) ∧
    (∀ d e, left = 1 → failed = none → v.serves.consequence = .finalEvent → v.requested = none →
      commandOf v.words.control = 0#3 → c.ctl.stalled = none → c.ctl.ending = some e → s.events.count < 8 →
      s.events.intake = .opened → c.NoHeld →
      ∃ t, exec (.writebackWriteResponse (.okay d)) s = .next t ∧ (t.chan n).ctl.state = .off ∧
        (t.chan n).ctl.setup = none ∧ (t.chan n).ctl.ending = none ∧
        t.events.queue = s.events.queue ++ [s.finalOf n e] ∧
        (∃ v', (t.chan n).line = .valid v' ∧ v'.wbPhase = .claimed) ∧
        { kind := .writeback n, age := 0 } ∈ t.arb.upkeep) ∧
    (∀ r w, left = 1 → remembered r = some w → v.serves.consequence ≠ .clear → v.serves.disable = false →
      v.requested = none → s.Unhindered n → (v.serves.consequence = .reload ∨ c.opInFlight = false) →
      (v.serves.consequence = .reload ∨ c.ctl.state ≠ .faulted) → commandOf v.words.control = 0#3 →
      ∃ t v', exec (.writebackWriteResponse r) s = .next t ∧ (t.chan n).line = .valid v' ∧ v'.wbPhase = .none ∧
        v'.words = { v.words with status := v'.words.status } ∧ (r = .error → v'.dirty.get i = true) ∧
        (t.chan n).ctl.state = .faulted ∧ (t.chan n).ctl.lastFault = some .memoryDescriptor ∧
        (t.chan n).ctl.ending = none ∧ (t.chan n).ctl.startCount = c.ctl.startCount ∧
        (t.chan n).ctl.setup = c.ctl.setup ∧
        s.EventCreated t n (s.faultEvent n .memoryDescriptor (s.wordAddr (8 * n.val + w.index))) ∧
        t.mport = s'.mport) ∧
    (∀ r, left = 1 →
      let line : ValidLine := { v with dirty := dirty r, wbPhase := .none, serves := .plain, requested := none }
      let ended := s'.setChan n { c with line := .valid line }
      let own := fun x : UpkeepClaim => x.kind == .fill n || x.kind == .writeback n
      let again := match v.requested with
        | some w => ended.triggerWriteback n w
        | none => ended
      let others : State := { s' with arb := { s.arb with upkeep := s.arb.upkeep.filter fun x => !own x } }
      let after := fun u : State => exec (.writebackWriteResponse r) s = .next ((u.settle n).disableProgress)
      (v.serves.consequence = .clear → after (others.setChan n
        { c with line := .invalid, quiet := none,
                 ctl := { c.ctl with mailbox := commandOf v.words.control, clearing := false } })) ∧
      (v.serves.consequence = .reload → remembered r = none →
        after ((others.setChan n
          { c with line := .filling .claimed (commandOf v.words.control), ctl := { c.ctl with mailbox := 0#3 } }).raise
            (.fill n))) ∧
      (∀ w, v.serves.consequence = .reload → remembered r = some w → v.serves.disable = false →
        let f := { c.ctl.pendingFault.getD (fault w) with noWriteback := true }
        (c.ctl.stalled = none → after (again.enterFaulted n f)) ∧
        (c.ctl.stalled ≠ none → after (again.modCtl n fun k => { k with pendingFault := some f }))) ∧
      (∀ e, v.serves.consequence = .finalEvent → remembered r = none → c.ctl.ending = some e →
        (c.ctl.stalled ≠ none → after (again.modCtl n fun k => { k with heldCompletion := some .ending })) ∧
        (c.ctl.stalled = none → s.events.intake = .opened → ¬ s.events.count < 8 →
          after (again.modCtl n fun k => { k with stalled := some (s.finalOf n e) })) ∧
        (c.ctl.stalled = none → s.events.intake = .opened → s.events.count < 8 →
          after ((again.pushEvent (s.finalOf n e)).enterOffFromEnding n)) ∧
        (c.ctl.stalled = none → s.events.intake = .closed → after (again.enterOffFromEnding n))) ∧
      (∀ w, v.requested = some w →
        (line.dirty.any = true → again =
          (ended.setChan n { c with line := .valid { line with wbPhase := .claimed, serves := w } }).raise (.writeback n)) ∧
        (line.dirty.any = false → again = ended)) ∧
      (∀ w, v.serves.consequence = .nothing → remembered r = none → v.requested = some w →
        (line.dirty.any = true →
          after ((ended.setChan n { c with line := .valid { line with wbPhase := .claimed, serves := w } }).raise
            (.writeback n))) ∧
        (line.dirty.any = false → after ended)) ∧
      (∀ w, v.serves.consequence = .nothing ∨ v.serves.consequence = .finalEvent → remembered r = some w →
        v.serves.disable = false → after (again.faultArise n (fault w))) ∧
      (∀ w, v.serves.consequence ≠ .clear → remembered r = some w → v.serves.disable = true → after again)) ∧
    (∀ t : State, (t.chan n).untaken = 0#3 → (t.chan n).NoHeld → t.settle n = t)

/-- The response of a link read. OKAY before the fourth keeps the word. The fourth loads the segment (R113): the fields of
COUNT, ADDRESS and CHAIN from its first three words, the overlay laid over, all three dirty, the other words standing; then,
with nothing holding the channel back, COUNT above 0 gives READY with the segment's flags, and COUNT 0 an empty segment, which
raises the counter and goes on to LINKING, to ENDING(TERMINAL) at CHAIN 0, or at the sixteenth to FAULTED(CHAIN_EMPTY_RUN)
(R114), and a segment that touches the window to FAULTED(WINDOW_TARGET) (R110). Every fourth OKAY loads the segment so; a
stall holds the transition with what the load found (R82; log 13), and a fault pending before is taken in its place (R78).
ERROR loads nothing: the other link reads are orphaned, the lock ends, and the channel is FAULTED with MEMORY_CHAIN
and the address of the failed segment word (R115), or with the fault that pended before; a stalled channel keeps the fault
pending (R167), and settle then finds an untaken command (R65). -/
def Obligations.LinkResponseLoadsTheSegment : Prop :=
  ∀ (n : ChanId) (i : Nat) (rest : List InFlight) (a : Addr) (ws : List Word) (o : LinkOverlay) (v : ValidLine) (s : State),
    s.Awaits (.link n i) rest → (s.chan n).walker.phase = .granted a ws o → (s.chan n).line = .valid v →
    let c := s.chan n
    let s' : State := { s with mport := { s.mport with inflight := rest } }
    (∀ d, ws.length ≠ 3 → exec (.linkReadResponse (.okay d)) s = .next
      (s'.setChan n { c with walker := { c.walker with phase := .granted a (ws ++ [d]) o } })) ∧
    (∀ w₀ w₁ w₂ d, ws = [w₀, w₁, w₂] → s.Unhindered n → c.NoHeld → commandOf v.words.control = 0#3 →
      c.ctl.state = .linking →
      let count := o.count.over (setField 0 24 (field 0 24 w₀) v.words.count)
      let address := o.address.over (setField 0 26 (field 0 26 w₁) v.words.address)
      let chain := o.chain.over (setField 0 26 (field 0 26 w₂) v.words.chain)
      ∃ t v', exec (.linkReadResponse (.okay d)) s = .next t ∧ (t.chan n).line = .valid v' ∧ t.mport = s'.mport ∧
        s.OnlyChannel n t ∧
        v'.words = { v.words with count := count, address := address, chain := chain, status := v'.words.status } ∧
        v'.dirty = { v.dirty with count := true, address := true, chain := true, status := true } ∧
        (countOf count ≠ 0#24 → (t.chan n).ctl.state = .ready ∧ (t.chan n).walker =
          { phase := .none, emptyRun := 0, flags := { evEnd := d.getLsbD 0, hold := d.getLsbD 1 } }) ∧
        (countOf count = 0#24 → 15 ≤ c.walker.emptyRun → (t.chan n).ctl.state = .faulted ∧
          (t.chan n).ctl.lastFault = some .chainEmptyRun ∧ (t.chan n).walker.emptyRun = 16 ∧
          s.EventCreated t n (s.faultEvent n .chainEmptyRun a)) ∧
        (countOf count = 0#24 → c.walker.emptyRun < 15 → addrOf chain = 0#26 → (t.chan n).ctl.state = .ending ∧
          (t.chan n).ctl.ending = some .terminal ∧ s.WritebackTriggered t n ∧ t.WritebackServes n .finalEvent ∧
          (t.chan n).walker =
            { phase := .none, emptyRun := c.walker.emptyRun + 1, flags := { evEnd := false, hold := false } }) ∧
        (countOf count = 0#24 → c.walker.emptyRun < 15 → addrOf chain ≠ 0#26 →
          (segmentAddrs (addrOf chain)).any (fun x => s.inWindow x) = false → (t.chan n).ctl.state = .linking ∧
          (t.chan n).walker = { phase := .claimed (addrOf chain), emptyRun := c.walker.emptyRun + 1,
                                flags := { evEnd := false, hold := false } }) ∧
        (countOf count = 0#24 → c.walker.emptyRun < 15 → addrOf chain ≠ 0#26 →
          (segmentAddrs (addrOf chain)).any (fun x => s.inWindow x) = true → (∀ req g, c.port ≠ .granted req g) →
          (t.chan n).ctl.state = .faulted ∧ (t.chan n).ctl.lastFault = some .windowTarget ∧
          s.EventCreated t n (s.faultEvent n .windowTarget (addrOf chain)))) ∧
    (∀ w₀ w₁ w₂ d, ws = [w₀, w₁, w₂] →
      let count := o.count.over (setField 0 24 (field 0 24 w₀) v.words.count)
      let address := o.address.over (setField 0 26 (field 0 26 w₁) v.words.address)
      let chain := o.chain.over (setField 0 26 (field 0 26 w₂) v.words.chain)
      let e : LinkEnd :=
        { countZero := countOf count == 0#24, chainZero := addrOf chain == 0#26
          flags := { evEnd := d.getLsbD 0, hold := d.getLsbD 1 }, segment := a }
      let loaded := s'.setChan n
        { c with
          line := .valid
            { v with
              words := { v.words with count := count, address := address, chain := chain }
              dirty := { v.dirty with count := true, address := true, chain := true } }
          walker := { c.walker with phase := .none } }
      let t := loaded.linkTransition n e
      (c.ctl.stalled ≠ none → exec (.linkReadResponse (.okay d)) s = .next
        (loaded.modCtl n fun k => { k with heldCompletion := some (.link e) })) ∧
      (c.ctl.stalled = none → exec (.linkReadResponse (.okay d)) s = .next (t.settle n) ∧
        ∀ f, c.ctl.pendingFault = some f → (t.chan n).ctl.state = .faulted ∧ (t.chan n).ctl.lastFault = some f.code ∧
          s.EventCreated t n (s.faultEvent n f.code f.address))) ∧
    (let fault : PendingFault := c.ctl.pendingFault.getD
       { code := .memoryChain, address := a + BitVec.ofNat 26 i, noWriteback := false }
     let lost : State := State.setChan
       { s with mport :=
         { inflight := rest.map fun e => if e.owner.isLink n then { e with orphan := true } else e
           lock := if s.heldBy (.upkeep (.link n)) then none else s.mport.lock } } n
       { c with walker := { c.walker with phase := .none } }
     let out := lost.enterFaulted n fault
     (c.ctl.stalled ≠ none → exec (.linkReadResponse .error) s = .next
       (lost.modCtl n fun k => { k with pendingFault := some fault })) ∧
     (c.ctl.stalled = none → exec (.linkReadResponse .error) s = .next (out.settle n) ∧
       (out.chan n).ctl.state = .faulted ∧ (out.chan n).ctl.lastFault = some fault.code ∧
       s.EventCreated out n (s.faultEvent n fault.code fault.address))) ∧
    (s.Unhindered n → commandOf v.words.control = 0#3 → c.ctl.state ≠ .faulted →
      ∃ t v', exec (.linkReadResponse .error) s = .next t ∧ (t.chan n).line = .valid v' ∧
        v'.words = { v.words with status := v'.words.status } ∧ (t.chan n).walker = { c.walker with phase := .none } ∧
        (t.chan n).ctl.state = .faulted ∧ (t.chan n).ctl.lastFault = some .memoryChain ∧
        s.EventCreated t n (s.faultEvent n .memoryChain (a + BitVec.ofNat 26 i)) ∧
        t.mport = { inflight := rest.map fun e => if e.owner.isLink n then { e with orphan := true } else e,
                    lock := if s.heldBy (.upkeep (.link n)) then none else s.mport.lock })

/-- The response of a cell load read (R124). OKAY before the third keeps the word. At the third the fields, with the overlay
laid over, are checked: STEP 0 gives REJECTED(ZERO_STEP), LOW above HIGH REJECTED(BAD_BOUNDS), else the entry is LIVE with
them; status due is set. ERROR ends the load and the lock: REJECTED with ZERO_STEP where SETUP returned with STEP 0, else
with TABLE_READ_ERROR; the other load reads are orphaned. Each entry to REJECTED makes a CELL_REJECTED occurrence with the
reason's code (R121, R130), by the operation cellOccurs. Nothing but the cell, the event it creates and the claims
changes. -/
def Obligations.CellLoadResponseChecksTheFields : Prop :=
  ∀ (k : CellId) (i : Nat) (rest : List InFlight) (ws : List Word) (o : CellOverlay) (s : State),
    s.Awaits (.cellLoad k i) rest → (s.cell k).cstate = .loading (.granted ws o) →
    let s' : State := { s with mport := { s.mport with inflight := rest } }
    let rejected := fun (r : RejectReason) (code : Word) (t : State) =>
      let u := (s.setCell k { s.cell k with cstate := .rejected r, statusDue := true }).cellOccurs k .rejected code
      t.cell k = u.cell k ∧ t.events = u.events
    (∀ d, ws.length ≠ 2 → exec (.cellLoadResponse (.okay d)) s = .next
      (s'.setCell k { s.cell k with cstate := .loading (.granted (ws ++ [d]) o) })) ∧
    (∀ w₀ w₁ d, ws = [w₀, w₁] →
      let f := cellFieldsOf (o.setup.over w₀) (o.low.over w₁) (o.high.over d)
      ∃ t, exec (.cellLoadResponse (.okay d)) s = .next t ∧ s.OnlyCell k t ∧ t.mgmt = s.mgmt ∧
        (f.step = 0#8 → (t.cell k).cstate = .rejected .zeroStep ∧ rejected .zeroStep 3#32 t) ∧
        (f.step ≠ 0#8 → f.high.toNat < f.low.toNat →
          (t.cell k).cstate = .rejected .badBounds ∧ rejected .badBounds 4#32 t) ∧
        (f.step ≠ 0#8 → f.low.toNat ≤ f.high.toNat → (t.cell k).cstate = .live f ∧ t.mport = s'.mport ∧
          t.events = s.events) ∧
        (t.cell k).statusDue = true ∧ (t.cell k).copy = (s.cell k).copy ∧ (t.cell k).atLimit = (s.cell k).atLimit) ∧
    (ws.length < 3 →
      ∃ t, exec (.cellLoadResponse .error) s = .next t ∧ s.OnlyCell k t ∧ t.mgmt = s.mgmt ∧
        (∀ w, ws.head? = some w → (cellFieldsOf (o.setup.over w) 0#32 0#32).step = 0#8 →
          (t.cell k).cstate = .rejected .zeroStep ∧ rejected .zeroStep 3#32 t) ∧
        (¬ (∃ w, ws.head? = some w ∧ (cellFieldsOf (o.setup.over w) 0#32 0#32).step = 0#8) →
          (t.cell k).cstate = .rejected .tableReadError ∧ rejected .tableReadError 5#32 t) ∧
        (t.cell k).statusDue = true ∧
        t.mport = { inflight := rest.map fun e => if e.owner.isCellLoad k then { e with orphan := true } else e,
                    lock := if s.heldBy (.upkeep (.cellLoad k)) then none else s.mport.lock })

/-- The responses of a cell's writes. A status write's OKAY changes nothing and its ERROR latches STATUS_WRITE_LOST (R132,
R169). A write-back's OKAY changes nothing and its ERROR is a CELL_FAULT occurrence of the cell, with the entry's address as
its detail (R129, R130; which address: log 17), the entry standing. -/
def Obligations.CellWriteResponses : Prop :=
  ∀ (k : CellId) (rest : List InFlight) (s : State),
    let s' : State := { s with mport := { s.mport with inflight := rest } }
    (s.Awaits (.cellStatus k) rest →
      (∀ d, exec (.cellStatusWriteResponse (.okay d)) s = .next s') ∧
      exec (.cellStatusWriteResponse .error) s = .next
        { s' with mgmt := { s.mgmt with faults := { s.mgmt.faults with statusWriteLost := true } } }) ∧
    (s.Awaits (.cellWriteBack k) rest →
      (∀ d, exec (.cellWriteBackResponse (.okay d)) s = .next s') ∧
      ∃ t, exec (.cellWriteBackResponse .error) s = .next t ∧
        t = s'.cellOccurs k .fault ((s.cell k).address.setWidth 32) ∧
        (t.cell k).cstate = (s.cell k).cstate ∧ (t.cell k).atLimit = (s.cell k).atLimit ∧ s.OnlyCell k t ∧
        t.mport = s'.mport ∧ t.mgmt = s.mgmt)

/-- The response of a post write (R153, R154). Before the last, OKAY only counts. At the last OKAY, with no failure in the
group, the post ends: phase NONE, no event in post, and the freed place goes to the stalled slot of the lowest channel, whose
stall ends, else to the held rejection, else to the held occurrence of the lowest cell with no queued mark, with the MERGE it
has reached (R130, R149); the next post is claimed where R151 allows. The first ERROR takes the event-path failure at once:
EVENT_PATH FAILED and its latch, PRODUCER and NEXT_SEQUENCE back, the event at the head of the queue again with its count
unchanged, the cell's mark set again, the restore owed again, a CONSUMER at the advanced PRODUCER set back. After it every
response of the group, OKAY or ERROR, only counts, and the last leaves the phase NONE. The end of a stall (R83): the event
enters the queue and the slot is empty; after a final event the channel enters OFF, else a held completion's transition is
made; then a fault still pending is taken where no operation is in flight (log 15), and settle follows. Each response may end
a step of the disable sequence (R181), by the operation that WindowControlMovesTheWindow states; the failure ends D2. -/
def Obligations.PostResponseEndsOrFailsThePost : Prop :=
  (∀ (i left : Nat) (rest : List InFlight) (s : State),
    s.Awaits (.post i) rest → s.events.postPhase = .granted left →
    let s' : State := { s with mport := { s.mport with inflight := rest } }
    let counted : State := { s' with events := { s.events with postPhase := .granted (left - 1) } }
    let ended : State := { s' with events := { s.events with postPhase := .none, inPost := none } }
    let room := s.events.occupancy < s.ringSlots ∧ s.events.path = .ok ∧
      (s.mgmt.windowState = .enabled ∨ s.mgmt.windowState = .disabling)
    let claims : State → State := fun u =>
      { u with
        events := { u.events with postPhase := .claimed }
        arb := { u.arb with upkeep := u.arb.upkeep ++ [{ kind := .post, age := 0 }] } }
    let noneStalled := ∀ n, (s.chan n).ctl.stalled = none
    let answers := fun (r : MemResponse) (u : State) =>
      (room → u.events.queue ≠ [] → exec (.postWriteResponse r) s = .next (claims u).disableProgress) ∧
      (¬ (room ∧ u.events.queue ≠ []) → exec (.postWriteResponse r) s = .next u.disableProgress)
    (∀ p, s.events.inPost = some p →
      (∀ d, 1 < left → exec (.postWriteResponse (.okay d)) s = .next counted.disableProgress) ∧
      (∀ d, left = 1 →
        (∀ n ev, (∀ m, m < n → (s.chan m).ctl.stalled = none) → (s.chan n).ctl.stalled = some ev →
          exec (.postWriteResponse (.okay d)) s = .next (ended.endStall n ev).disableProgress) ∧
        (∀ ev, noneStalled → s.events.heldRejection = some ev →
          answers (.okay d)
            { ended with events := { ended.events with queue := s.events.queue ++ [ev], heldRejection := none } }) ∧
        (∀ k o, noneStalled → s.events.heldRejection = none →
          (∀ j, j < k → (s.cell j).held = none ∨ (s.cell j).queuedMark = true) →
          (s.cell k).held = some o → (s.cell k).queuedMark = false →
          let merge := if o.kind = .limit ∨ o.kind = .range then o.merge.setWidth 32 else 0#32
          answers (.okay d) (State.setCell
            { ended with events := { ended.events with queue := s.events.queue ++
              [{ kind := o.kind.event, source := BitVec.ofNat 4 k.val, word1 := (s.cell k).address.setWidth 32,
                 detailA := o.detail, detailB := merge }] } }
            k { s.cell k with held := none, queuedMark := true })) ∧
        (noneStalled → s.events.heldRejection = none →
          (∀ k, (s.cell k).held = none ∨ (s.cell k).queuedMark = true) → answers (.okay d) ended)) ∧
      (∃ t : State, exec (.postWriteResponse .error) s = .next t.disableProgress ∧
        (s.mgmt.sequence = some .d2 →
          t.disableProgress.mgmt.sequence = some .d3 ∧ t.disableProgress.events.intake = .closed) ∧
        t.events.path = .failed ∧ t.mgmt = { s.mgmt with faults := { s.mgmt.faults with eventPathFailed := true } } ∧
        t.events.producer = p.prevProducer ∧ t.events.nextSequence = p.prevSequence ∧
        t.events.queue = p.event :: s.events.queue ∧ t.events.inPost = none ∧
        t.events.consumer = (if s.events.consumer = p.prevProducer + 1#16 then p.prevProducer else s.events.consumer) ∧
        t.events.restoreOwed = (s.events.restoreOwed || p.restored || s.events.consumer == p.prevProducer + 1#16) ∧
        t.events.attn = t.events.attnLevel s.ringSlots ∧
        (t.events.occupancy = 0 → t.events.holdoff = none) ∧
        (t.events.occupancy ≠ 0 → t.events.holdoff = s.events.holdoff) ∧
        (1 < left → t.events.postPhase = .granted (left - 1)) ∧ (left = 1 → t.events.postPhase = .none) ∧
        (∀ k, p.event.cell? = some k → t.cell k = { s.cell k with queuedMark := true }) ∧
        (∀ j, p.event.cell? ≠ some j → t.cell j = s.cell j) ∧ t.channels = s.channels ∧ t.pass = s.pass ∧
        t.mport = s'.mport ∧ t.arb = s.arb ∧ t.out = s.out)) ∧
    (s.events.inPost = none →
      (∀ r, 1 < left → exec (.postWriteResponse r) s = .next counted.disableProgress) ∧
      (∀ r, left = 1 → answers r ended)) ∧
    (∀ t : State, t.mgmt.sequence ≠ some .d1 → t.mgmt.sequence ≠ some .d2 → t.disableProgress = t)) ∧
  (∀ (n : ChanId) (ev : Event) (s : State), s.events.count < 8 →
    let c := s.chan n
    let pushed := (s.modCtl n fun k => { k with stalled := none }).pushEvent ev
    let final := c.ctl.state = .ending ∧ (ev.kind = .terminal ∨ ev.kind = .aborted)
    let t := s.endStall n ev
    (∃ more, t.events.queue = s.events.queue ++ ev :: more) ∧
    (final → t = ((pushed.enterOffFromEnding n).takePending n).settle n) ∧
    (∀ h, ¬ final → c.ctl.heldCompletion = some h →
      t = (((pushed.modCtl n fun k => { k with heldCompletion := none }).heldTransition n h).takePending n).settle n) ∧
    (¬ final → c.ctl.heldCompletion = none →
      (c.ctl.pendingFault = none → t = pushed.settle n) ∧
      (∀ f, c.ctl.pendingFault = some f → c.opInFlight = true → t = pushed.settle n) ∧
      (∀ f, c.ctl.pendingFault = some f → c.opInFlight = false → t = (pushed.enterFaulted n f).settle n)) ∧
    s.OnlyChannel n t ∧ t.mport = s.mport)

/-- EVENT_PATH_FAILED is cleared by EVENT_PATH_RESET, at the moment that R171's table gives: with the path FAILED and no
recovery read, the read is raised, and its OKAY, with the value accepted or rejected, makes the path OK and clears the latch,
while its ERROR leaves both; with a recovery read CLAIMED or GRANTED, and then with a path that is OK, as the second and third
rows say. A rejected value sets RING_MISUSE in the same moment and leaves the restore owed, which the next post carries as its
sixth write. A post that fails again sets the latch anew, and FAULT rises. (The frame is accepted: no SOFT_RESET waits. The
response of an ACK carries free data bytes: log 8.) -/
def Obligations.EventPathResetAndRecovery : Prop :=
  ∀ (rest : List InFlight) (s : State),
    let s' : State := { s with mport := { s.mport with inflight := rest } }
    let accepted := fun d : Word => (s.events.producer - field 0 16 d).toNat ≤ s.ringSlots
    (s.mgmt.softWaiting = false →
      ∃ t, exec .eventPathReset s = .next t ∧ t.mgmt.response.status = .ack ∧
        (s.events.path = .failed → s.events.recovery = .none →
          t.events = { s.events with recovery := .claimed } ∧
          t.arb.upkeep = s.arb.upkeep ++ [{ kind := .recovery, age := 0 }] ∧ t.mgmt.faults = s.mgmt.faults) ∧
        (s.events.path = .failed → s.events.recovery ≠ .none →
          t.events = s.events ∧ t.arb = s.arb ∧ t.mgmt.faults = s.mgmt.faults) ∧
        (s.events.path = .ok → t.events = s.events ∧ t.arb = s.arb ∧
          t.mgmt.faults = { s.mgmt.faults with eventPathFailed := false }) ∧
        t.channels = s.channels ∧ t.cells = s.cells ∧ t.pass = s.pass ∧ t.mport = s.mport) ∧
    (s.Awaits .recovery rest → s.events.recovery = .granted →
      (∀ d, ∃ t, exec (.recoveryReadResponse (.okay d)) s = .next t ∧
        t.events.path = .ok ∧ t.events.recovery = .none ∧ t.events.overtaken = false ∧
        t.mgmt.faults.eventPathFailed = false ∧ t.events.producer = s.events.producer ∧
        (s.events.overtaken = true → t.events.consumer = s.events.consumer ∧
          t.events.restoreOwed = s.events.restoreOwed ∧ t.events.holdoff = s.events.holdoff ∧
          t.events.queue = s.events.queue ∧ t.mgmt.faults = { s.mgmt.faults with eventPathFailed := false }) ∧
        (s.events.overtaken = false → accepted d → t.events.consumer = field 0 16 d ∧
          t.events.restoreOwed = false ∧ t.mgmt.faults = { s.mgmt.faults with eventPathFailed := false } ∧
          t.events.holdoff = (if s.events.producer = field 0 16 d then none else some 0) ∧
          t.events.attn = t.events.attnLevel s.ringSlots) ∧
        (s.events.overtaken = false → ¬ accepted d → t.events.consumer = s.events.consumer ∧
          t.events.restoreOwed = true ∧
          t.mgmt.faults = { s.mgmt.faults with eventPathFailed := false, ringMisuse := true }) ∧
        t.channels = s.channels ∧ t.cells = s.cells ∧ t.mport = s'.mport ∧ t.out = s.out) ∧
      exec (.recoveryReadResponse .error) s = .next
        { s' with events := { s.events with recovery := .none, overtaken := false } }) ∧
    (∀ ev, s.postWrites ev true =
      s.postWrites ev false ++ [.ofWrite (.post 5) (s.wordAddr 145) (s.events.consumer.setWidth 32)]) ∧
    (∀ p, s.events.inPost = some p →
      s.failPost.mgmt.faults.eventPathFailed = true ∧ s.failPost.faultLine = true)

/-- The responses of the enable sequence (R160, R168, R179, R180, R133). E1's word becomes CONSUMER and PRODUCER, and E2 is
claimed; the last write of E2 and of E3 claims the next step; the fourth word of E4 registers or rejects the cell and claims
the next, a rejection making a CELL_REJECTED occurrence with the reason's code (R121, R133), by cellOccurs; the last write of
E5 makes the window ENABLED. A read's ERROR ends the sequence: DISABLED, ENABLE 0, ENABLE_READ_ERROR, the cells and the Event
Unit at their reset values, the accesses of the sequence and the cells orphaned. A write's ERROR latches STATUS_WRITE_LOST, and
an access before the last of its group goes on. (Check 2 at E4 is made against every other entry in LOADING or LIVE, the
model's reading of R133: log 20.) -/
def Obligations.EnableStepResponses : Prop :=
  ∀ (e : InFlight) (rest : List InFlight) (i : Nat) (last : Bool) (s : State),
    s.mport.inflight = e :: rest → e.orphan = false → e.owner = .enable i last →
    let s' : State := { s with mport := { s.mport with inflight := rest } }
    let claims := fun (t : State) (q : SeqStep) => t.mgmt = { s.mgmt with sequence := some q } ∧
      { kind := .enable, age := 0 } ∈ t.arb.upkeep ∧ t.channels = s.channels ∧ t.pass = s.pass ∧ t.mport = s'.mport ∧
      t.out = s.out
    (∀ d, e.kind = .read → s.mgmt.sequence = some .e1 →
      ∃ t, exec (.enableStepResponse (.okay d)) s = .next t ∧ claims t .e2 ∧ t.cells = s.cells ∧
        t.events = { s.events with
          queue := [], inPost := none, producer := field 0 16 d, consumer := field 0 16 d, nextSequence := 0#16,
          path := .ok, restoreOwed := false, heldRejection := none, intake := .opened, holdoff := none,
          attn := t.events.attnLevel s.ringSlots }) ∧
    (∀ d k ws, e.kind = .read → s.mgmt.sequence = some (.e4 k ws) → last = false →
      exec (.enableStepResponse (.okay d)) s = .next
        { s' with mgmt := { s.mgmt with sequence := some (.e4 k (ws ++ [d])) } }) ∧
    (∀ d k w₀ w₁ w₂, e.kind = .read → s.mgmt.sequence = some (.e4 k [w₀, w₁, w₂]) → last = true →
      s.mgmt.windowState ≠ .disabled →
      let f := cellFieldsOf w₁ w₂ d
      let a : Addr := field 0 26 w₀
      let duplicate := ∃ j, j ≠ k ∧ (s.cell j).isRegistered = true ∧ (s.cell j).address = a
      let rejected := fun (r : RejectReason) (code : Word) (t : State) =>
        let u := (s.setCell k { s.cell k with copy := w₀, cstate := .rejected r, atLimit := false }).cellOccurs k .rejected code
        (t.cell k).cstate = .rejected r ∧ t.cell k = u.cell k ∧ t.events = u.events
      ∃ t, exec (.enableStepResponse (.okay d)) s = .next t ∧
        claims t (if k = 15 then .e5 else .e4 (k + 1) []) ∧ (t.cell k).copy = w₀ ∧ (t.cell k).atLimit = false ∧
        (∀ j, j ≠ k → t.cell j = s.cell j) ∧
        (w₀.getLsbD 31 = false → (t.cell k).cstate = .off ∧ t.events = s.events) ∧
        (w₀.getLsbD 31 = true → s.inWindow a = true → rejected .inWindow 1#32 t) ∧
        (w₀.getLsbD 31 = true → s.inWindow a = false → duplicate → rejected .duplicate 2#32 t) ∧
        (w₀.getLsbD 31 = true → s.inWindow a = false → ¬ duplicate → f.step = 0#8 →
          rejected .zeroStep 3#32 t) ∧
        (w₀.getLsbD 31 = true → s.inWindow a = false → ¬ duplicate → f.step ≠ 0#8 → f.high.toNat < f.low.toNat →
          rejected .badBounds 4#32 t) ∧
        (w₀.getLsbD 31 = true → s.inWindow a = false → ¬ duplicate → f.step ≠ 0#8 → f.low.toNat ≤ f.high.toNat →
          (t.cell k).cstate = .live f ∧ t.events = s.events)) ∧
    (e.kind = .read → ∃ t, exec (.enableStepResponse .error) s = .next t ∧
      t.mgmt = { s.mgmt with windowState := .disabled, enable := false, sequence := none,
                             faults := { s.mgmt.faults with enableReadError := true } } ∧
      t.events = State.reset.events ∧ (∀ k, t.cell k = State.reset.cell k) ∧ t.channels = s.channels ∧
      t.pass = s.pass ∧ t.out = s.out ∧
      t.mport.lock = (if s.heldBy (.upkeep .enable) then none else s.mport.lock) ∧
      t.mport.inflight = rest.map fun x => if x.owner.ofEnableOrCell then { x with orphan := true } else x) ∧
    (∀ r, e.kind = .write →
      let lost := r = .error ∨ s.mgmt.faults.statusWriteLost = true
      ∃ t, exec (.enableStepResponse r) s = .next t ∧ t.mgmt.faults = { s.mgmt.faults with statusWriteLost := decide lost } ∧
        t.channels = s.channels ∧ t.cells = s.cells ∧ t.pass = s.pass ∧ t.mport = s'.mport ∧ t.out = s.out ∧
        (last = false → t.mgmt.sequence = s.mgmt.sequence ∧ t.arb = s.arb ∧ t.events = s.events) ∧
        (last = true → s.mgmt.sequence = some .e2 → t.mgmt.sequence = some .e3 ∧
          t.arb.upkeep = s.arb.upkeep ++ [{ kind := .enable, age := 0 }] ∧ t.events = s.events) ∧
        (last = true → s.mgmt.sequence = some .e3 → t.mgmt.sequence = some (.e4 0 []) ∧
          t.arb.upkeep = s.arb.upkeep ++ [{ kind := .enable, age := 0 }] ∧ t.events = s.events) ∧
        (last = true → s.mgmt.sequence = some .e5 → t.mgmt.sequence = none ∧ t.mgmt.windowState = .enabled ∧
          (s.events.queue ≠ [] → s.events.postPhase = .none → s.events.occupancy < s.ringSlots → s.events.path = .ok →
            t.events.postPhase = .claimed)))

/-! ## The management port -/

/-- Frames (R175, R176). Every frame shifts the held response out: the status byte, the data bytes most significant first, a
byte of 0. A READ answers ACK with the register, or NAK_INDEX with 0 where the index names none that can be read; an operation
that is neither is NAK_INDEX. A WRITE is judged for its index, then its value, then the state, and a NAK changes nothing but
the held response; a WRITE of WINDOW_BASE that is taken sets it. A frame of other than six bytes changes nothing but the
bytes shifted out, and the response stays held. (Bytes past the sixth are free values: log 8.) -/
def Obligations.FramesAreJudgedAndAnswered : Prop :=
  ∀ (op index : Byte) (data : Word) (bytes : List Byte) (s : State),
    let held := s.mgmt.response
    let shifted : List Byte :=
      [held.status.code, field 24 8 held.data, field 16 8 held.data, field 8 8 held.data, field 0 8 held.data, 0x00#8]
    let answered := fun (st : FrameStatus) (d : Word) =>
      { s with out := s.out ++ [.shifted shifted]
               mgmt := { s.mgmt with response := { status := st, data := d }, frame := [] } }
    let run := exec (.registerWrite op index data) s
    let states := (List.range 8).foldl (fun w n => w ||| ((s.chan (Fin.ofNat 8 n)).ctl.state.code.setWidth 32 <<< (4 * n))) 0#32
    let m := s.mgmt
    (op ≠ 0x01#8 → op ≠ 0x02#8 → run = .next (answered .nakIndex 0#32)) ∧
    (op = 0x01#8 →
      (index = 0x00#8 → run = .next (answered .ack 0x00580001#32)) ∧
      (index = 0x01#8 → run = .next (answered .ack (m.windowBase.setWidth 32))) ∧
      (index = 0x02#8 → run = .next (answered .ack
        (windowControlWord m.enable m.ringSize m.breakRunLimit m.quietInterval))) ∧
      (index = 0x03#8 → run = .next (answered .ack (m.windowState.code.setWidth 32))) ∧
      (index = 0x04#8 → run = .next (answered .ack m.faults.word)) ∧
      (index = 0x05#8 → run = .next (answered .ack states)) ∧
      (6 ≤ index.toNat → run = .next (answered .nakIndex 0#32))) ∧
    (op = 0x02#8 →
      (index.toNat ∉ [1, 2, 4, 6] → run = .next (answered .nakIndex 0#32)) ∧
      (index = 0x01#8 →
        (¬ (data.toNat ≤ 0x3FFF800 ∧ data.toNat % 2048 = 0) → run = .next (answered .nakValue 0#32)) ∧
        (data.toNat ≤ 0x3FFF800 → data.toNat % 2048 = 0 →
          (m.softWaiting = true ∨ m.windowState ≠ .disabled → run = .next (answered .nakState 0#32)) ∧
          (m.softWaiting = false → m.windowState = .disabled → ∃ d, run = .next
            { answered .ack d with
              mgmt := { m with windowBase := BitVec.ofNat 26 data.toNat, response := { status := .ack, data := d },
                               frame := [] }
              freeCounter := s.freeCounter + 1 }))) ∧
      (index = 0x02#8 → 5 ≤ ((data >>> 1) &&& 7#32).toNat ∨ (data >>> 4) &&& 15#32 = 0#32 →
        run = .next (answered .nakValue 0#32)) ∧
      (index = 0x06#8 → ¬ (1 ≤ (data &&& 0xFF#32).toNat ∧ (data &&& 0xFF#32).toNat ≤ 4) →
        run = .next (answered .nakValue 0#32))) ∧
    (bytes.length < 6 → exec (.discardedFrame bytes) s = .next
      { s with out := s.out ++ [.shifted (shifted.take bytes.length)] }) ∧
    (6 < bytes.length → ∃ free, free.length = bytes.length - 6 ∧ exec (.discardedFrame bytes) s = .next
      { s with out := s.out ++ [.shifted (shifted ++ free)], freeCounter := s.freeCounter + (bytes.length - 6) })

/-- FAULT_STATUS (R170): an accepted WRITE clears RING_MISUSE, ENABLE_READ_ERROR and STATUS_WRITE_LOST where the data carries
a 1 and leaves them where it carries a 0, and leaves EVENT_PATH_FAILED whatever it carries; it changes no other register and
no block. A READ returns the latches as they stand. A latch set after the frame reads as set, and one set before it is
cleared by it. While a SOFT_RESET waits the frame is NAK_STATE. -/
def Obligations.FaultStatusIsClearedByOnes : Prop :=
  ∀ (data : Word) (s : State),
    let f := s.mgmt.faults
    let after : FaultStatus :=
      { eventPathFailed := f.eventPathFailed, ringMisuse := f.ringMisuse && !data.getLsbD 1,
        enableReadError := f.enableReadError && !data.getLsbD 2,
        statusWriteLost := f.statusWriteLost && !data.getLsbD 3 }
    (s.mgmt.softWaiting = false → ∃ t, exec (.faultStatusClear data) s = .next t ∧ t.mgmt.response.status = .ack ∧
      t.mgmt = { s.mgmt with faults := after, response := t.mgmt.response, frame := [] } ∧
      t.pass = s.pass ∧ t.mport = s.mport ∧ t.arb = s.arb ∧ t.channels = s.channels ∧ t.cells = s.cells ∧
      t.events = s.events ∧
      t.latchRingMisuse.mgmt.faults = { after with ringMisuse := true } ∧
      t.latchEnableReadError.mgmt.faults = { after with enableReadError := true } ∧
      t.latchStatusWriteLost.mgmt.faults = { after with statusWriteLost := true }) ∧
    (s.mgmt.softWaiting = true → ∃ t, exec (.faultStatusClear data) s = .next t ∧
      t.mgmt = { s.mgmt with response := { status := .nakState, data := 0#32 }, frame := [] } ∧
      t.events = s.events ∧ t.channels = s.channels ∧ t.cells = s.cells ∧ t.arb = s.arb) ∧
    (∃ t, exec (.registerWrite 0x01#8 0x04#8 data) s = .next t ∧
      t.mgmt.response = { status := .ack, data :=
        (if f.eventPathFailed then 1#32 else 0#32) ||| (if f.ringMisuse then 2#32 else 0#32) |||
        (if f.enableReadError then 4#32 else 0#32) ||| (if f.statusWriteLost then 8#32 else 0#32) } ∧
      t.mgmt.faults = f)

/-- The FAULT output (R172): high just while some latch of FAULT_STATUS is set; low after power-on reset and after SOFT_RESET
is taken; it depends on nothing else; an event-path failure raises it while ATTN stays as R159 computes it; and it goes low
when the last set latch is cleared, over the management port (R170) or by EVENT_PATH_RESET (R171). -/
def Obligations.FaultOutputFollowsTheLatches : Prop :=
  ∀ s : State,
    (s.faultLine = true ↔ s.mgmt.faults.eventPathFailed = true ∨ s.mgmt.faults.ringMisuse = true ∨
      s.mgmt.faults.enableReadError = true ∨ s.mgmt.faults.statusWriteLost = true) ∧
    (∀ t : State, t.mgmt.faults = s.mgmt.faults → t.faultLine = s.faultLine) ∧
    State.reset.faultLine = false ∧ s.powerOn.faultLine = false ∧ s.takeSoftReset.faultLine = false ∧
    (∀ p, s.events.inPost = some p → s.failPost.faultLine = true ∧
      s.failPost.events.attn = s.failPost.events.attnLevel s.ringSlots) ∧
    (s.mgmt.softWaiting = false → s.mgmt.faults.eventPathFailed = false →
      ∃ t, exec (.faultStatusClear 0xE#32) s = .next t ∧ t.faultLine = false) ∧
    (s.mgmt.softWaiting = false → s.events.path = .ok → s.mgmt.faults.ringMisuse = false →
      s.mgmt.faults.enableReadError = false → s.mgmt.faults.statusWriteLost = false →
      ∃ t, exec .eventPathReset s = .next t ∧ t.faultLine = false)

/-- ENABLE_WINDOW and DISABLE_WINDOW, the WINDOW_CONTROL frames (R176 to R179, R181), with good values and no SOFT_RESET
waiting, set the four fields together; while one waits each is NAK_STATE (R183). ENABLE 1 in DISABLED makes the window
ENABLING, opens Intake and claims E1; equal to the held value elsewhere it changes no state, and in DISABLING it is NAK_STATE.
ENABLE 0 in ENABLED with every channel OFF or FAULTED starts the disable sequence; with a channel in another state, and in
ENABLING, it is NAK_STATE; equal to the held value elsewhere it changes no state. RING_SIZE changes in DISABLED alone: in
another state a frame with another code is NAK_STATE. The disable sequence (R181): D1 ends when no line has a writeback
claimed, granted or requested; D2 begins then and ends when the event path has failed or nothing waits to be posted, and Intake
is CLOSED then (R148); the operation that says so runs after each row that can end a step. -/
def Obligations.WindowControlMovesTheWindow : Prop :=
  (∀ s : State,
    let quiet := ∀ n v, (s.chan n).line = .valid v → v.wbPhase = .none ∧ v.requested = none
    let posted := s.events.path = .failed ∨
      (s.events.queue = [] ∧ s.events.inPost = none ∧ s.events.postPhase = .none ∧
       (∀ n, (s.chan n).ctl.stalled = none) ∧ s.events.heldRejection = none ∧ ∀ k, (s.cell k).held = none)
    let ended : State :=
      { s with events := { s.events with intake := .closed }, mgmt := { s.mgmt with sequence := some .d3 } }
    (s.mgmt.sequence = some .d1 →
      (¬ quiet → s.disableProgress = s) ∧
      (quiet → ¬ posted → s.disableProgress = { s with mgmt := { s.mgmt with sequence := some .d2 } }) ∧
      (quiet → posted → s.disableProgress = ended)) ∧
    (s.mgmt.sequence = some .d2 → (posted → s.disableProgress = ended) ∧ (¬ posted → s.disableProgress = s)) ∧
    (s.mgmt.sequence ≠ some .d1 → s.mgmt.sequence ≠ some .d2 → s.disableProgress = s)) ∧
  ∀ (data : Word) (s : State),
    let size : BitVec 3 := field 1 3 data
    let run : BitVec 4 := field 4 4 data
    let quiet : BitVec 12 := field 8 12 data
    let m := s.mgmt
    let nak := fun (c : Instr) => ∃ t, exec c s = .next t ∧
      t.mgmt = { m with response := { status := .nakState, data := 0#32 }, frame := [] } ∧
      t.events = s.events ∧ t.arb = s.arb ∧ t.channels = s.channels ∧ t.cells = s.cells
    let taken := fun (t : State) (en : Bool) => t.mgmt.enable = en ∧ t.mgmt.ringSize = size ∧
      t.mgmt.breakRunLimit = run ∧ t.mgmt.quietInterval = quiet ∧ t.mgmt.response.status = .ack ∧
      t.mgmt.windowBase = m.windowBase ∧ t.mgmt.faults = m.faults ∧ t.pass = s.pass ∧ t.mport = s.mport ∧ t.cells = s.cells
    (m.softWaiting = true → size.toNat ≤ 4 → run ≠ 0#4 →
      (data.getLsbD 0 = true → nak (.enableWindow data)) ∧ (data.getLsbD 0 = false → nak (.disableWindow data))) ∧
    (m.softWaiting = false → size.toNat ≤ 4 → run ≠ 0#4 →
    (data.getLsbD 0 = true →
      (m.windowState = .disabled → ∃ t, exec (.enableWindow data) s = .next t ∧ taken t true ∧
        t.mgmt.windowState = .enabling ∧ t.mgmt.sequence = some .e1 ∧ t.events = { s.events with intake := .opened } ∧
        t.arb.upkeep = s.arb.upkeep ++ [{ kind := .enable, age := 0 }] ∧ t.channels = s.channels) ∧
      (m.windowState = .enabling ∨ m.windowState = .enabled → size = m.ringSize →
        ∃ t, exec (.enableWindow data) s = .next t ∧ taken t true ∧ t.mgmt.windowState = m.windowState ∧
          t.mgmt.sequence = m.sequence ∧ t.events = s.events ∧ t.arb = s.arb ∧ t.channels = s.channels) ∧
      (m.windowState = .disabling ∨ (m.windowState ≠ .disabled ∧ size ≠ m.ringSize) → nak (.enableWindow data))) ∧
    (data.getLsbD 0 = false →
      (m.windowState = .enabled → size = m.ringSize →
        (∀ n, (s.chan n).ctl.state = .off ∨ (s.chan n).ctl.state = .faulted) →
        ∃ t, exec (.disableWindow data) s = .next t ∧ taken t false ∧ t.mgmt.windowState = .disabling ∧
          (t.mgmt.sequence = some .d1 ∨ t.mgmt.sequence = some .d2 ∨ t.mgmt.sequence = some .d3) ∧
          (t.mgmt.sequence = some .d3 → t.events.intake = .closed) ∧
          (∀ n v, (s.chan n).line = .valid v → v.wbPhase = .none → v.dirty.any = true →
            ∃ v', (t.chan n).line = .valid v' ∧ v'.wbPhase = .claimed ∧ v'.words = v.words ∧
              { kind := .writeback n, age := 0 } ∈ t.arb.upkeep ∧ t.mgmt.sequence = some .d1) ∧
          (∀ n, (t.chan n).ctl = (s.chan n).ctl)) ∧
      (m.windowState = .enabled → (¬ ∀ n, (s.chan n).ctl.state = .off ∨ (s.chan n).ctl.state = .faulted) →
        nak (.disableWindow data)) ∧
      (m.windowState = .enabling → nak (.disableWindow data)) ∧
      (m.windowState ≠ .disabled → size ≠ m.ringSize → nak (.disableWindow data)) ∧
      (m.windowState = .disabling → size = m.ringSize → ∃ t, exec (.disableWindow data) s = .next t ∧ taken t false ∧
        t.mgmt.windowState = .disabling ∧ t.mgmt.sequence = m.sequence ∧ t.events = s.events ∧ t.arb = s.arb ∧
        t.channels = s.channels) ∧
      (m.windowState = .disabled → ∃ t, exec (.disableWindow data) s = .next t ∧ taken t false ∧
        t.mgmt.windowState = .disabled ∧ t.mgmt.sequence = m.sequence ∧ t.events = s.events ∧ t.arb = s.arb ∧
        t.channels = s.channels)))

/-- DISABLE_END (R86, R109, R134, R147, R182) at a boundary after D2: every claim is withdrawn, the accesses of lines, Chain
Walkers, cells and Event Unit are orphaned, every line is INVALID, every channel OFF with START_COUNT, LAST_FAULT and
LAST_REFUSAL kept, every cell OFF, the Event Unit at its reset values, the window DISABLED; FAULT_STATUS, the Pass Queue and
the registers stand. (The cells' address copies are kept: log 20.) At any other moment the row changes nothing (log 3). -/
def Obligations.DisableEndClearsTheWindow : Prop :=
  ∀ s : State,
    (s.mgmt.sequence = some .d3 → s.mport.lock = none →
      ∃ t, exec .disableEnd s = .next t ∧
        t.mgmt = { s.mgmt with windowState := .disabled, sequence := none } ∧ t.events = State.reset.events ∧
        t.arb = { s.arb with upkeep := [] } ∧
        (∀ n, (t.chan n).line = .invalid ∧ (t.chan n).quiet = none ∧ (t.chan n).port = (s.chan n).port ∧
          (t.chan n).walker = (State.reset.chan n).walker ∧
          (t.chan n).ctl = { (State.reset.chan n).ctl with
            startCount := (s.chan n).ctl.startCount, lastFault := (s.chan n).ctl.lastFault,
            lastRefusal := (s.chan n).ctl.lastRefusal }) ∧
        (∀ k, t.cell k = { State.reset.cell k with copy := (s.cell k).copy }) ∧
        t.mport = { inflight := s.mport.inflight.map fun e => if e.owner.ofWindowBlock then { e with orphan := true } else e,
                    lock := none } ∧
        t.pass = s.pass ∧ t.out = s.out) ∧
    (s.mgmt.sequence ≠ some .d3 ∨ s.mport.lock ≠ none → exec .disableEnd s = .next s)

/-- The ACTION frames (R176, R183), with no SOFT_RESET waiting, answer ACK and leave what they order waiting: FLUSH the waiting
FLUSH, CHANNEL_RESET its channels added to the waiting mask, SOFT_RESET the waiting SOFT_RESET; nothing else changes. While a
SOFT_RESET waits each is NAK_STATE. (That the action waits for its boundary row even while the lock is free is the model's
choice: log 6. The data bytes of an ACK are free: log 8.) -/
def Obligations.ActionFramesOrder : Prop :=
  ∀ (mask : BitVec 8) (s : State),
    let same := fun t : State => t.pass = s.pass ∧ t.mport = s.mport ∧ t.arb = s.arb ∧ t.channels = s.channels ∧
      t.cells = s.cells ∧ t.events = s.events
    (s.mgmt.softWaiting = false → ∃ d : Word,
      let r : FrameResponse := { status := .ack, data := d }
      (∃ t, exec .flush s = .next t ∧ same t ∧
        t.mgmt = { s.mgmt with flushWaiting := true, response := r, frame := [] }) ∧
      (∃ t, exec (.channelReset mask) s = .next t ∧ same t ∧
        t.mgmt = { s.mgmt with resetMask := s.mgmt.resetMask ||| mask, response := r, frame := [] }) ∧
      (∃ t, exec .softReset s = .next t ∧ same t ∧
        t.mgmt = { s.mgmt with softWaiting := true, response := r, frame := [] })) ∧
    (s.mgmt.softWaiting = true → ∀ c ∈ [Instr.flush, .channelReset mask, .softReset, .eventPathReset],
      ∃ t, exec c s = .next t ∧ same t ∧
        t.mgmt = { s.mgmt with response := { status := .nakState, data := 0#32 }, frame := [] })

/-- The actions at a boundary (R84, R106, R118, R145, R183). FLUSH triggers a writeback of every VALID line and waits no more.
CHANNEL_RESET of a waiting channel with no granted break makes the channel OFF with START_COUNT kept, its line INVALID, its
port IDLE with an outstanding request answered CANCELLED, its claims withdrawn, its fill and link reads orphaned. Where the
lock is held, or nothing waits, or the break is not complete, the row changes nothing (the model's choice: log 3); that the
boundary is a row of its own is log 6's. -/
def Obligations.WaitingActionsActAtABoundary : Prop :=
  ∀ (n : ChanId) (s : State),
    (s.mgmt.flushWaiting = true → s.mport.lock = none →
      ∃ t, exec .flushAtBoundary s = .next t ∧ t.mgmt = { s.mgmt with flushWaiting := false } ∧
        (∀ m v, (s.chan m).line = .valid v → v.dirty.any = true → s.WritebackTriggered t m) ∧
        (∀ m v, (s.chan m).line = .valid v → v.wbPhase = .none → v.dirty.any = false → t.chan m = s.chan m) ∧
        (∀ m, (s.chan m).lineValid = false → t.chan m = s.chan m) ∧
        (∀ m, (t.chan m).ctl = (s.chan m).ctl ∧ (t.chan m).port = (s.chan m).port) ∧
        t.cells = s.cells ∧ t.events = s.events ∧ t.mport = s.mport ∧ t.pass = s.pass ∧ t.out = s.out) ∧
    (s.mgmt.flushWaiting = false ∨ s.mport.lock ≠ none → exec .flushAtBoundary s = .next s) ∧
    (s.mgmt.resetMask.getLsbD n.val = true → s.mport.lock = none → (∀ req g, (s.chan n).port ≠ .granted req g) →
      ∃ t, exec (.channelResetTakesEffect n) s = .next t ∧
        t.chan n = { State.reset.chan n with
          ctl := { (State.reset.chan n).ctl with startCount := (s.chan n).ctl.startCount } } ∧
        t.out = s.out ++ (if (s.chan n).port = .idle then [] else [.answer n .cancelled]) ∧
        (∀ i : Fin 8, t.mgmt.resetMask.getLsbD i.val = (s.mgmt.resetMask.getLsbD i.val && i != n)) ∧
        t.mport = { s.mport with
          inflight := s.mport.inflight.map fun e => if e.owner.isFillOrLink n then { e with orphan := true } else e } ∧
        t.arb = { s.arb with
          upkeep := s.arb.upkeep.filter fun c => !(c.kind == .fill n || c.kind == .writeback n || c.kind == .link n) } ∧
        (∀ m, m ≠ n → t.chan m = s.chan m) ∧ t.cells = s.cells ∧ t.pass = s.pass ∧
        t.events = { s.events with intake := t.events.intake }) ∧
    (s.mgmt.resetMask.getLsbD n.val = false ∨ s.mport.lock ≠ none ∨ (∃ req g, (s.chan n).port = .granted req g) →
      exec (.channelResetTakesEffect n) s = .next s)

/-- SOFT_RESET taken at a boundary, and power-on reset (R18, R19, R85, R107, R134, R147, R174, R183, R184). SOFT_RESET keeps
the Pass Queue and the in-flight list, orphaning what no passing request owns, answers every outstanding request CANCELLED,
keeps WINDOW_BASE, RING_SIZE, BREAK_RUN, QUIET_INTERVAL and the held response, and takes every other block to its reset values;
the row changes nothing where none waits or the lock is held (the model's choice: log 3). Power-on reset takes every block to
its power-on values; a request still offered is a new arrival (the model's own fields stand: log 25). -/
def Obligations.ResetsTakeTheResetValues : Prop :=
  ∀ s : State,
    (s.mgmt.softWaiting = true → s.mport.lock = none →
      ∃ t, exec .softResetTaken s = .next t ∧ t.pass = s.pass ∧
        t.mport = { inflight := s.mport.inflight.map fun e => if e.owner.isPass then e else { e with orphan := true },
                    lock := none } ∧
        t.arb = State.reset.arb ∧ t.channels = State.reset.channels ∧ t.cells = State.reset.cells ∧
        t.events = State.reset.events ∧
        t.mgmt = { State.reset.mgmt with
          windowBase := s.mgmt.windowBase, ringSize := s.mgmt.ringSize, breakRunLimit := s.mgmt.breakRunLimit,
          quietInterval := s.mgmt.quietInterval, frame := s.mgmt.frame, response := s.mgmt.response } ∧
        t.out = s.out ++ ((List.finRange 8).filter fun n => (s.chan n).port != .idle).map fun n => .answer n .cancelled) ∧
    (s.mgmt.softWaiting = false ∨ s.mport.lock ≠ none → exec .softResetTaken s = .next s) ∧
    (∃ t, exec .powerOnReset s = .next t ∧ t.mport = State.reset.mport ∧ t.arb = State.reset.arb ∧
      t.channels = State.reset.channels ∧ t.cells = State.reset.cells ∧ t.events = State.reset.events ∧
      t.mgmt = State.reset.mgmt ∧ t.out = s.out ∧ (s.pass.offered = [] → t.pass = State.reset.pass) ∧
      t.pass.entries.map (·.request) = s.pass.offered.take 8 ∧ (∀ e ∈ t.pass.entries, e.phase = .waiting))
end

