-- ==== Sys2Proof/Laws/State.lean ====
section
/-! SUPPORT. What each update of State does to each field, and channels and cells after an update of one of them. Later
proofs rewrite with these and unfold no record update. -/

namespace Sys2Proof.Machine

/-! ## State.setChan -/

@[simp] theorem State.setChan_pass (s : State) (n : ChanId) (c : Channel) : (s.setChan n c).pass = s.pass := rfl

@[simp] theorem State.setChan_mport (s : State) (n : ChanId) (c : Channel) : (s.setChan n c).mport = s.mport := rfl

@[simp] theorem State.setChan_arb (s : State) (n : ChanId) (c : Channel) : (s.setChan n c).arb = s.arb := rfl

@[simp] theorem State.setChan_channels (s : State) (n : ChanId) (c : Channel) :
    (s.setChan n c).channels = s.channels.set n c := rfl

@[simp] theorem State.setChan_cells (s : State) (n : ChanId) (c : Channel) : (s.setChan n c).cells = s.cells := rfl

@[simp] theorem State.setChan_events (s : State) (n : ChanId) (c : Channel) : (s.setChan n c).events = s.events := rfl

@[simp] theorem State.setChan_mgmt (s : State) (n : ChanId) (c : Channel) : (s.setChan n c).mgmt = s.mgmt := rfl

@[simp] theorem State.setChan_freeCounter (s : State) (n : ChanId) (c : Channel) :
    (s.setChan n c).freeCounter = s.freeCounter := rfl

@[simp] theorem State.setChan_out (s : State) (n : ChanId) (c : Channel) : (s.setChan n c).out = s.out := rfl

@[simp] theorem State.setChan_pending (s : State) (n : ChanId) (c : Channel) :
    (s.setChan n c).pending = s.pending := rfl

/-! ## State.setCell -/

@[simp] theorem State.setCell_pass (s : State) (k : CellId) (c : Cell) : (s.setCell k c).pass = s.pass := rfl

@[simp] theorem State.setCell_mport (s : State) (k : CellId) (c : Cell) : (s.setCell k c).mport = s.mport := rfl

@[simp] theorem State.setCell_arb (s : State) (k : CellId) (c : Cell) : (s.setCell k c).arb = s.arb := rfl

@[simp] theorem State.setCell_channels (s : State) (k : CellId) (c : Cell) :
    (s.setCell k c).channels = s.channels := rfl

@[simp] theorem State.setCell_cells (s : State) (k : CellId) (c : Cell) :
    (s.setCell k c).cells = s.cells.set k c := rfl

@[simp] theorem State.setCell_events (s : State) (k : CellId) (c : Cell) : (s.setCell k c).events = s.events := rfl

@[simp] theorem State.setCell_mgmt (s : State) (k : CellId) (c : Cell) : (s.setCell k c).mgmt = s.mgmt := rfl

@[simp] theorem State.setCell_freeCounter (s : State) (k : CellId) (c : Cell) :
    (s.setCell k c).freeCounter = s.freeCounter := rfl

@[simp] theorem State.setCell_out (s : State) (k : CellId) (c : Cell) : (s.setCell k c).out = s.out := rfl

@[simp] theorem State.setCell_pending (s : State) (k : CellId) (c : Cell) : (s.setCell k c).pending = s.pending := rfl

/-! ## State.modChan -/

@[simp] theorem State.modChan_pass (s : State) (n : ChanId) (f : Channel → Channel) :
    (s.modChan n f).pass = s.pass := rfl

@[simp] theorem State.modChan_mport (s : State) (n : ChanId) (f : Channel → Channel) :
    (s.modChan n f).mport = s.mport := rfl

@[simp] theorem State.modChan_arb (s : State) (n : ChanId) (f : Channel → Channel) :
    (s.modChan n f).arb = s.arb := rfl

@[simp] theorem State.modChan_channels (s : State) (n : ChanId) (f : Channel → Channel) :
    (s.modChan n f).channels = s.channels.set n (f (s.chan n)) := rfl

@[simp] theorem State.modChan_cells (s : State) (n : ChanId) (f : Channel → Channel) :
    (s.modChan n f).cells = s.cells := rfl

@[simp] theorem State.modChan_events (s : State) (n : ChanId) (f : Channel → Channel) :
    (s.modChan n f).events = s.events := rfl

@[simp] theorem State.modChan_mgmt (s : State) (n : ChanId) (f : Channel → Channel) :
    (s.modChan n f).mgmt = s.mgmt := rfl

@[simp] theorem State.modChan_freeCounter (s : State) (n : ChanId) (f : Channel → Channel) :
    (s.modChan n f).freeCounter = s.freeCounter := rfl

@[simp] theorem State.modChan_out (s : State) (n : ChanId) (f : Channel → Channel) :
    (s.modChan n f).out = s.out := rfl

@[simp] theorem State.modChan_pending (s : State) (n : ChanId) (f : Channel → Channel) :
    (s.modChan n f).pending = s.pending := rfl

/-! ## State.modCell -/

@[simp] theorem State.modCell_pass (s : State) (k : CellId) (f : Cell → Cell) : (s.modCell k f).pass = s.pass := rfl

@[simp] theorem State.modCell_mport (s : State) (k : CellId) (f : Cell → Cell) :
    (s.modCell k f).mport = s.mport := rfl

@[simp] theorem State.modCell_arb (s : State) (k : CellId) (f : Cell → Cell) : (s.modCell k f).arb = s.arb := rfl

@[simp] theorem State.modCell_channels (s : State) (k : CellId) (f : Cell → Cell) :
    (s.modCell k f).channels = s.channels := rfl

@[simp] theorem State.modCell_cells (s : State) (k : CellId) (f : Cell → Cell) :
    (s.modCell k f).cells = s.cells.set k (f (s.cell k)) := rfl

@[simp] theorem State.modCell_events (s : State) (k : CellId) (f : Cell → Cell) :
    (s.modCell k f).events = s.events := rfl

@[simp] theorem State.modCell_mgmt (s : State) (k : CellId) (f : Cell → Cell) : (s.modCell k f).mgmt = s.mgmt := rfl

@[simp] theorem State.modCell_freeCounter (s : State) (k : CellId) (f : Cell → Cell) :
    (s.modCell k f).freeCounter = s.freeCounter := rfl

@[simp] theorem State.modCell_out (s : State) (k : CellId) (f : Cell → Cell) : (s.modCell k f).out = s.out := rfl

@[simp] theorem State.modCell_pending (s : State) (k : CellId) (f : Cell → Cell) :
    (s.modCell k f).pending = s.pending := rfl

/-! ## State.modEvents -/

@[simp] theorem State.modEvents_pass (s : State) (f : EventUnit → EventUnit) : (s.modEvents f).pass = s.pass := rfl

@[simp] theorem State.modEvents_mport (s : State) (f : EventUnit → EventUnit) : (s.modEvents f).mport = s.mport := rfl

@[simp] theorem State.modEvents_arb (s : State) (f : EventUnit → EventUnit) : (s.modEvents f).arb = s.arb := rfl

@[simp] theorem State.modEvents_channels (s : State) (f : EventUnit → EventUnit) :
    (s.modEvents f).channels = s.channels := rfl

@[simp] theorem State.modEvents_cells (s : State) (f : EventUnit → EventUnit) : (s.modEvents f).cells = s.cells := rfl

@[simp] theorem State.modEvents_events (s : State) (f : EventUnit → EventUnit) :
    (s.modEvents f).events = f s.events := rfl

@[simp] theorem State.modEvents_mgmt (s : State) (f : EventUnit → EventUnit) : (s.modEvents f).mgmt = s.mgmt := rfl

@[simp] theorem State.modEvents_freeCounter (s : State) (f : EventUnit → EventUnit) :
    (s.modEvents f).freeCounter = s.freeCounter := rfl

@[simp] theorem State.modEvents_out (s : State) (f : EventUnit → EventUnit) : (s.modEvents f).out = s.out := rfl

@[simp] theorem State.modEvents_pending (s : State) (f : EventUnit → EventUnit) :
    (s.modEvents f).pending = s.pending := rfl

/-! ## State.modMgmt -/

@[simp] theorem State.modMgmt_pass (s : State) (f : Mgmt → Mgmt) : (s.modMgmt f).pass = s.pass := rfl

@[simp] theorem State.modMgmt_mport (s : State) (f : Mgmt → Mgmt) : (s.modMgmt f).mport = s.mport := rfl

@[simp] theorem State.modMgmt_arb (s : State) (f : Mgmt → Mgmt) : (s.modMgmt f).arb = s.arb := rfl

@[simp] theorem State.modMgmt_channels (s : State) (f : Mgmt → Mgmt) : (s.modMgmt f).channels = s.channels := rfl

@[simp] theorem State.modMgmt_cells (s : State) (f : Mgmt → Mgmt) : (s.modMgmt f).cells = s.cells := rfl

@[simp] theorem State.modMgmt_events (s : State) (f : Mgmt → Mgmt) : (s.modMgmt f).events = s.events := rfl

@[simp] theorem State.modMgmt_mgmt (s : State) (f : Mgmt → Mgmt) : (s.modMgmt f).mgmt = f s.mgmt := rfl

@[simp] theorem State.modMgmt_freeCounter (s : State) (f : Mgmt → Mgmt) :
    (s.modMgmt f).freeCounter = s.freeCounter := rfl

@[simp] theorem State.modMgmt_out (s : State) (f : Mgmt → Mgmt) : (s.modMgmt f).out = s.out := rfl

@[simp] theorem State.modMgmt_pending (s : State) (f : Mgmt → Mgmt) : (s.modMgmt f).pending = s.pending := rfl

/-! ## State.send -/

@[simp] theorem State.send_pass (s : State) (m : PortMessage) : (s.send m).pass = s.pass := rfl

@[simp] theorem State.send_mport (s : State) (m : PortMessage) : (s.send m).mport = s.mport := rfl

@[simp] theorem State.send_arb (s : State) (m : PortMessage) : (s.send m).arb = s.arb := rfl

@[simp] theorem State.send_channels (s : State) (m : PortMessage) : (s.send m).channels = s.channels := rfl

@[simp] theorem State.send_cells (s : State) (m : PortMessage) : (s.send m).cells = s.cells := rfl

@[simp] theorem State.send_events (s : State) (m : PortMessage) : (s.send m).events = s.events := rfl

@[simp] theorem State.send_mgmt (s : State) (m : PortMessage) : (s.send m).mgmt = s.mgmt := rfl

@[simp] theorem State.send_freeCounter (s : State) (m : PortMessage) : (s.send m).freeCounter = s.freeCounter := rfl

@[simp] theorem State.send_out (s : State) (m : PortMessage) : (s.send m).out = s.out ++ [m] := rfl

@[simp] theorem State.send_pending (s : State) (m : PortMessage) : (s.send m).pending = s.pending := rfl

/-! ## State.mapChannels -/

@[simp] theorem State.mapChannels_pass (s : State) (f : Channel → Channel) : (s.mapChannels f).pass = s.pass := rfl

@[simp] theorem State.mapChannels_mport (s : State) (f : Channel → Channel) : (s.mapChannels f).mport = s.mport := rfl

@[simp] theorem State.mapChannels_arb (s : State) (f : Channel → Channel) : (s.mapChannels f).arb = s.arb := rfl

@[simp] theorem State.mapChannels_channels (s : State) (f : Channel → Channel) :
    (s.mapChannels f).channels = s.channels.map f := rfl

@[simp] theorem State.mapChannels_cells (s : State) (f : Channel → Channel) : (s.mapChannels f).cells = s.cells := rfl

@[simp] theorem State.mapChannels_events (s : State) (f : Channel → Channel) :
    (s.mapChannels f).events = s.events := rfl

@[simp] theorem State.mapChannels_mgmt (s : State) (f : Channel → Channel) : (s.mapChannels f).mgmt = s.mgmt := rfl

@[simp] theorem State.mapChannels_freeCounter (s : State) (f : Channel → Channel) :
    (s.mapChannels f).freeCounter = s.freeCounter := rfl

@[simp] theorem State.mapChannels_out (s : State) (f : Channel → Channel) : (s.mapChannels f).out = s.out := rfl

@[simp] theorem State.mapChannels_pending (s : State) (f : Channel → Channel) :
    (s.mapChannels f).pending = s.pending := rfl

/-! ## State.mapCells -/

@[simp] theorem State.mapCells_pass (s : State) (f : Cell → Cell) : (s.mapCells f).pass = s.pass := rfl

@[simp] theorem State.mapCells_mport (s : State) (f : Cell → Cell) : (s.mapCells f).mport = s.mport := rfl

@[simp] theorem State.mapCells_arb (s : State) (f : Cell → Cell) : (s.mapCells f).arb = s.arb := rfl

@[simp] theorem State.mapCells_channels (s : State) (f : Cell → Cell) : (s.mapCells f).channels = s.channels := rfl

@[simp] theorem State.mapCells_cells (s : State) (f : Cell → Cell) : (s.mapCells f).cells = s.cells.map f := rfl

@[simp] theorem State.mapCells_events (s : State) (f : Cell → Cell) : (s.mapCells f).events = s.events := rfl

@[simp] theorem State.mapCells_mgmt (s : State) (f : Cell → Cell) : (s.mapCells f).mgmt = s.mgmt := rfl

@[simp] theorem State.mapCells_freeCounter (s : State) (f : Cell → Cell) :
    (s.mapCells f).freeCounter = s.freeCounter := rfl

@[simp] theorem State.mapCells_out (s : State) (f : Cell → Cell) : (s.mapCells f).out = s.out := rfl

@[simp] theorem State.mapCells_pending (s : State) (f : Cell → Cell) : (s.mapCells f).pending = s.pending := rfl

/-! ## State.raise -/

@[simp] theorem State.raise_pass (s : State) (k : UpkeepKind) : (s.raise k).pass = s.pass := rfl

@[simp] theorem State.raise_mport (s : State) (k : UpkeepKind) : (s.raise k).mport = s.mport := rfl

@[simp] theorem State.raise_arb (s : State) (k : UpkeepKind) :
    (s.raise k).arb = { s.arb with upkeep := s.arb.upkeep ++ [{ kind := k, age := 0 }] } := rfl

@[simp] theorem State.raise_channels (s : State) (k : UpkeepKind) : (s.raise k).channels = s.channels := rfl

@[simp] theorem State.raise_cells (s : State) (k : UpkeepKind) : (s.raise k).cells = s.cells := rfl

@[simp] theorem State.raise_events (s : State) (k : UpkeepKind) : (s.raise k).events = s.events := rfl

@[simp] theorem State.raise_mgmt (s : State) (k : UpkeepKind) : (s.raise k).mgmt = s.mgmt := rfl

@[simp] theorem State.raise_freeCounter (s : State) (k : UpkeepKind) : (s.raise k).freeCounter = s.freeCounter := rfl

@[simp] theorem State.raise_out (s : State) (k : UpkeepKind) : (s.raise k).out = s.out := rfl

@[simp] theorem State.raise_pending (s : State) (k : UpkeepKind) : (s.raise k).pending = s.pending := rfl

/-! ## State.withdraw -/

@[simp] theorem State.withdraw_pass (s : State) (p : UpkeepKind → Bool) : (s.withdraw p).pass = s.pass := rfl

@[simp] theorem State.withdraw_mport (s : State) (p : UpkeepKind → Bool) : (s.withdraw p).mport = s.mport := rfl

@[simp] theorem State.withdraw_arb (s : State) (p : UpkeepKind → Bool) :
    (s.withdraw p).arb = { s.arb with upkeep := s.arb.upkeep.filter fun c => !p c.kind } := rfl

@[simp] theorem State.withdraw_channels (s : State) (p : UpkeepKind → Bool) :
    (s.withdraw p).channels = s.channels := rfl

@[simp] theorem State.withdraw_cells (s : State) (p : UpkeepKind → Bool) : (s.withdraw p).cells = s.cells := rfl

@[simp] theorem State.withdraw_events (s : State) (p : UpkeepKind → Bool) : (s.withdraw p).events = s.events := rfl

@[simp] theorem State.withdraw_mgmt (s : State) (p : UpkeepKind → Bool) : (s.withdraw p).mgmt = s.mgmt := rfl

@[simp] theorem State.withdraw_freeCounter (s : State) (p : UpkeepKind → Bool) :
    (s.withdraw p).freeCounter = s.freeCounter := rfl

@[simp] theorem State.withdraw_out (s : State) (p : UpkeepKind → Bool) : (s.withdraw p).out = s.out := rfl

@[simp] theorem State.withdraw_pending (s : State) (p : UpkeepKind → Bool) : (s.withdraw p).pending = s.pending := rfl

/-! ## State.issue -/

@[simp] theorem State.issue_pass (s : State) (a : Access) : (s.issue a).pass = s.pass := rfl

@[simp] theorem State.issue_mport (s : State) (a : Access) : (s.issue a).mport = { s.mport with
      inflight := s.mport.inflight ++
        [{ owner := a.owner, kind := a.kind, addr := a.addr, lanes := a.lanes, orphan := false }] } := rfl

@[simp] theorem State.issue_arb (s : State) (a : Access) : (s.issue a).arb = s.arb := rfl

@[simp] theorem State.issue_channels (s : State) (a : Access) : (s.issue a).channels = s.channels := rfl

@[simp] theorem State.issue_cells (s : State) (a : Access) : (s.issue a).cells = s.cells := rfl

@[simp] theorem State.issue_events (s : State) (a : Access) : (s.issue a).events = s.events := rfl

@[simp] theorem State.issue_mgmt (s : State) (a : Access) : (s.issue a).mgmt = s.mgmt := rfl

@[simp] theorem State.issue_freeCounter (s : State) (a : Access) : (s.issue a).freeCounter = s.freeCounter := rfl

@[simp] theorem State.issue_out (s : State) (a : Access) : (s.issue a).out = s.out ++ [a.message] := rfl

@[simp] theorem State.issue_pending (s : State) (a : Access) : (s.issue a).pending = s.pending := rfl

/-! ## State.orphan -/

@[simp] theorem State.orphan_pass (s : State) (p : Owner → Bool) : (s.orphan p).pass = s.pass := rfl

@[simp] theorem State.orphan_mport (s : State) (p : Owner → Bool) : (s.orphan p).mport = { s.mport with
      inflight := s.mport.inflight.map fun e => if p e.owner then { e with orphan := true } else e } := rfl

@[simp] theorem State.orphan_arb (s : State) (p : Owner → Bool) : (s.orphan p).arb = s.arb := rfl

@[simp] theorem State.orphan_channels (s : State) (p : Owner → Bool) : (s.orphan p).channels = s.channels := rfl

@[simp] theorem State.orphan_cells (s : State) (p : Owner → Bool) : (s.orphan p).cells = s.cells := rfl

@[simp] theorem State.orphan_events (s : State) (p : Owner → Bool) : (s.orphan p).events = s.events := rfl

@[simp] theorem State.orphan_mgmt (s : State) (p : Owner → Bool) : (s.orphan p).mgmt = s.mgmt := rfl

@[simp] theorem State.orphan_freeCounter (s : State) (p : Owner → Bool) :
    (s.orphan p).freeCounter = s.freeCounter := rfl

@[simp] theorem State.orphan_out (s : State) (p : Owner → Bool) : (s.orphan p).out = s.out := rfl

@[simp] theorem State.orphan_pending (s : State) (p : Owner → Bool) : (s.orphan p).pending = s.pending := rfl

/-! ## State.modEntry -/

@[simp] theorem State.modEntry_pass (s : State) (id : Nat) (f : PassEntry → PassEntry) :
    (s.modEntry id f).pass = { s.pass with entries := s.pass.entries.map fun e => if e.id = id then f e else e } := rfl

@[simp] theorem State.modEntry_mport (s : State) (id : Nat) (f : PassEntry → PassEntry) :
    (s.modEntry id f).mport = s.mport := rfl

@[simp] theorem State.modEntry_arb (s : State) (id : Nat) (f : PassEntry → PassEntry) :
    (s.modEntry id f).arb = s.arb := rfl

@[simp] theorem State.modEntry_channels (s : State) (id : Nat) (f : PassEntry → PassEntry) :
    (s.modEntry id f).channels = s.channels := rfl

@[simp] theorem State.modEntry_cells (s : State) (id : Nat) (f : PassEntry → PassEntry) :
    (s.modEntry id f).cells = s.cells := rfl

@[simp] theorem State.modEntry_events (s : State) (id : Nat) (f : PassEntry → PassEntry) :
    (s.modEntry id f).events = s.events := rfl

@[simp] theorem State.modEntry_mgmt (s : State) (id : Nat) (f : PassEntry → PassEntry) :
    (s.modEntry id f).mgmt = s.mgmt := rfl

@[simp] theorem State.modEntry_freeCounter (s : State) (id : Nat) (f : PassEntry → PassEntry) :
    (s.modEntry id f).freeCounter = s.freeCounter := rfl

@[simp] theorem State.modEntry_out (s : State) (id : Nat) (f : PassEntry → PassEntry) :
    (s.modEntry id f).out = s.out := rfl

@[simp] theorem State.modEntry_pending (s : State) (id : Nat) (f : PassEntry → PassEntry) :
    (s.modEntry id f).pending = s.pending := rfl

/-! ## State.setSequence -/

@[simp] theorem State.setSequence_pass (s : State) (q : Option SeqStep) : (s.setSequence q).pass = s.pass := rfl

@[simp] theorem State.setSequence_mport (s : State) (q : Option SeqStep) : (s.setSequence q).mport = s.mport := rfl

@[simp] theorem State.setSequence_arb (s : State) (q : Option SeqStep) : (s.setSequence q).arb = s.arb := rfl

@[simp] theorem State.setSequence_channels (s : State) (q : Option SeqStep) :
    (s.setSequence q).channels = s.channels := rfl

@[simp] theorem State.setSequence_cells (s : State) (q : Option SeqStep) : (s.setSequence q).cells = s.cells := rfl

@[simp] theorem State.setSequence_events (s : State) (q : Option SeqStep) : (s.setSequence q).events = s.events := rfl

@[simp] theorem State.setSequence_mgmt (s : State) (q : Option SeqStep) :
    (s.setSequence q).mgmt = { s.mgmt with sequence := q } := rfl

@[simp] theorem State.setSequence_freeCounter (s : State) (q : Option SeqStep) :
    (s.setSequence q).freeCounter = s.freeCounter := rfl

@[simp] theorem State.setSequence_out (s : State) (q : Option SeqStep) : (s.setSequence q).out = s.out := rfl

@[simp] theorem State.setSequence_pending (s : State) (q : Option SeqStep) :
    (s.setSequence q).pending = s.pending := rfl

/-! ## State.setWindowState -/

@[simp] theorem State.setWindowState_pass (s : State) (w : WindowState) : (s.setWindowState w).pass = s.pass := rfl

@[simp] theorem State.setWindowState_mport (s : State) (w : WindowState) : (s.setWindowState w).mport = s.mport := rfl

@[simp] theorem State.setWindowState_arb (s : State) (w : WindowState) : (s.setWindowState w).arb = s.arb := rfl

@[simp] theorem State.setWindowState_channels (s : State) (w : WindowState) :
    (s.setWindowState w).channels = s.channels := rfl

@[simp] theorem State.setWindowState_cells (s : State) (w : WindowState) : (s.setWindowState w).cells = s.cells := rfl

@[simp] theorem State.setWindowState_events (s : State) (w : WindowState) :
    (s.setWindowState w).events = s.events := rfl

@[simp] theorem State.setWindowState_mgmt (s : State) (w : WindowState) :
    (s.setWindowState w).mgmt = { s.mgmt with windowState := w } := rfl

@[simp] theorem State.setWindowState_freeCounter (s : State) (w : WindowState) :
    (s.setWindowState w).freeCounter = s.freeCounter := rfl

@[simp] theorem State.setWindowState_out (s : State) (w : WindowState) : (s.setWindowState w).out = s.out := rfl

@[simp] theorem State.setWindowState_pending (s : State) (w : WindowState) :
    (s.setWindowState w).pending = s.pending := rfl

/-! ## One channel, one cell -/

@[simp] theorem State.chan_setChan_self (s : State) (n : ChanId) (c : Channel) : (s.setChan n c).chan n = c := by
  simp [State.chan, State.setChan]

theorem State.chan_setChan_other (s : State) {n m : ChanId} (c : Channel) (h : m ≠ n) :
    (s.setChan n c).chan m = s.chan m := by
  have h' : (n : Nat) ≠ m := fun e => h (Fin.ext e.symm)
  simp [State.chan, State.setChan, h']

@[simp] theorem State.chan_modChan_self (s : State) (n : ChanId) (f : Channel → Channel) :
    (s.modChan n f).chan n = f (s.chan n) := State.chan_setChan_self s n _

theorem State.chan_modChan_other (s : State) {n m : ChanId} (f : Channel → Channel) (h : m ≠ n) :
    (s.modChan n f).chan m = s.chan m := State.chan_setChan_other s _ h

@[simp] theorem State.cell_setCell_self (s : State) (k : CellId) (c : Cell) : (s.setCell k c).cell k = c := by
  simp [State.cell, State.setCell]

theorem State.cell_setCell_other (s : State) {k j : CellId} (c : Cell) (h : j ≠ k) :
    (s.setCell k c).cell j = s.cell j := by
  have h' : (k : Nat) ≠ j := fun e => h (Fin.ext e.symm)
  simp [State.cell, State.setCell, h']

@[simp] theorem State.cell_modCell_self (s : State) (k : CellId) (f : Cell → Cell) :
    (s.modCell k f).cell k = f (s.cell k) := State.cell_setCell_self s k _

theorem State.cell_modCell_other (s : State) {k j : CellId} (f : Cell → Cell) (h : j ≠ k) :
    (s.modCell k f).cell j = s.cell j := State.cell_setCell_other s _ h

@[simp] theorem State.chan_mapChannels (s : State) (f : Channel → Channel) (n : ChanId) :
    (s.mapChannels f).chan n = f (s.chan n) := by
  simp [State.chan, State.mapChannels]

@[simp] theorem State.cell_mapCells (s : State) (f : Cell → Cell) (k : CellId) :
    (s.mapCells f).cell k = f (s.cell k) := by
  simp [State.cell, State.mapCells]

/-- Every channel of a vector of one value. -/
@[simp] theorem State.chan_replicate (s : State) (c : Channel) (n : ChanId) :
    State.chan { s with channels := Vector.replicate 8 c } n = c := by
  simp [State.chan]

/-- Every cell of a vector of one value. -/
@[simp] theorem State.cell_replicate (s : State) (c : Cell) (k : CellId) :
    State.cell { s with cells := Vector.replicate 16 c } k = c := by
  simp [State.cell]

@[simp] theorem State.chan_setCell (s : State) (j : CellId) (c : Cell) (i : ChanId) :
    (s.setCell j c).chan i = s.chan i := rfl

@[simp] theorem State.chan_modCell (s : State) (j : CellId) (f : Cell → Cell) (i : ChanId) :
    (s.modCell j f).chan i = s.chan i := rfl

@[simp] theorem State.chan_modEvents (s : State) (f : EventUnit → EventUnit) (i : ChanId) :
    (s.modEvents f).chan i = s.chan i := rfl

@[simp] theorem State.chan_modMgmt (s : State) (f : Mgmt → Mgmt) (i : ChanId) :
    (s.modMgmt f).chan i = s.chan i := rfl

@[simp] theorem State.chan_send (s : State) (m : PortMessage) (i : ChanId) :
    (s.send m).chan i = s.chan i := rfl

@[simp] theorem State.chan_mapCells (s : State) (f : Cell → Cell) (i : ChanId) :
    (s.mapCells f).chan i = s.chan i := rfl

@[simp] theorem State.chan_raise (s : State) (u : UpkeepKind) (i : ChanId) :
    (s.raise u).chan i = s.chan i := rfl

@[simp] theorem State.chan_withdraw (s : State) (p : UpkeepKind → Bool) (i : ChanId) :
    (s.withdraw p).chan i = s.chan i := rfl

@[simp] theorem State.chan_issue (s : State) (a : Access) (i : ChanId) :
    (s.issue a).chan i = s.chan i := rfl

@[simp] theorem State.chan_orphan (s : State) (p : Owner → Bool) (i : ChanId) :
    (s.orphan p).chan i = s.chan i := rfl

@[simp] theorem State.chan_modEntry (s : State) (id : Nat) (f : PassEntry → PassEntry) (i : ChanId) :
    (s.modEntry id f).chan i = s.chan i := rfl

@[simp] theorem State.chan_setSequence (s : State) (q : Option SeqStep) (i : ChanId) :
    (s.setSequence q).chan i = s.chan i := rfl

@[simp] theorem State.chan_setWindowState (s : State) (w : WindowState) (i : ChanId) :
    (s.setWindowState w).chan i = s.chan i := rfl

@[simp] theorem State.cell_setChan (s : State) (m : ChanId) (c : Channel) (i : CellId) :
    (s.setChan m c).cell i = s.cell i := rfl

@[simp] theorem State.cell_modChan (s : State) (m : ChanId) (f : Channel → Channel) (i : CellId) :
    (s.modChan m f).cell i = s.cell i := rfl

@[simp] theorem State.cell_modEvents (s : State) (f : EventUnit → EventUnit) (i : CellId) :
    (s.modEvents f).cell i = s.cell i := rfl

@[simp] theorem State.cell_modMgmt (s : State) (f : Mgmt → Mgmt) (i : CellId) :
    (s.modMgmt f).cell i = s.cell i := rfl

@[simp] theorem State.cell_send (s : State) (m : PortMessage) (i : CellId) :
    (s.send m).cell i = s.cell i := rfl

@[simp] theorem State.cell_mapChannels (s : State) (f : Channel → Channel) (i : CellId) :
    (s.mapChannels f).cell i = s.cell i := rfl

@[simp] theorem State.cell_raise (s : State) (u : UpkeepKind) (i : CellId) :
    (s.raise u).cell i = s.cell i := rfl

@[simp] theorem State.cell_withdraw (s : State) (p : UpkeepKind → Bool) (i : CellId) :
    (s.withdraw p).cell i = s.cell i := rfl

@[simp] theorem State.cell_issue (s : State) (a : Access) (i : CellId) :
    (s.issue a).cell i = s.cell i := rfl

@[simp] theorem State.cell_orphan (s : State) (p : Owner → Bool) (i : CellId) :
    (s.orphan p).cell i = s.cell i := rfl

@[simp] theorem State.cell_modEntry (s : State) (id : Nat) (f : PassEntry → PassEntry) (i : CellId) :
    (s.modEntry id f).cell i = s.cell i := rfl

@[simp] theorem State.cell_setSequence (s : State) (q : Option SeqStep) (i : CellId) :
    (s.setSequence q).cell i = s.cell i := rfl

@[simp] theorem State.cell_setWindowState (s : State) (w : WindowState) (i : CellId) :
    (s.setWindowState w).cell i = s.cell i := rfl

end Sys2Proof.Machine
end

