-- ==== Sys2Proof/Laws/ChannelStep.lean ====
section
/-! SUPPORT. What an operation of one channel can do to the part (ChannelStep), once for every such operation: no other
channel, no cell, no Pass Queue entry, no management register, no ring index changes, no access leaves; the Pending Event
Queue grows within its capacity; STATUS keeps in step. -/

namespace Sys2Proof.Machine

/-! ## The Event Unit -/

/-- The Event Unit's queue grows within its capacity, and its post claim may be raised where R151 allows. -/
def EventsGrow (s t : State) : Prop :=
  ∃ more phase, t.events = { s.events with queue := s.events.queue ++ more, postPhase := phase } ∧
    (s.events.count ≤ 8 → t.events.count ≤ 8) ∧
    (phase = s.events.postPhase ∨
      (phase = .claimed ∧ s.events.occupancy < s.ringSlots ∧ s.mgmt.windowState ≠ .disabled))

theorem EventsGrow.of_eq {s t : State} (h : t.events = s.events) : EventsGrow s t :=
  ⟨[], s.events.postPhase, by simp [h], by simp [h], .inl rfl⟩

theorem EventsGrow.trans {s t u : State} (hm : t.mgmt = s.mgmt) (h₁ : EventsGrow s t) (h₂ : EventsGrow t u) :
    EventsGrow s u := by
  obtain ⟨m₁, p₁, e₁, c₁, q₁⟩ := h₁
  obtain ⟨m₂, p₂, e₂, c₂, q₂⟩ := h₂
  refine ⟨m₁ ++ m₂, p₂, by rw [e₂, e₁]; simp, fun h => c₂ (c₁ h), ?_⟩
  rcases q₂ with q₂ | ⟨q₂, h, w⟩
  · rcases q₁ with q₁ | q₁
    · left; rw [q₂, e₁]; exact q₁
    · right; rw [q₂, e₁]; exact q₁
  · right
    refine ⟨q₂, ?_, by rw [hm] at w; exact w⟩
    simpa [e₁, EventUnit.occupancy, State.ringSlots, hm] using h

theorem State.raisePost_events (s : State) : EventsGrow s s.raisePost := by
  unfold State.raisePost
  split
  · rename_i h
    simp only [State.postWanted, Bool.and_eq_true, decide_eq_true_eq] at h
    refine ⟨[], .claimed, by simp, by simp only [State.modEvents_events, State.raise_events, EventUnit.count]; exact id, .inr ⟨rfl, h.1.1.2, ?_⟩⟩
    intro hd
    simp [hd] at h
  · exact .of_eq rfl

@[simp] theorem State.raisePost_pass (s : State) : s.raisePost.pass = s.pass := by unfold State.raisePost; split <;> rfl

@[simp] theorem State.raisePost_mport (s : State) : s.raisePost.mport = s.mport := by
  unfold State.raisePost; split <;> rfl

@[simp] theorem State.raisePost_channels (s : State) : s.raisePost.channels = s.channels := by
  unfold State.raisePost; split <;> rfl

@[simp] theorem State.raisePost_cells (s : State) : s.raisePost.cells = s.cells := by
  unfold State.raisePost; split <;> rfl

@[simp] theorem State.raisePost_mgmt (s : State) : s.raisePost.mgmt = s.mgmt := by unfold State.raisePost; split <;> rfl

@[simp] theorem State.raisePost_freeCounter (s : State) : s.raisePost.freeCounter = s.freeCounter := by
  unfold State.raisePost; split <;> rfl

@[simp] theorem State.raisePost_out (s : State) : s.raisePost.out = s.out := by unfold State.raisePost; split <;> rfl

@[simp] theorem State.raisePost_pending (s : State) : s.raisePost.pending = s.pending := by
  unfold State.raisePost; split <;> rfl

/-! ## The relation -/

/-- What an operation of channel n can do. -/
structure ChannelStep (n : ChanId) (s t : State) : Prop where
  pass : t.pass = s.pass
  mport : t.mport = s.mport
  breakRun : t.arb.breakRun = s.arb.breakRun
  ages : (∀ c ∈ s.arb.upkeep, c.age ≤ 16) → ∀ c ∈ t.arb.upkeep, c.age ≤ 16
  others : ∀ m, m ≠ n → t.chan m = s.chan m
  status : (s.chan n).StatusAgrees → (t.chan n).StatusAgrees
  cells : t.cells = s.cells
  mgmt : t.mgmt = s.mgmt
  freeCounter : t.freeCounter = s.freeCounter
  pending : t.pending = s.pending
  out : s.out <+: t.out
  events : EventsGrow s t

theorem ChannelStep.refl (n : ChanId) (s : State) : ChannelStep n s s :=
  ⟨rfl, rfl, rfl, id, fun _ _ => rfl, id, rfl, rfl, rfl, rfl, List.prefix_rfl, .of_eq rfl⟩

theorem ChannelStep.trans {n : ChanId} {s t u : State} (h : ChannelStep n s t) (k : ChannelStep n t u) :
    ChannelStep n s u :=
  ⟨k.pass.trans h.pass, k.mport.trans h.mport, k.breakRun.trans h.breakRun, fun a => k.ages (h.ages a),
    fun m hm => (k.others m hm).trans (h.others m hm), fun a => k.status (h.status a), k.cells.trans h.cells,
    k.mgmt.trans h.mgmt, k.freeCounter.trans h.freeCounter, k.pending.trans h.pending, h.out.trans k.out,
    h.events.trans h.mgmt k.events⟩

/-- An operation that changes only channel n's own parts. -/
theorem ChannelStep.of_modChan {n : ChanId} (s : State) {f : Channel → Channel}
    (h : (s.chan n).StatusAgrees → (f (s.chan n)).StatusAgrees) : ChannelStep n s (s.modChan n f) :=
  ⟨rfl, rfl, rfl, id, fun _ hm => State.chan_modChan_other s f hm, by simpa using h, rfl, rfl, rfl, rfl,
    List.prefix_rfl, .of_eq rfl⟩

/-! ## Claims, messages, the lock, orphans -/

theorem ages_raise {l : List UpkeepClaim} {k : UpkeepKind} (h : ∀ c ∈ l, c.age ≤ 16) :
    ∀ c ∈ l ++ [{ kind := k, age := 0 }], c.age ≤ 16 := by
  intro c hc
  rcases List.mem_append.1 hc with hc | hc
  · exact h c hc
  · simp at hc; subst hc; simp

theorem ages_filter {l : List UpkeepClaim} {p : UpkeepClaim → Bool} (h : ∀ c ∈ l, c.age ≤ 16) :
    ∀ c ∈ l.filter p, c.age ≤ 16 := fun c hc => h c (List.mem_filter.1 hc).1

theorem State.raise_step (s : State) (n : ChanId) (k : UpkeepKind) : ChannelStep n s (s.raise k) :=
  ⟨rfl, rfl, rfl, ages_raise, fun _ _ => rfl, id, rfl, rfl, rfl, rfl, List.prefix_rfl, .of_eq rfl⟩

theorem State.withdraw_step (s : State) (n : ChanId) (p : UpkeepKind → Bool) : ChannelStep n s (s.withdraw p) :=
  ⟨rfl, rfl, rfl, ages_filter, fun _ _ => rfl, id, rfl, rfl, rfl, rfl, List.prefix_rfl, .of_eq rfl⟩

theorem State.send_step (s : State) (n : ChanId) (m : PortMessage) : ChannelStep n s (s.send m) :=
  ⟨rfl, rfl, rfl, id, fun _ _ => rfl, id, rfl, rfl, rfl, rfl, ⟨[m], rfl⟩, .of_eq rfl⟩

/-- A turn of channel n: a ChannelStep but for the M-port, where a lock may end and entries may be orphaned. -/
def ChannelTurn (n : ChanId) (s t : State) : Prop :=
  ChannelStep n s { t with mport := s.mport } ∧ t.mport.inflight.length = s.mport.inflight.length

theorem ChannelStep.turn {n : ChanId} {s t : State} (h : ChannelStep n s t) : ChannelTurn n s t :=
  ⟨by rw [← h.mport]; exact h, by rw [h.mport]⟩

theorem ChannelTurn.refl (n : ChanId) (s : State) : ChannelTurn n s s := (ChannelStep.refl n s).turn

theorem ChannelTurn.trans {n : ChanId} {s t u : State} (h : ChannelTurn n s t) (k : ChannelTurn n t u) :
    ChannelTurn n s u := by
  obtain ⟨h, hl⟩ := h
  obtain ⟨k, kl⟩ := k
  have k' : ChannelStep n { t with mport := s.mport } { u with mport := s.mport } :=
    ⟨k.pass, rfl, k.breakRun, k.ages, k.others, k.status, k.cells, k.mgmt, k.freeCounter, k.pending, k.out, k.events⟩
  exact ⟨h.trans k', kl.trans hl⟩

theorem ChannelTurn.of_mport {n : ChanId} (s : State) (m : MPort) (h : m.inflight.length = s.mport.inflight.length) :
    ChannelTurn n s { s with mport := m } := ⟨.refl n s, h⟩

theorem State.orphan_turn (s : State) (n : ChanId) (p : Owner → Bool) : ChannelTurn n s (s.orphan p) :=
  .of_mport s _ (by simp)

theorem State.endGroup_turn (s : State) (n : ChanId) (g : GroupSource) : ChannelTurn n s (s.endGroup g) := by
  unfold State.endGroup
  split
  · exact .of_mport s _ rfl
  · exact .refl n s

theorem State.release_turn (s : State) (n : ChanId) (g : GroupSource) (l : List Access) :
    ChannelTurn n s (s.release g l) := .of_mport s _ rfl

/-! ## Events -/

theorem State.raisePost_ages {s : State} (h : ∀ c ∈ s.arb.upkeep, c.age ≤ 16) :
    ∀ c ∈ s.raisePost.arb.upkeep, c.age ≤ 16 := by
  unfold State.raisePost
  split
  · exact ages_raise h
  · exact h

@[simp] theorem State.raisePost_breakRun (s : State) : s.raisePost.arb.breakRun = s.arb.breakRun := by
  unfold State.raisePost; split <;> rfl

theorem State.raisePost_step (s : State) (n : ChanId) : ChannelStep n s s.raisePost where
  pass := by simp
  mport := by simp
  breakRun := by simp
  ages := State.raisePost_ages
  others := fun _ _ => by simp [State.chan]
  status := by simp [State.chan]
  cells := by simp
  mgmt := by simp
  freeCounter := by simp
  pending := by simp
  out := by simp
  events := s.raisePost_events

theorem State.pushEvent_step (s : State) (n : ChanId) (ev : Event) (room : s.queueRoom = true) :
    ChannelStep n s (s.pushEvent ev) := by
  refine ChannelStep.trans (t := s.modEvents fun e => { e with queue := e.queue ++ [ev] })
    ⟨rfl, rfl, rfl, id, fun _ _ => rfl, id, rfl, rfl, rfl, rfl, List.prefix_rfl, ?_⟩ (State.raisePost_step _ n)
  refine ⟨[ev], s.events.postPhase, rfl, fun _ => ?_, .inl rfl⟩
  have h : s.events.count < 8 := of_decide_eq_true room
  have e : EventUnit.count { s.events with queue := s.events.queue ++ [ev] } = s.events.count + 1 := by
    simp only [EventUnit.count, List.length_append, List.length_singleton]
    omega
  simpa [e] using h

/-! ## Channel n's parts -/

/-- STATUS agrees after a change that puts the controller's STATUS into the line. -/
theorem Channel.sync_agrees (c : Channel) : c.sync.StatusAgrees := by
  unfold Channel.StatusAgrees Channel.sync Channel.modLine Channel.lineValid Channel.word
  cases h : c.line <;> simp [h, ValidLine.put, Record.set, Record.get]

theorem State.modStatus_step (s : State) (n : ChanId) (f : Controller → Controller) :
    ChannelStep n s (s.modStatus n f) := .of_modChan s fun _ => Channel.sync_agrees _

theorem State.setState_step (s : State) (n : ChanId) (st : ChanState) : ChannelStep n s (s.setState n st) :=
  s.modStatus_step n _

/-- A change of the controller that keeps its STATUS word. -/
theorem State.modCtl_step (s : State) (n : ChanId) (f : Controller → Controller)
    (h : ∀ k, (f k).statusWord = k.statusWord := by intro _; rfl) : ChannelStep n s (s.modCtl n f) :=
  .of_modChan s fun a v => (a v).trans (h _).symm

/-- A change of the line's words other than STATUS, or of its marks. -/
theorem Channel.modLine_agrees {c : Channel} {f : ValidLine → ValidLine}
    (h : ∀ v, (f v).words.status = v.words.status) (a : c.StatusAgrees) : (c.modLine f).StatusAgrees := by
  revert a
  unfold Channel.StatusAgrees Channel.modLine Channel.lineValid Channel.word
  cases hc : c.line <;> simp_all [Record.get]

/-- A line that is not VALID shows no STATUS. -/
theorem Channel.agrees_of_not_valid {c : Channel} (h : c.lineValid = false) : c.StatusAgrees := by
  intro v; rw [h] at v; exact absurd v (by simp)

theorem State.modLine_step (s : State) (n : ChanId) (f : ValidLine → ValidLine)
    (h : ∀ v, (f v).words.status = v.words.status := by intro _; rfl) :
    ChannelStep n s (s.modChan n fun c => c.modLine f) :=
  .of_modChan s fun a => Channel.modLine_agrees h a

/-- A change of the parts of channel n that are neither the controller nor the line. -/
theorem State.modParts_step (s : State) (n : ChanId) (f : Channel → Channel)
    (hc : ∀ c, (f c).ctl = c.ctl := by intro _; rfl) (hl : ∀ c, (f c).line = c.line := by intro _; rfl) :
    ChannelStep n s (s.modChan n f) :=
  .of_modChan s fun a => by
    simp only [Channel.StatusAgrees, Channel.lineValid, Channel.word, hc, hl] at a ⊢
    exact a

theorem State.createEvent_step (s : State) (n : ChanId) (ev : Event) : ChannelStep n s (s.createEvent n ev) := by
  unfold State.createEvent
  split
  · exact .refl n s
  · split
    · rename_i h; exact s.pushEvent_step n ev h
    · exact .of_modChan s fun a v => a v

theorem State.closePort_step (s : State) (n : ChanId) (a : Answer) : ChannelStep n s (s.closePort n a) :=
  (s.modParts_step n _).trans (State.send_step _ n _)

theorem State.setRefusal_step (s : State) (n : ChanId) (r : RefusalReason) : ChannelStep n s (s.setRefusal n r) :=
  s.modStatus_step n _

theorem State.refuse_step (s : State) (n : ChanId) (code : CommandCode) (r : RefusalReason) :
    ChannelStep n s (s.refuse n code r) := (s.setRefusal_step n r).trans (State.createEvent_step _ n _)

theorem State.refuseSetup_step (s : State) (n : ChanId) (code : CommandCode) :
    ChannelStep n s (s.refuseSetup n code) := by
  unfold State.refuseSetup
  split
  · exact s.setRefusal_step n _
  · exact s.refuse_step n _ _

/-! ## The line's operations -/

/-- A change of what a VALID line's writeback is doing. -/
theorem Channel.setValid_agrees {c : Channel} {v w : ValidLine} (hv : c.line = .valid v) (hw : w.words = v.words)
    (a : c.StatusAgrees) : Channel.StatusAgrees { c with line := .valid w } := by
  simp only [Channel.StatusAgrees, Channel.lineValid, Channel.word, hv, Record.get] at a ⊢
  simpa [hw] using a

theorem State.triggerWriteback_step (s : State) (n : ChanId) (w : WbServes) :
    ChannelStep n s (s.triggerWriteback n w) := by
  unfold State.triggerWriteback
  split
  · rename_i v hv
    split
    · split
      · exact (ChannelStep.of_modChan s (Channel.setValid_agrees hv rfl)).trans (State.raise_step _ n _)
      · exact .refl n s
    · exact .of_modChan s (Channel.setValid_agrees hv rfl)
    · exact .of_modChan s (Channel.setValid_agrees hv rfl)
  · exact .refl n s

theorem State.triggerPlain_step (s : State) (n : ChanId) : ChannelStep n s (s.triggerPlain n) :=
  s.triggerWriteback_step n _

theorem State.invalidateLine_step (s : State) (n : ChanId) : ChannelStep n s (s.invalidateLine n) :=
  (ChannelStep.of_modChan s fun _ => Channel.agrees_of_not_valid rfl).trans (State.withdraw_step _ n _)

theorem State.startFill_step (s : State) (n : ChanId) (w : CommandCode) : ChannelStep n s (s.startFill n w) :=
  ((ChannelStep.of_modChan s fun _ => Channel.agrees_of_not_valid rfl).trans (State.withdraw_step _ n _)).trans
    (State.raise_step _ n _)

theorem Channel.emptyMailbox_agrees {c : Channel} (a : c.StatusAgrees) : c.emptyMailbox.StatusAgrees := by
  unfold Channel.emptyMailbox
  split
  · rename_i h; exact Channel.agrees_of_not_valid (by simp [Channel.lineValid, h])
  · rename_i h; exact Channel.agrees_of_not_valid (by simp [Channel.lineValid])
  · rename_i v h
    simp only [Channel.StatusAgrees, Channel.lineValid, Channel.word, h, Record.get, ValidLine.put, Record.set] at a ⊢
    exact a

theorem Channel.placeCommand_agrees {c : Channel} (code : CommandCode) (a : c.StatusAgrees) :
    (c.placeCommand code).StatusAgrees := by
  unfold Channel.placeCommand
  split
  · rename_i h; exact Channel.agrees_of_not_valid (by simp [Channel.lineValid, h])
  · rename_i h; exact Channel.agrees_of_not_valid (by simp [Channel.lineValid])
  · rename_i v h
    simp only [Channel.StatusAgrees, Channel.lineValid, Channel.word, h, Record.get, ValidLine.put, Record.set] at a ⊢
    exact a

/-! ## Entering a state -/

theorem State.enterOffFromEnding_step (s : State) (n : ChanId) : ChannelStep n s (s.enterOffFromEnding n) :=
  (s.modStatus_step n _).trans (State.triggerPlain_step _ n)

theorem State.enterHalted_step (s : State) (n : ChanId) : ChannelStep n s (s.enterHalted n) :=
  ((s.setState_step n _).trans (State.createEvent_step _ n _)).trans (State.triggerPlain_step _ n)

theorem State.enterEnding_step (s : State) (n : ChanId) (e : EndingKind) : ChannelStep n s (s.enterEnding n e) :=
  (s.modStatus_step n _).trans (State.triggerWriteback_step _ n _)

theorem State.enterAborted_step (s : State) (n : ChanId) : ChannelStep n s (s.enterAborted n) := s.enterEnding_step n _

theorem State.failPort_step (s : State) (n : ChanId) (c : FaultCode) : ChannelStep n s (s.failPort n c) := by
  unfold State.failPort
  split
  · exact s.closePort_step n _
  · exact s.closePort_step n _
  · exact .refl n s

theorem State.dropLinkClaim_step (s : State) (n : ChanId) : ChannelStep n s (s.dropLinkClaim n) := by
  unfold State.dropLinkClaim
  split
  · exact (s.modParts_step n _).trans (State.withdraw_step _ n _)
  · exact .refl n s

theorem State.forgetConsequence_step (s : State) (n : ChanId) :
    ChannelStep n s (s.modChan n Channel.forgetConsequence) := s.modLine_step n _

theorem State.enterFaulted_step (s : State) (n : ChanId) (f : PendingFault) : ChannelStep n s (s.enterFaulted n f) := by
  unfold State.enterFaulted
  simp only
  split
  · exact ((((s.failPort_step n _).trans (State.dropLinkClaim_step _ n)).trans (State.modStatus_step _ n _)).trans
      (State.forgetConsequence_step _ n)).trans (State.createEvent_step _ n _)
  · exact (((((s.failPort_step n _).trans (State.dropLinkClaim_step _ n)).trans (State.modStatus_step _ n _)).trans
      (State.forgetConsequence_step _ n)).trans (State.createEvent_step _ n _)).trans (State.triggerPlain_step _ n)

theorem State.pendFault_step (s : State) (n : ChanId) (f : PendingFault) : ChannelStep n s (s.pendFault n f) :=
  s.modCtl_step n _

theorem State.faultArise_step (s : State) (n : ChanId) (f : PendingFault) : ChannelStep n s (s.faultArise n f) := by
  unfold State.faultArise
  simp only
  split
  · exact .refl n s
  · split
    · exact s.pendFault_step n f
    · exact s.enterFaulted_step n f

theorem State.modWalker_step (s : State) (n : ChanId) (f : Walker → Walker) : ChannelStep n s (s.modWalker n f) :=
  s.modParts_step n _

theorem State.enterLinking_step (s : State) (n : ChanId) : ChannelStep n s (s.enterLinking n) := by
  unfold State.enterLinking
  simp only
  split
  · exact (s.setState_step n _).trans (State.faultArise_step _ n _)
  · exact ((s.setState_step n _).trans (State.modParts_step _ n _)).trans
      (State.raise_step _ n _)

theorem State.goToSegment_step (s : State) (n : ChanId) : ChannelStep n s (s.goToSegment n) := by
  unfold State.goToSegment
  split
  · exact s.enterEnding_step n _
  · exact s.enterLinking_step n

/-- Where CHAIN names a segment, the channel enters LINKING (R110). -/
theorem State.goToSegment_of_chain {s : State} {n : ChanId} (h : (s.chan n).chain ≠ 0#26) :
    s.goToSegment n = s.enterLinking n := if_neg h

/-- Where CHAIN names none, the chain ends (R29; log 13). -/
theorem State.goToSegment_of_none {s : State} {n : ChanId} (h : (s.chan n).chain = 0#26) :
    s.goToSegment n = s.enterEnding n .terminal := if_pos h

theorem State.enterByRecord_step (s : State) (n : ChanId) (u : Setup) : ChannelStep n s (s.enterByRecord n u) := by
  unfold State.enterByRecord
  simp only
  have h : ChannelStep n s (s.modCtl n fun k => { k with setup := some u }) := s.modCtl_step n _
  split
  · exact h.trans (State.setState_step _ n _)
  · split
    · exact h.trans (State.enterLinking_step _ n)
    · exact h.trans (State.enterEnding_step _ n _)

/-! ## Commands and held requests -/

theorem State.obeyStart_step (s : State) (n : ChanId) : ChannelStep n s (s.obeyStart n) := by
  unfold State.obeyStart
  simp only
  split
  · split
    · exact (s.modStatus_step n _).trans (State.startFill_step _ n _)
    · exact (s.modStatus_step n _).trans (State.triggerWriteback_step _ n _)
  · exact s.refuse_step n _ _

theorem State.obeyStop_step (s : State) (n : ChanId) : ChannelStep n s (s.obeyStop n) := by
  unfold State.obeyStop
  split
  · exact s.enterHalted_step n
  · exact s.setState_step n _
  · exact s.setState_step n _
  · exact s.refuse_step n _ _

theorem State.obeyResume_step (s : State) (n : ChanId) : ChannelStep n s (s.obeyResume n) := by
  unfold State.obeyResume
  split
  · split
    · exact s.faultArise_step n _
    · exact s.enterByRecord_step n _
  · exact s.refuse_step n _ _

theorem State.cancelAccepted_step (s : State) (n : ChanId) : ChannelStep n s (s.cancelAccepted n) := by
  unfold State.cancelAccepted
  split
  · exact s.closePort_step n _
  · exact .refl n s

theorem State.recordAbort_step (s : State) (n : ChanId) :
    ChannelStep n s (s.modCtl n fun k => { k with abortRecorded := true }) := s.modCtl_step n _

theorem State.obeyAbort_step (s : State) (n : ChanId) : ChannelStep n s (s.obeyAbort n) := by
  unfold State.obeyAbort
  split
  · exact s.enterAborted_step n
  · exact s.enterAborted_step n
  · exact (s.cancelAccepted_step n).trans (State.enterAborted_step _ n)
  · split
    · exact (s.cancelAccepted_step n).trans (State.enterAborted_step _ n)
    · exact s.recordAbort_step n
  · exact s.recordAbort_step n
  · exact s.refuse_step n _ _

theorem State.obeyClear_step (s : State) (n : ChanId) : ChannelStep n s (s.obeyClear n) := by
  unfold State.obeyClear
  split
  · exact (s.modStatus_step n _).trans (State.triggerPlain_step _ n)
  · simp only
    split
    · exact ((s.modStatus_step n _).trans (State.modCtl_step _ n (fun k => { k with clearing := true }))).trans
        (State.triggerWriteback_step _ n _)
    · exact s.modStatus_step n _
  · exact s.refuse_step n _ _

theorem State.obey_step (s : State) (n : ChanId) (code : CommandCode) : ChannelStep n s (s.obey n code) := by
  unfold State.obey
  split
  · exact .refl n s
  · exact s.obeyStart_step n
  · exact s.obeyStop_step n
  · exact s.obeyResume_step n
  · exact s.obeyAbort_step n
  · exact s.obeyClear_step n
  · exact s.refuse_step n _ _

theorem State.takeUntaken_step (s : State) (n : ChanId) : ChannelStep n s (s.takeUntaken n) := by
  unfold State.takeUntaken
  simp only
  split
  · exact (ChannelStep.of_modChan s Channel.emptyMailbox_agrees).trans (State.obey_step _ n _)
  · exact .refl n s

theorem State.acceptRequest_step (s : State) (n : ChanId) (r : DeviceRequest) :
    ChannelStep n s (s.acceptRequest n r) :=
  (s.modParts_step n _).trans (State.setState_step _ n _)

theorem State.considerHeld_step (s : State) (n : ChanId) : ChannelStep n s (s.considerHeld n) := by
  unfold State.considerHeld
  simp only
  split
  · split
    · exact .refl n s
    · split
      · exact s.closePort_step n _
      · exact s.closePort_step n _
      · exact s.closePort_step n _
      · exact s.closePort_step n _
      · split
        · exact s.acceptRequest_step n _
        · exact s.closePort_step n _
      · exact .refl n s
  · exact .refl n s

theorem State.settle_step (s : State) (n : ChanId) : ChannelStep n s (s.settle n) :=
  (s.takeUntaken_step n).trans (State.considerHeld_step _ n)

theorem State.offerCommand_step (s : State) (n : ChanId) (code : CommandCode) :
    ChannelStep n s (s.offerCommand n code) :=
  (ChannelStep.of_modChan s (Channel.placeCommand_agrees code)).trans (State.settle_step _ n)

/-! ## The end of a writeback -/

theorem State.createFinal_step (s : State) (n : ChanId) : ChannelStep n s (s.createFinal n) := by
  unfold State.createFinal
  simp only
  split
  · exact s.createEvent_step n _
  · exact (s.createEvent_step n _).trans (State.enterOffFromEnding_step _ n)

theorem State.endingDone_step (s : State) (n : ChanId) : ChannelStep n s (s.endingDone n) := by
  unfold State.endingDone
  split
  · exact s.modCtl_step n _
  · exact s.createFinal_step n

theorem State.clearDone_step (s : State) (n : ChanId) : ChannelStep n s (s.clearDone n) := by
  unfold State.clearDone
  exact (s.invalidateLine_step n).trans (State.modCtl_step _ n _)

theorem State.failReload_step (s : State) (n : ChanId) (f : PendingFault) : ChannelStep n s (s.failReload n f) := by
  unfold State.failReload
  simp only
  split
  · exact s.modCtl_step n _
  · exact s.enterFaulted_step n _

theorem State.claimRequested_step (s : State) (n : ChanId) (r : Option WbServes) :
    ChannelStep n s (s.claimRequested n r) := by
  unfold State.claimRequested
  split
  · exact s.triggerWriteback_step n _
  · exact .refl n s

theorem State.writebackFailed_step (s : State) (n : ChanId) (w : WbServes) (r : RecWord) :
    ChannelStep n s (s.writebackFailed n w r) := by
  unfold State.writebackFailed
  split
  · exact .refl n s
  · split
    · exact s.failReload_step n _
    · exact s.faultArise_step n _

theorem State.writebackDone_step (s : State) (n : ChanId) (w : WbServes) : ChannelStep n s (s.writebackDone n w) := by
  unfold State.writebackDone
  split
  · exact s.endingDone_step n
  · exact .refl n s

theorem State.endWriteback_step (s : State) (n : ChanId) (f : Option RecWord) :
    ChannelStep n s (s.endWriteback n f) := by
  unfold State.endWriteback
  split
  · rename_i v hv
    refine ChannelStep.trans ?_ (State.settle_step _ n)
    have h : ChannelStep n s (s.modChan n fun c => c.modLine ValidLine.endWriteback) :=
      s.modLine_step n _
    split
    · exact h.trans (State.clearDone_step _ n)
    · split
      · exact (h.trans (State.claimRequested_step _ n _)).trans (State.writebackFailed_step _ n _ _)
      · split
        · exact h.trans (State.startFill_step _ n _)
        · exact (h.trans (State.claimRequested_step _ n _)).trans (State.writebackDone_step _ n _)
  · exact .refl n s

theorem State.withdrawClean_step (s : State) (n : ChanId) : ChannelStep n s (s.withdrawClean n) := by
  unfold State.withdrawClean
  split
  · split
    · exact (s.withdraw_step n _).trans (State.endWriteback_step _ n _)
    · exact .refl n s
  · exact .refl n s

/-! ## Transitions at a completion -/

theorem State.segmentTransition_step (s : State) (n : ChanId) (e : BreakEnd) :
    ChannelStep n s (s.segmentTransition n e) := by
  unfold State.segmentTransition
  split
  · exact s.enterEnding_step n _
  · split
    · exact s.enterHalted_step n
    · exact s.goToSegment_step n

theorem State.raiseSegments_step (s : State) (n : ChanId) : ChannelStep n s (s.raiseSegments n) :=
  s.modLine_step n _

theorem State.segmentEvent_step (s : State) (n : ChanId) (e : BreakEnd) : ChannelStep n s (s.segmentEvent n e) := by
  unfold State.segmentEvent
  simp only
  split
  · exact s.createEvent_step n _
  · exact .refl n s

theorem State.segmentEnd_step (s : State) (n : ChanId) (e : BreakEnd) : ChannelStep n s (s.segmentEnd n e) := by
  unfold State.segmentEnd
  simp only
  have h := (s.raiseSegments_step n).trans (State.segmentEvent_step _ n e)
  split
  · exact s.segmentTransition_step n e
  · split
    · exact h.trans (State.modCtl_step _ n _)
    · exact h.trans (State.segmentTransition_step _ n e)

theorem State.breakTransition_step (s : State) (n : ChanId) (e : BreakEnd) :
    ChannelStep n s (s.breakTransition n e) := by
  unfold State.breakTransition
  simp only
  split
  · exact s.enterFaulted_step n _
  · split
    · exact s.enterAborted_step n
    · split
      · exact s.segmentEnd_step n e
      · split
        · exact s.enterHalted_step n
        · exact s.setState_step n _

theorem State.linkTransition_step (s : State) (n : ChanId) (e : LinkEnd) : ChannelStep n s (s.linkTransition n e) := by
  unfold State.linkTransition
  simp only
  split
  · exact s.enterFaulted_step n _
  · split
    · exact (s.modWalker_step n _).trans (State.setState_step _ n _)
    · split
      · exact (s.modWalker_step n _).trans (State.enterFaulted_step _ n _)
      · split
        · exact (s.modWalker_step n _).trans (State.enterEnding_step _ n _)
        · exact (s.modWalker_step n _).trans (State.goToSegment_step _ n)

theorem State.installTransition_step (s : State) (n : ChanId) : ChannelStep n s (s.installTransition n) := by
  unfold State.installTransition
  split
  · exact s.enterFaulted_step n _
  · split
    · exact (s.modCtl_step n (fun k => { k with setup := none })).trans (State.enterFaulted_step _ n _)
    · exact s.enterByRecord_step n _

theorem State.heldTransition_step (s : State) (n : ChanId) (h : HeldCompletion) :
    ChannelStep n s (s.heldTransition n h) := by
  unfold State.heldTransition
  split
  · exact s.breakTransition_step n _
  · exact s.installTransition_step n
  · exact s.linkTransition_step n _
  · split
    · exact s.enterFaulted_step n _
    · exact s.createFinal_step n

theorem State.takePending_step (s : State) (n : ChanId) : ChannelStep n s (s.takePending n) := by
  unfold State.takePending
  simp only
  split
  · split
    · exact .refl n s
    · exact s.enterFaulted_step n _
  · exact .refl n s

theorem State.stallTransition_step (s : State) (n : ChanId) (ev : Event) : ChannelStep n s (s.stallTransition n ev) := by
  unfold State.stallTransition
  simp only
  split
  · exact s.enterOffFromEnding_step n
  · split
    · exact (s.modCtl_step n (fun k => { k with heldCompletion := none })).trans
        (State.heldTransition_step _ n _)
    · exact .refl n s

theorem State.endStall_step (s : State) (n : ChanId) (ev : Event) (room : s.queueRoom = true) :
    ChannelStep n s (s.endStall n ev) :=
  ((((s.modCtl_step n (fun k => { k with stalled := none })).trans
    (State.pushEvent_step _ n ev room)).trans (State.stallTransition_step _ n ev)).trans
    (State.takePending_step _ n)).trans (State.settle_step _ n)

end Sys2Proof.Machine
end

