-- ==== Sys2Proof/Laws/ChannelOps.lean ====
section
/-! SUPPORT. The channel operations of the descriptor, chain and break responses and of passing record writes as
ChannelSteps. -/

namespace Sys2Proof.Machine

/-! ## Fill -/

theorem State.installRefusal_step (s : State) (n : ChanId) (m : Bool) : ChannelStep n s (s.installRefusal n m) := by
  unfold State.installRefusal
  split
  · exact s.refuseSetup_step n _
  · exact .refl n s

theorem State.leaveLoading_step (s : State) (n : ChanId) : ChannelStep n s (s.leaveLoading n) := by
  unfold State.leaveLoading
  split
  · exact s.modCtl_step n _
  · exact (s.installTransition_step n).trans (State.settle_step _ n)

theorem Channel.install_agrees (c : Channel) (words : List Word) (o : FillOverlay) (w : CommandCode) :
    (c.install words o w).StatusAgrees := by
  intro _; rfl

theorem State.installFill_step (s : State) (n : ChanId) (words : List Word) (o : FillOverlay) (w : CommandCode) :
    ChannelStep n s (s.installFill n words o w) :=
  ((ChannelStep.of_modChan s fun _ => Channel.install_agrees _ _ _ _).trans (State.installRefusal_step _ n _)).trans
    (State.leaveLoading_step _ n)

theorem State.takeAtCompletion_step (s : State) (n : ChanId) (f : PendingFault) :
    ChannelStep n s (s.takeAtCompletion n f) := by
  unfold State.takeAtCompletion
  simp only
  split
  · exact s.pendFault_step n _
  · exact (s.enterFaulted_step n _).trans (State.settle_step _ n)

theorem State.failFill_turn (s : State) (n : ChanId) (i : Nat) (w : CommandCode) :
    ChannelTurn n s (s.failFill n i w) := by
  unfold State.failFill
  exact ((s.endGroup_turn n _).trans (State.orphan_turn _ n _)).trans (((State.invalidateLine_step _ n).trans
    (State.modCtl_step _ n (fun k => { k with mailbox := w }))).trans (State.takeAtCompletion_step _ n _)).turn

theorem State.fillResponse_turn (s : State) (n : ChanId) (i : Nat) (r : MemResponse) :
    ChannelTurn n s (s.fillResponse n i r) := by
  unfold State.fillResponse
  split
  · split
    · exact s.failFill_turn n _ _
    · split
      · exact (s.installFill_step n _ _ _).turn
      · exact (ChannelStep.of_modChan s fun _ => Channel.agrees_of_not_valid rfl).turn
  · exact .refl n s

/-! ## Writeback -/

theorem State.writebackResponse_step (s : State) (n : ChanId) (w : RecWord) (r : MemResponse) :
    ChannelStep n s (s.writebackResponse n w r) := by
  unfold State.writebackResponse
  split
  · split
    · simp only
      have h : ∀ (g : ValidLine → ValidLine), (∀ v, (g v).words = v.words) →
          ChannelStep n s (s.modChan n fun c => c.modLine g) :=
        fun g hg => s.modLine_step n g fun v => by rw [hg]
      split
      · refine ChannelStep.trans ?_ (State.endWriteback_step _ n _)
        exact h _ fun _ => rfl
      · exact h _ fun _ => rfl
    · exact .refl n s
  · exact .refl n s

/-! ## Link -/

theorem ValidLine.loadSegment_status (v : ValidLine) (words : List Word) (o : LinkOverlay) :
    (v.loadSegment words o).words.status = v.words.status := rfl

theorem State.completeLink_step (s : State) (n : ChanId) (a : Addr) (words : List Word) (o : LinkOverlay) :
    ChannelStep n s (s.completeLink n a words o) := by
  unfold State.completeLink
  simp only
  have h : ChannelStep n s (s.modChan n fun c =>
      { c.modLine fun v => v.loadSegment words o with walker := { c.walker with phase := .none } }) :=
    .of_modChan s fun g => by
      have k := Channel.modLine_agrees (fun v => v.loadSegment_status words o) g
      simpa only [Channel.StatusAgrees, Channel.lineValid, Channel.word] using k
  split
  · exact h.trans (State.modCtl_step _ n _)
  · exact (h.trans (State.linkTransition_step _ n _)).trans (State.settle_step _ n)

theorem State.failLink_turn (s : State) (n : ChanId) (a : Addr) (i : Nat) : ChannelTurn n s (s.failLink n a i) := by
  unfold State.failLink
  exact ((s.endGroup_turn n _).trans (State.orphan_turn _ n _)).trans ((State.modWalker_step _ n _).trans
    (State.takeAtCompletion_step _ n _)).turn

theorem State.linkResponse_turn (s : State) (n : ChanId) (i : Nat) (r : MemResponse) :
    ChannelTurn n s (s.linkResponse n i r) := by
  unfold State.linkResponse
  split
  · split
    · exact s.failLink_turn n _ _
    · split
      · exact (s.completeLink_step n _ _ _).turn
      · exact (s.modWalker_step n _).turn
  · exact .refl n s

/-! ## Passing writes -/

theorem State.checkStride_step (s : State) (n : ChanId) : ChannelStep n s (s.checkStride n) := by
  unfold State.checkStride
  split
  · exact s.faultArise_step n _
  · exact .refl n s

theorem State.writeControl_step (s : State) (n : ChanId) (l : Lanes) (data : Word) :
    ChannelStep n s (s.writeControl n l data) := by
  unfold State.writeControl
  simp only
  refine ChannelStep.trans ?_ (State.settle_step _ n)
  refine ChannelStep.trans ?_ (State.checkStride_step _ n)
  split
  · exact (s.modLine_step n _).trans (State.refuseSetup_step _ n _)
  · exact s.modLine_step n _

theorem Channel.writeWord_agrees {c : Channel} {w : RecWord} (hw : w ≠ .status) (l : Lanes) (data : Word)
    (a : c.StatusAgrees) : (c.writeWord w l data).StatusAgrees := by
  have k : (c.modLine fun v => v.writeWord w l data).StatusAgrees :=
    Channel.modLine_agrees (fun v => by cases w <;> simp_all [ValidLine.writeWord, Record.set]) a
  exact k

theorem State.writeValid_step (s : State) (n : ChanId) (w : RecWord) (l : Lanes) (data : Word) :
    ChannelStep n s (s.writeValid n w l data) := by
  cases w
  case control => exact s.writeControl_step n l data
  case status => exact s.modLine_step n _
  case done => exact s.modLine_step n _
  case segments => exact s.modLine_step n _
  case count => exact .of_modChan s (f := fun c => c.writeWord .count l data) (Channel.writeWord_agrees (by simp) l data)
  case address => exact .of_modChan s (f := fun c => c.writeWord .address l data) (Channel.writeWord_agrees (by simp) l data)
  case chain => exact .of_modChan s (f := fun c => c.writeWord .chain l data) (Channel.writeWord_agrees (by simp) l data)
  case cookie => exact .of_modChan s (f := fun c => c.writeWord .cookie l data) (Channel.writeWord_agrees (by simp) l data)

theorem State.recordWrite_step (s : State) (n : ChanId) (w : RecWord) (l : Lanes) (data : Word) :
    ChannelStep n s (s.recordWrite n w l data) := by
  unfold State.recordWrite
  split
  · split
    · exact s.offerCommand_step n _
    · exact .refl n s
  · exact .of_modChan s fun _ => Channel.agrees_of_not_valid rfl
  · exact (s.writeValid_step n w l data).trans (State.withdrawClean_step _ n)

theorem State.command_step (s : State) (n : ChanId) (code : CommandCode) : ChannelStep n s (s.command n code) := by
  unfold State.command
  split
  · exact s.offerCommand_step n code
  · exact .refl n s

/-! ## Break -/

theorem State.afterBreak_step (s : State) (n : ChanId) (e : BreakEnd) : ChannelStep n s (s.afterBreak n e) := by
  unfold State.afterBreak
  split
  · exact s.modCtl_step n _
  · split
    · exact s.modCtl_step n _
    · exact (s.breakTransition_step n e).trans (State.settle_step _ n)

/-- What a channel does after the answer of a group that has ended, in the words of the statements. -/
theorem State.afterBreak_groupEnds (s : State) (n : ChanId) (e : BreakEnd) : s.GroupEnds n e (s.afterBreak n e) := by
  unfold State.GroupEnds State.afterBreak Channel.isStalled
  refine ⟨fun h => by rw [if_pos h], fun h st => ?_, fun h st => ?_⟩
  · rw [if_neg (by rw [h]; decide), if_pos (Option.isSome_iff_ne_none.2 st)]
  · rw [if_neg (by rw [h]; decide), if_neg (by rw [st]; decide)]

theorem State.completeBreak_step (s : State) (n : ChanId) (r : BreakResult) : ChannelStep n s (s.completeBreak n r) := by
  unfold State.completeBreak
  simp only
  split
  · exact (s.closePort_step n _).trans (State.afterBreak_step _ n _)
  · exact .refl n s

theorem State.finishBreak_step (s : State) (n : ChanId) : ChannelStep n s (s.finishBreak n) := by
  unfold State.finishBreak
  split
  · split
    · exact s.completeBreak_step n _
    · exact .refl n s
  · exact .refl n s

theorem State.modProgress_step (s : State) (n : ChanId) (f : BreakProgress → BreakProgress) :
    ChannelStep n s (s.modProgress n f) :=
  s.modParts_step n _ (fun c => by split <;> rfl) (fun c => by split <;> rfl)

theorem State.setResult_step (s : State) (n : ChanId) (r : BreakResult) : ChannelStep n s (s.setResult n r) :=
  s.modProgress_step n _

theorem ValidLine.undo_status (v : ValidLine) (g : BreakProgress) : (v.undo g).words.status = v.words.status := by
  unfold ValidLine.undo
  simp only [ValidLine.put, Record.set]
  split <;> split <;> rfl

theorem State.undoBreak_step (s : State) (n : ChanId) : ChannelStep n s (s.undoBreak n) :=
  .of_modChan s fun a => by
    split
    · split
      · exact Channel.modLine_agrees (fun v => v.undo_status _) a
      · exact a
    · exact a

theorem State.breakFails_turn (s : State) (n : ChanId) (c : FaultCode) (a : Addr) :
    ChannelTurn n s (s.breakFails n c a) :=
  (s.endGroup_turn n _).trans (((State.undoBreak_step _ n).trans (State.setResult_step _ n _)).trans
    (State.faultArise_step _ n _)).turn

theorem Channel.stepLine_agrees {c : Channel} (req : DeviceRequest) (a : c.StatusAgrees) :
    (c.stepLine req).StatusAgrees := by
  unfold Channel.stepLine
  refine Channel.modLine_agrees (fun v => ?_) a
  simp only [ValidLine.put, Record.set]
  split <;> rfl

theorem State.stepBreak_step (s : State) (n : ChanId) (req : DeviceRequest) (a : Addr) :
    ChannelStep n s (s.stepBreak n req a) := by
  unfold State.stepBreak
  simp only
  have h : ChannelStep n s (s.modChan n fun c =>
      { c.stepLine req with port := .granted req ((s.chan n).progressAtGrant req a) }) :=
    .of_modChan s fun g => by
      have k := Channel.stepLine_agrees req g
      simpa only [Channel.StatusAgrees, Channel.lineValid, Channel.word] using k
  split
  · exact h.trans (State.faultArise_step _ n _)
  · exact h

theorem State.breakEndsAtGrant_step (s : State) (n : ChanId) (c : FaultCode) (a : Addr) :
    ChannelStep n s (s.breakEndsAtGrant n c a) := (s.faultArise_step n _).trans (State.completeBreak_step _ n _)

theorem Channel.atGrant_agrees {c : Channel} (req : DeviceRequest) (q : BitVec 12) (a : c.StatusAgrees) :
    (c.atGrant req q).StatusAgrees := by
  unfold Channel.atGrant
  simp only
  split
  · exact Channel.sync_agrees _
  · exact a

theorem State.dataResponse_turn (s : State) (n : ChanId) (r : MemResponse) : ChannelTurn n s (s.dataResponse n r) := by
  unfold State.dataResponse
  split
  · split
    · exact ((s.setResult_step n _).trans (State.finishBreak_step _ n)).turn
    · exact (s.breakFails_turn n _ _).trans (State.finishBreak_step _ n).turn
  · exact .refl n s

theorem State.strictResponse_step (s : State) (n : ChanId) (w : RecWord) (r : MemResponse) :
    ChannelStep n s (s.strictResponse n w r) := by
  unfold State.strictResponse
  simp only
  refine ChannelStep.trans ?_ (State.finishBreak_step _ n)
  split
  · exact (s.modLine_step n _).trans (State.faultArise_step _ n _)
  · exact .refl n s

theorem State.checkCellValue_turn (s : State) (n : ChanId) (req : DeviceRequest) (v : Word) :
    ChannelTurn n s (s.checkCellValue n req v) := by
  unfold State.checkCellValue
  split
  · exact (s.breakFails_turn n _ _).trans (State.finishBreak_step _ n).turn
  · split
    · exact (s.breakFails_turn n _ _).trans (State.finishBreak_step _ n).turn
    · exact (s.modProgress_step n _).turn.trans (State.release_turn _ n _ _)

theorem State.arriveIdle_step (s : State) (n : ChanId) (req : DeviceRequest) : ChannelStep n s (s.arriveIdle n req) := by
  unfold State.arriveIdle
  simp only
  split
  · exact s.send_step n _
  · exact s.send_step n _
  · exact s.send_step n _
  · exact s.send_step n _
  · split
    · exact s.send_step n _
    · split
      · exact s.modParts_step n _
      · exact s.acceptRequest_step n _
  · exact s.modParts_step n _

theorem State.arriveSecond_step (s : State) (n : ChanId) : ChannelStep n s (s.arriveSecond n) := by
  unfold State.arriveSecond
  split
  · exact s.faultArise_step n _
  · exact ((s.closePort_step n _).trans (State.faultArise_step _ n _)).trans (State.settle_step _ n)

theorem State.arrive_step (s : State) (n : ChanId) (req : DeviceRequest) : ChannelStep n s (s.arrive n req) := by
  unfold State.arrive
  split
  · exact s.arriveIdle_step n req
  · exact s.arriveSecond_step n

/-! ## The timer, CHANNEL_RESET -/

theorem State.quietExpires_step (s : State) (n : ChanId) : ChannelStep n s (s.quietExpires n) := by
  unfold State.quietExpires
  split
  · exact (s.modParts_step n _).trans (State.triggerPlain_step _ n)
  · exact .refl n s

theorem State.cancelPort_step (s : State) (n : ChanId) : ChannelStep n s (s.cancelPort n) := by
  unfold State.cancelPort
  split
  · exact .refl n s
  · exact s.closePort_step n _

end Sys2Proof.Machine
end

