-- ==== Sys2Proof/Laws/PartStep.lean ====
section
/-! SUPPORT. What every operation of the part keeps (PartStep): the command queue, the messages already sent, the
capacities, and, within the capacities, the ring law, the cell law and the STATUS law. One lemma per shared operation. -/

namespace Sys2Proof.Machine

/-- What an operation keeps. -/
structure PartStep (s t : State) : Prop where
  pending : t.pending = s.pending
  out : s.out <+: t.out
  caps : s.Capacities → t.Capacities
  ring : s.Capacities → s.RingLaw → t.RingLaw
  cells : s.Capacities → s.CellLaw → t.CellLaw
  status : s.Capacities → s.StatusLaw → t.StatusLaw

theorem PartStep.refl (s : State) : PartStep s s :=
  ⟨rfl, List.prefix_rfl, id, fun _ => id, fun _ => id, fun _ => id⟩

theorem PartStep.trans {s t u : State} (h : PartStep s t) (k : PartStep t u) : PartStep s u :=
  ⟨k.pending.trans h.pending, h.out.trans k.out, fun c => k.caps (h.caps c), fun c r => k.ring (h.caps c) (h.ring c r),
    fun c r => k.cells (h.caps c) (h.cells c r), fun c r => k.status (h.caps c) (h.status c r)⟩

/-! ## The parts of the laws -/

theorem RingLaw.of_grow {s t : State} (hm : t.mgmt = s.mgmt) (h : EventsGrow s t) (r : s.RingLaw) : t.RingLaw := by
  obtain ⟨more, phase, e, -, p⟩ := h
  obtain ⟨r₁, ⟨r₂, r₃⟩, r₄⟩ := r
  have hN : t.ringSlots = s.ringSlots := by simp [State.ringSlots, hm]
  have ho : t.events.occupancy = s.events.occupancy := by simp [e, EventUnit.occupancy]
  have hp : t.events.postPhase = phase := by simp [e]
  refine ⟨by rw [ho, hN]; exact r₁, ⟨fun c => ?_, fun q hq => ?_⟩, fun d => ?_⟩
  · rw [ho, hN]
    rcases p with p | p
    · exact r₂ (by rw [← p, ← hp]; exact c)
    · exact p.2.1
  · simp only [e] at hq ⊢
    exact r₃ q hq
  · rw [hm] at d
    obtain ⟨a, b, c, f, g, i⟩ := r₄ d
    rcases p with p | p
    · simp only [e, hm]
      exact ⟨a, by rw [p]; exact b, c, f, g, i⟩
    · exact absurd d p.2.2

/-- No entry is newly in LOADING or LIVE, none has moved, and the window stands. -/
def CellsShrink (s t : State) : Prop :=
  ∀ k, (t.cell k).isRegistered = true → (s.cell k).isRegistered = true ∧ (t.cell k).address = (s.cell k).address

theorem CellsShrink.refl (s : State) : CellsShrink s s := fun _ h => ⟨h, rfl⟩

theorem CellsShrink.trans {s t u : State} (h : CellsShrink s t) (k : CellsShrink t u) : CellsShrink s u :=
  fun j hj => ⟨(h j (k j hj).1).1, (k j hj).2.trans (h j (k j hj).1).2⟩

theorem CellsShrink.of_eq {s t : State} (h : t.cells = s.cells) : CellsShrink s t := by
  intro k hk
  simp only [State.cell, h] at hk ⊢
  exact ⟨hk, trivial⟩

theorem State.inWindow_congr {s t : State} (h : t.mgmt = s.mgmt) (a : Addr) : t.inWindow a = s.inWindow a := by
  have hl : t.windowLength = s.windowLength := by simp only [State.windowLength, State.ringSlots, h]
  unfold State.inWindow State.windowWord
  rw [hl, h]

theorem CellLaw.of_shrink {s t : State} (hm : t.mgmt = s.mgmt) (h : CellsShrink s t) (c : s.CellLaw) : t.CellLaw := by
  obtain ⟨c₁, c₂, c₃⟩ := c
  refine ⟨fun j k jk hj hk => ?_, fun k hk => ?_, fun d => ?_⟩
  · rw [(h j hj).2, (h k hk).2]
    exact c₁ j k jk (h j hj).1 (h k hk).1
  · rw [State.inWindow_congr hm, (h k hk).2]
    exact c₂ k (h k hk).1
  · rw [hm] at d ⊢
    refine ⟨(c₃ d).1, fun k => ?_⟩
    cases hk : (t.cell k).isRegistered
    · rfl
    · have := (h k hk).1; rw [(c₃ d).2 k] at this; cases this

theorem StatusLaw.of_channels {s t : State} (h : t.channels = s.channels) (a : s.StatusLaw) : t.StatusLaw := by
  intro n
  simp only [State.chan, h]
  exact a n

/-- An operation that leaves the registers and the channels alone, moves no cell in, and lets the queue grow. -/
theorem PartStep.of_grow {s t : State} (pass : t.pass = s.pass)
    (inflight : t.mport.inflight.length ≤ s.mport.inflight.length) (run : t.arb.breakRun = s.arb.breakRun)
    (ages : (∀ c ∈ s.arb.upkeep, c.age ≤ 16) → ∀ c ∈ t.arb.upkeep, c.age ≤ 16) (chans : t.channels = s.channels)
    (cells : CellsShrink s t) (hm : t.mgmt = s.mgmt) (grow : EventsGrow s t) (pending : t.pending = s.pending)
    (out : s.out <+: t.out) : PartStep s t := by
  refine ⟨pending, out, fun c => ?_, fun _ => RingLaw.of_grow hm grow, fun _ => CellLaw.of_shrink hm cells, fun _ => StatusLaw.of_channels chans⟩
  obtain ⟨a, b, d, e, f⟩ := c
  obtain ⟨more, phase, ev, cnt, -⟩ := grow
  exact ⟨by rw [pass]; exact a, inflight.trans b, cnt d, by rw [run]; exact e, ages f⟩

theorem ChannelTurn.toPart {n : ChanId} {s t : State} (h : ChannelTurn n s t) : PartStep s t := by
  obtain ⟨h, hl⟩ := h
  refine ⟨h.pending, h.out, fun c => ?_, fun _ => RingLaw.of_grow h.mgmt h.events,
    fun _ => CellLaw.of_shrink h.mgmt (.of_eq h.cells), fun _ a m => ?_⟩
  · obtain ⟨a, b, d, e, f⟩ := c
    obtain ⟨more, phase, ev, cnt, -⟩ := h.events
    exact ⟨by have := h.pass; simp only at this; rw [this]; exact a, by rw [hl]; exact b, cnt d,
      by have := h.breakRun; simp only at this; rw [this]; exact e, h.ages f⟩
  · by_cases hm : m = n
    · subst hm; exact h.status (a m)
    · have := h.others m hm
      simp only [State.chan] at this ⊢
      rw [this]; exact a m

theorem ChannelStep.toPart {n : ChanId} {s t : State} (h : ChannelStep n s t) : PartStep s t := h.turn.toPart

/-! ## Claims, accesses, the lock -/

theorem State.raise_part (s : State) (k : UpkeepKind) : PartStep s (s.raise k) := (s.raise_step 0 k).toPart

theorem State.withdraw_part (s : State) (p : UpkeepKind → Bool) : PartStep s (s.withdraw p) := (s.withdraw_step 0 p).toPart

theorem State.send_part (s : State) (m : PortMessage) : PartStep s (s.send m) := (s.send_step 0 m).toPart

theorem State.orphan_part (s : State) (p : Owner → Bool) : PartStep s (s.orphan p) := (s.orphan_turn 0 p).toPart

theorem State.endGroup_part (s : State) (g : GroupSource) : PartStep s (s.endGroup g) := (s.endGroup_turn 0 g).toPart

theorem State.release_part (s : State) (g : GroupSource) (l : List Access) : PartStep s (s.release g l) :=
  (s.release_turn 0 g l).toPart

theorem State.hasRoom_iff (s : State) : s.hasRoom = true ↔ s.mport.inflight.length < 4 := by
  unfold State.hasRoom
  rw [decide_eq_true_iff]
  exact Iff.rfl

theorem State.setLock_part (s : State) (l : Option Group) :
    PartStep s { s with mport := { s.mport with lock := l } } :=
  .of_grow rfl (Nat.le_refl _) rfl id rfl (.of_eq rfl) rfl (.of_eq rfl) rfl List.prefix_rfl

theorem State.issue_part (s : State) (a : Access) (room : s.hasRoom = true) : PartStep s (s.issue a) := by
  refine ⟨rfl, ⟨[a.message], rfl⟩, fun c => ⟨c.1, ?_, c.2.2⟩, fun _ => RingLaw.of_grow rfl (.of_eq rfl),
    fun _ => CellLaw.of_shrink rfl (.of_eq rfl), fun _ => StatusLaw.of_channels rfl⟩
  have := s.hasRoom_iff.1 room
  simp only [State.issue, List.length_append, List.length_singleton]
  omega

theorem State.startGroup_part (s : State) (src : GroupSource) (l : List Access) (f : Option Fetch)
    (room : s.hasRoom = true) : PartStep s (s.startGroup src l f) := by
  cases l with
  | nil => exact .refl s
  | cons a l => exact (s.issue_part a room).trans (State.setLock_part _ _)

/-! ## The Pass Queue -/

theorem PassQueue.acceptOffered_length (q : PassQueue) (l : List Request) (h : q.entries.length ≤ 8) :
    (q.acceptOffered l).entries.length ≤ 8 := by
  induction l generalizing q with
  | nil => exact h
  | cons r l ih =>
    unfold PassQueue.acceptOffered
    split
    · rename_i k
      refine ih _ ?_
      simp only [PassQueue.accept, List.length_append, List.length_singleton]
      simp only [Config.passCapacity] at k
      omega
    · exact h

theorem dropAnswered_length (l : List PassEntry) : (dropAnswered l).length ≤ l.length := by
  induction l with
  | nil => exact Nat.le_refl _
  | cons e l ih =>
    unfold dropAnswered
    split
    · exact ih.trans (Nat.le_succ _)
    · exact Nat.le_refl _

/-- A change of the Pass Queue alone. -/
theorem State.setPass_part (s : State) (q : PassQueue) (o : List PortMessage)
    (h : s.pass.entries.length ≤ 8 → q.entries.length ≤ 8) : PartStep s { s with pass := q, out := s.out ++ o } :=
  ⟨rfl, ⟨o, rfl⟩, fun c => ⟨h c.1, c.2⟩, fun _ => RingLaw.of_grow rfl (.of_eq rfl), fun _ => CellLaw.of_shrink rfl (.of_eq rfl),
    fun _ => StatusLaw.of_channels rfl⟩

theorem State.offerRequest_part (s : State) (r : Request) : PartStep s (s.offerRequest r) := by
  have := s.setPass_part (s.pass.acceptOffered (s.pass.offered ++ [r])) [] (PassQueue.acceptOffered_length _ _)
  rw [List.append_nil] at this
  exact this

theorem State.deliver_part (s : State) : PartStep s s.deliver :=
  s.setPass_part _ _ fun h => PassQueue.acceptOffered_length _ _ ((dropAnswered_length _).trans h)

theorem State.modEntry_part (s : State) (id : Nat) (f : PassEntry → PassEntry) : PartStep s (s.modEntry id f) := by
  have := s.setPass_part { s.pass with entries := s.pass.entries.map fun e => if e.id = id then f e else e } []
    (by simp)
  rw [List.append_nil] at this
  exact this

theorem State.answerEntry_part (s : State) (id : Nat) (r : PassResponse) : PartStep s (s.answerEntry id r) :=
  (s.modEntry_part id _).trans (State.deliver_part _)

/-! ## Cells that move in nowhere -/

theorem CellsShrink.of_modCell {s : State} {k : CellId} {f : Cell → Cell}
    (h : (f (s.cell k)).isRegistered = true →
      (s.cell k).isRegistered = true ∧ (f (s.cell k)).address = (s.cell k).address) :
    CellsShrink s (s.modCell k f) := by
  intro j hj
  by_cases hk : j = k
  · subst hk
    rw [State.cell_modCell_self] at hj ⊢
    exact h hj
  · rw [State.cell_modCell_other s f hk] at hj ⊢
    exact ⟨hj, rfl⟩

/-- A change of cell k that brings it into LOADING or LIVE only from there, at the same address. -/
theorem State.modCell_part (s : State) (k : CellId) (f : Cell → Cell)
    (h : (f (s.cell k)).isRegistered = true →
      (s.cell k).isRegistered = true ∧ (f (s.cell k)).address = (s.cell k).address) :
    PartStep s (s.modCell k f) :=
  .of_grow rfl (Nat.le_refl _) rfl id rfl (.of_modCell h) rfl (.of_eq rfl) rfl List.prefix_rfl

/-- A change of cell k's marks or of its held occurrence. -/
theorem State.modMarks_part (s : State) (k : CellId) (f : Cell → Cell)
    (hs : ∀ c, (f c).cstate = c.cstate := by intro _; rfl) (hc : ∀ c, (f c).copy = c.copy := by intro _; rfl) :
    PartStep s (s.modCell k f) :=
  s.modCell_part k f fun h => ⟨by simpa only [Cell.isRegistered, hs] using h, by simp only [Cell.address, hc]⟩

theorem State.pushEvent_part (s : State) (ev : Event) (room : s.queueRoom = true) : PartStep s (s.pushEvent ev) :=
  (s.pushEvent_step 0 ev room).toPart

theorem State.raisePost_part (s : State) : PartStep s s.raisePost := (s.raisePost_step 0).toPart

theorem State.enterOccurrence_part (s : State) (k : CellId) (o : Occurrence) (room : s.queueRoom = true) :
    PartStep s (s.enterOccurrence k o) :=
  (s.modMarks_part k fun c => { c with queuedMark := true }).trans (State.pushEvent_part _ _ room)

theorem State.cellOccurs_part (s : State) (k : CellId) (o : OccKind) (d : Word) : PartStep s (s.cellOccurs k o d) := by
  unfold State.cellOccurs
  split
  · exact .refl s
  · split
    · exact s.modMarks_part k _
    · simp only
      split
      · rename_i h
        exact s.enterOccurrence_part k _ (by simp only [Bool.and_eq_true] at h; exact h.2)
      · exact s.modMarks_part k _

theorem State.markQueued_part (s : State) (ev : Event) (m : Bool) : PartStep s (s.markQueued ev m) := by
  unfold State.markQueued
  split
  · exact s.modMarks_part _ _
  · exact .refl s

theorem State.cellWork_part (s : State) (k : CellId) : PartStep s (s.cellWork k) := by
  unfold State.cellWork
  split
  · exact .refl s
  · split
    · rename_i h
      refine (s.modCell_part k _ fun _ => ⟨?_, rfl⟩).trans (State.raise_part _ _)
      simp only [Cell.loadDue] at h
      simp only [Cell.isRegistered]
      split at h
      · rename_i e; simp [e]
      · cases h
    · split
      · exact s.raise_part _
      · exact .refl s

theorem State.abandonLoad_part (s : State) (k : CellId) : PartStep s (s.abandonLoad k) :=
  (s.withdraw_part _).trans (State.orphan_part _ _)

theorem State.rejectCell_part (s : State) (k : CellId) (r : RejectReason) : PartStep s (s.rejectCell k r) := by
  unfold State.rejectCell
  refine PartStep.trans (PartStep.trans ((s.abandonLoad_part k).trans ?_) (State.cellOccurs_part _ k _ _))
    (State.cellWork_part _ k)
  exact State.modCell_part _ k _ fun h => by cases h

theorem State.turnCellOff_part (s : State) (k : CellId) : PartStep s (s.turnCellOff k) := by
  unfold State.turnCellOff
  refine PartStep.trans ((s.abandonLoad_part k).trans ?_) (State.cellWork_part _ k)
  exact State.modCell_part _ k _ fun h => by cases h

theorem State.restartLoad_part (s : State) (k : CellId) : PartStep s (s.restartLoad k) := by
  unfold State.restartLoad
  split
  · rename_i h
    refine ((s.abandonLoad_part k).trans (State.modCell_part _ k _ fun _ => ⟨?_, rfl⟩)).trans (State.cellWork_part _ k)
    simp only [State.abandonLoad, State.cell_orphan, State.cell_withdraw, Cell.isRegistered, h]
  · exact .refl s

theorem State.cellFieldWrite_part (s : State) (k : CellId) (w : CellWord) (l : Lanes) (d : Word) :
    PartStep s (s.cellFieldWrite k w l d) := by
  unfold State.cellFieldWrite
  split
  · rename_i h
    exact s.modCell_part k _ fun _ => ⟨by simp only [Cell.isRegistered, h], rfl⟩
  · rename_i h
    split
    · exact s.rejectCell_part k _
    · exact s.modCell_part k _ fun _ => ⟨by simp only [Cell.isRegistered, h], rfl⟩
  · exact .refl s

theorem State.completeLoad_part (s : State) (k : CellId) (words : List Word) (o : CellOverlay)
    (h : (s.cell k).isRegistered = true) : PartStep s (s.completeLoad k words o) := by
  unfold State.completeLoad
  split
  · exact s.rejectCell_part k _
  · exact (s.modCell_part k _ fun _ => ⟨h, rfl⟩).trans (State.cellWork_part _ k)

theorem State.cell_endGroup (s : State) (g : GroupSource) (k : CellId) : (s.endGroup g).cell k = s.cell k := by
  unfold State.endGroup
  split <;> rfl

theorem State.cellLoadResponse_part (s : State) (k : CellId) (r : MemResponse) :
    PartStep s (s.cellLoadResponse k r) := by
  unfold State.cellLoadResponse
  split
  · rename_i h
    have reg : (s.cell k).isRegistered = true := by simp only [Cell.isRegistered, h]
    split
    · exact (s.endGroup_part _).trans (State.completeLoad_part _ k _ _ (by rw [State.cell_endGroup]; exact reg))
    · split
      · exact s.completeLoad_part k _ _ reg
      · exact s.modCell_part k _ fun _ => ⟨reg, rfl⟩
  · exact .refl s

theorem State.cellOccurs_of_noCells {s : State} (h : s.NoCells) (k : CellId) (o : OccKind) (d : Word) :
    s.cellOccurs k o d = s := if_pos (.inl h)

theorem State.markAtLimit_of_noCells {s : State} (h : s.NoCells) (k : CellId) (b : Bool) : s.markAtLimit k b = s := if_pos h

theorem State.markAtLimit_part (s : State) (k : CellId) (b : Bool) : PartStep s (s.markAtLimit k b) := by
  unfold State.markAtLimit
  split
  · exact .refl s
  · exact s.modMarks_part k _

theorem State.fetched_part (s : State) (k : CellId) (f : CellFields) (v : Word) : PartStep s (s.fetched k f v) := by
  unfold State.fetched
  split
  · simp only
    split
    · exact (s.markAtLimit_part k _).trans (State.cellOccurs_part _ k _ _)
    · exact s.markAtLimit_part k _
  · simp only
    split
    · exact (s.markAtLimit_part k _).trans (State.cellOccurs_part _ k _ _)
    · exact s.markAtLimit_part k _
  · exact s.markAtLimit_part k _

theorem State.cellFault_part (s : State) (k : CellId) : PartStep s (s.cellFault k) := s.cellOccurs_part k _ _

/-! ## Cells that move in (R121) -/

/-- Cell k may stand in LOADING or LIVE where it is: it meets R121 there, or it is not registered. -/
def State.cellFits (s : State) (k : CellId) : Prop :=
  (s.cell k).isRegistered = true →
    s.inWindow (s.cell k).address = false ∧
    ∀ j, j ≠ k → (s.cell j).isRegistered = true → (s.cell j).address ≠ (s.cell k).address

theorem mem_cellIds : ∀ k : CellId, k ∈ cellIds := by decide

theorem State.addressCheck_none {s : State} {k : CellId} {a : Addr} (h : s.addressCheck k a = none) :
    s.inWindow a = false ∧ ∀ j, j ≠ k → (s.cell j).isRegistered = true → (s.cell j).address ≠ a := by
  unfold State.addressCheck at h
  split at h
  · cases h
  · rename_i w
    split at h
    · cases h
    · rename_i d
      refine ⟨by simpa using w, fun j hj hr ha => d ?_⟩
      unfold State.cellDuplicate
      rw [List.any_eq_true]
      refine ⟨j, mem_cellIds j, ?_⟩
      simp [hj, hr, ha]

/-- The cells other than k, and k if it fits: the cell law in a state that is not DISABLED. -/
theorem CellLaw.of_fits {s t : State} {k : CellId} (hm : t.mgmt = s.mgmt) (hd : s.mgmt.windowState ≠ .disabled)
    (ho : ∀ j, j ≠ k → (t.cell j).isRegistered = true →
      (s.cell j).isRegistered = true ∧ (t.cell j).address = (s.cell j).address)
    (hk : t.cellFits k) (c : s.CellLaw) : t.CellLaw := by
  obtain ⟨c₁, c₂, -⟩ := c
  refine ⟨fun i j ij hi hj => ?_, fun j hj => ?_, fun d => absurd (by rw [hm] at d; exact d) hd⟩
  · by_cases ik : i = k
    · subst ik
      exact fun e => (hk hi).2 j (Ne.symm ij) hj e.symm
    · by_cases jk : j = k
      · subst jk
        exact (hk hj).2 i ij hi
      · rw [(ho i ik hi).2, (ho j jk hj).2]
        exact c₁ i j ij (ho i ik hi).1 (ho j jk hj).1
  · by_cases jk : j = k
    · subst jk
      exact (hk hj).1
    · rw [State.inWindow_congr hm, (ho j jk hj).2]
      exact c₂ j (ho j jk hj).1

theorem State.cellFits_of_check {s : State} {k : CellId} (h : s.addressCheck k (s.cell k).address = none) :
    s.cellFits k := fun _ => State.addressCheck_none h

end Sys2Proof.Machine
end

