-- ==== Sys2Proof/Laws/PartOps.lean ====
section
/-! SUPPORT. PartStep for the operations that move a cell in (R120, R133), for the Event Unit's (R151 to R162), for the
grants (R139) and for the Management Unit's. -/

namespace Sys2Proof.Machine

/-! ## Cells that move in -/

/-- A change of cell k alone, in a state that is not DISABLED, after which the entry fits. -/
theorem PartStep.of_cell {s t u : State} {k : CellId} (h : PartStep t u)
    (hd : s.CellLaw → s.mgmt.windowState ≠ .disabled)
    (pass : t.pass = s.pass) (mport : t.mport = s.mport) (arb : t.arb = s.arb) (chans : t.channels = s.channels)
    (ho : ∀ j, j ≠ k → t.cell j = s.cell j) (hm : t.mgmt = s.mgmt) (ev : t.events = s.events)
    (pending : t.pending = s.pending) (out : t.out = s.out) (fits : u.CellLaw ∨ t.cellFits k) : PartStep s u := by
  have caps : s.Capacities → t.Capacities := fun c => by
    simp only [State.Capacities, pass, mport, arb, ev]; exact c
  have law : t.cellFits k → s.CellLaw → t.CellLaw := fun f c =>
    CellLaw.of_fits hm (hd c) (fun j hj r => by rw [ho j hj] at r ⊢; exact ⟨r, rfl⟩) f c
  refine ⟨h.pending.trans pending, by rw [← out]; exact h.out, fun c => h.caps (caps c),
    fun c r => h.ring (caps c) (RingLaw.of_grow hm (.of_eq ev) r), fun c r => ?_,
    fun c r => h.status (caps c) (StatusLaw.of_channels chans r)⟩
  rcases fits with f | f
  · exact f
  · exact h.cells (caps c) (law f r)

/-- The states that a cell's own operations pass through differ in cell k only. -/
theorem State.modCell_other_cell (s : State) (k : CellId) (f : Cell → Cell) (j : CellId) (h : j ≠ k) :
    (s.modCell k f).cell j = s.cell j := State.cell_modCell_other s f h

/-- A rejected entry stands nowhere. -/
theorem State.rejectCell_from {s t : State} {k : CellId} (hd : s.mgmt.windowState ≠ .disabled)
    (pass : t.pass = s.pass) (mport : t.mport = s.mport) (arb : t.arb = s.arb) (chans : t.channels = s.channels)
    (ho : ∀ j, j ≠ k → t.cell j = s.cell j) (hm : t.mgmt = s.mgmt) (ev : t.events = s.events)
    (pending : t.pending = s.pending) (out : t.out = s.out) (x : CellState) (hx : ∀ c : Cell,
      ({ c with cstate := x, statusDue := true } : Cell).isRegistered = false) (y : State)
    (hy : PartStep ((t.abandonLoad k).setCstate k x) y) : PartStep s y := by
  have caps : s.Capacities → t.Capacities := fun c => by
    simp only [State.Capacities, pass, mport, arb, ev]; exact c
  have st : PartStep t ((t.abandonLoad k).setCstate k x) :=
    (t.abandonLoad_part k).trans (State.modCell_part _ k _ fun h => by rw [hx] at h; cases h)
  refine ⟨(st.trans hy).pending.trans pending, by rw [← out]; exact (st.trans hy).out, fun c => (st.trans hy).caps (caps c),
    fun c q => (st.trans hy).ring (caps c) (RingLaw.of_grow hm (.of_eq ev) q), fun c q => hy.cells (st.caps (caps c)) ?_,
    fun c q => (st.trans hy).status (caps c) (StatusLaw.of_channels chans q)⟩
  refine CellLaw.of_fits (s := s) (k := k) hm hd (fun j hj rj => ?_) (fun rk => ?_) q
  · have e : ((t.abandonLoad k).setCstate k x).cell j = s.cell j := by
      unfold State.setCstate
      rw [State.cell_modCell_other _ _ hj]
      exact ho j hj
    rw [e] at rj ⊢
    exact ⟨rj, rfl⟩
  · unfold State.setCstate at rk
    rw [State.cell_modCell_self, hx] at rk
    cases rk

theorem State.cellAddrWrite_part (s : State) (k : CellId) (l : Lanes) (d : Word)
    (hd : s.mgmt.windowState ≠ .disabled) : PartStep s (s.cellAddrWrite k l d) := by
  unfold State.cellAddrWrite
  simp only
  generalize ht : (s.modCell k fun c => { c with copy := lay l d c.copy }) = t
  have ho : ∀ j, j ≠ k → t.cell j = s.cell j := fun j hj => by rw [← ht]; exact State.cell_modCell_other s _ hj
  have hk : (t.cell k).cstate = (s.cell k).cstate := by rw [← ht, State.cell_modCell_self]
  have e₁ : t.pass = s.pass := by rw [← ht]; rfl
  have e₂ : t.mport = s.mport := by rw [← ht]; rfl
  have e₃ : t.arb = s.arb := by rw [← ht]; rfl
  have e₄ : t.channels = s.channels := by rw [← ht]; rfl
  have e₅ : t.mgmt = s.mgmt := by rw [← ht]; rfl
  have e₆ : t.events = s.events := by rw [← ht]; rfl
  have e₇ : t.pending = s.pending := by rw [← ht]; rfl
  have e₈ : t.out = s.out := by rw [← ht]; rfl
  have rej : ∀ r, PartStep s (t.rejectCell k r) := fun r =>
    State.rejectCell_from hd e₁ e₂ e₃ e₄ ho e₅ e₆ e₇ e₈ (.rejected r) (fun _ => rfl) _
      ((State.cellOccurs_part _ k _ _).trans (State.cellWork_part _ k))
  have same : t.cellFits k → PartStep s t := fun f => PartStep.of_cell (.refl t) (fun _ => hd) e₁ e₂ e₃ e₄ ho e₅ e₆ e₇ e₈ (.inr f)
  split
  · rename_i h _
    exact same fun r => by simp only [Cell.isRegistered, h] at r; cases r
  · exact State.rejectCell_from hd e₁ e₂ e₃ e₄ ho e₅ e₆ e₇ e₈ .off (fun _ => rfl) _
      (State.cellWork_part _ k)
  · rename_i h _
    split
    · rename_i ha
      refine ⟨e₇, by rw [e₈], fun c => ?_, fun c => RingLaw.of_grow e₅ (.of_eq e₆), fun c => CellLaw.of_shrink e₅ ?_,
        fun c => StatusLaw.of_channels e₄⟩
      · simp only [State.Capacities, e₁, e₂, e₃, e₆]; exact c
      · intro j hj
        by_cases jk : j = k
        · subst jk
          exact ⟨by simpa only [Cell.isRegistered, hk] using hj, ha⟩
        · rw [ho j jk] at hj ⊢
          exact ⟨hj, rfl⟩
    · unfold State.moveCell
      split
      · exact rej _
      · rename_i hc
        exact same (State.cellFits_of_check hc)
  · unfold State.commitCell
    split
    · exact rej _
    · rename_i hc
      split
      · exact (same (State.cellFits_of_check hc)).trans (t.restartLoad_part k)
      · refine PartStep.of_cell (State.cellWork_part
          (t.modCell k fun c => { c with cstate := .loading .due, atLimit := false, statusDue := true }) k) (fun _ => hd)
          e₁ e₂ e₃ e₄ (fun j hj => (State.cell_modCell_other t _ hj).trans (ho j hj)) e₅ e₆ e₇ e₈ (.inr ?_)
        intro _
        obtain ⟨w, f⟩ := State.addressCheck_none hc
        rw [State.cell_modCell_self]
        refine ⟨w, fun j hj hr => ?_⟩
        rw [State.cell_modCell_other t _ hj] at hr ⊢
        exact f j hj hr

/-- A sequence is under way: the window is not DISABLED. -/
theorem CellLaw.not_disabled {s : State} {q : SeqStep} (hq : s.mgmt.sequence = some q) (c : s.CellLaw) :
    s.mgmt.windowState ≠ .disabled := fun d => by
  have := (c.2.2 d).1
  rw [hq] at this
  cases this

theorem RingLaw.not_disabled {s : State} {q : SeqStep} (hq : s.mgmt.sequence = some q) (r : s.RingLaw) :
    s.mgmt.windowState ≠ .disabled := fun d => by
  have := (r.2.2 d).2.2.2.2.2
  rw [hq] at this
  cases this

theorem State.registerCell_part (s : State) (k : CellId) (words : List Word) {q : SeqStep}
    (hq : s.mgmt.sequence = some q) : PartStep s (s.registerCell k words) := by
  unfold State.registerCell
  simp only
  generalize ht : (s.modCell k fun c => { c with copy := words.getD 0 0#32, cstate := .off, atLimit := false }) = t
  have h : PartStep s t := by
    rw [← ht]; exact s.modCell_part k _ fun h => by cases h
  have hm : t.mgmt = s.mgmt := by rw [← ht]; rfl
  have hcopy : (t.cell k).copy = words.getD 0 0#32 := by rw [← ht, State.cell_modCell_self]
  split
  · split
    · exact (h.trans (State.modCell_part _ k _ fun h => by cases h)).trans (State.cellOccurs_part _ k _ _)
    · rename_i hc
      refine h.trans (PartStep.of_cell (.refl _) (CellLaw.not_disabled (by rw [hm]; exact hq)) rfl rfl rfl rfl
        (fun j hj => State.cell_modCell_other t _ hj) rfl rfl rfl rfl (.inr ?_) (k := k))
      unfold State.enableCheck at hc
      split at hc
      · cases hc
      · rename_i ha
        intro _
        obtain ⟨w, f⟩ := State.addressCheck_none ha
        have e : Cell.address { t.cell k with cstate := CellState.live (cellFieldsOf (words.getD 1 0#32) (words.getD 2 0#32) (words.getD 3 0#32)) } = addrOf (words.getD 0 0#32) := by
          simp only [Cell.address, hcopy, addrOf]
        rw [State.cell_modCell_self, e]
        refine ⟨w, fun j hj hr => ?_⟩
        rw [State.cell_modCell_other t _ hj] at hr ⊢
        exact f j hj hr
  · exact h

/-! ## The Event Unit -/

/-- The window's registers and the sequence stand. -/
structure SameWindow (s t : State) : Prop where
  state : t.mgmt.windowState = s.mgmt.windowState
  base : t.mgmt.windowBase = s.mgmt.windowBase
  size : t.mgmt.ringSize = s.mgmt.ringSize
  sequence : t.mgmt.sequence = s.mgmt.sequence

theorem SameWindow.slots {s t : State} (h : SameWindow s t) : t.ringSlots = s.ringSlots := by
  simp only [State.ringSlots, h.size]

theorem SameWindow.inWindow {s t : State} (h : SameWindow s t) (a : Addr) : t.inWindow a = s.inWindow a := by
  have hl : t.windowLength = s.windowLength := by simp only [State.windowLength, h.slots]
  unfold State.inWindow State.windowWord
  rw [hl, h.base]

theorem CellLaw.of_same {s t : State} (h : SameWindow s t) (e : t.cells = s.cells) (c : s.CellLaw) : t.CellLaw := by
  obtain ⟨c₁, c₂, c₃⟩ := c
  simp only [State.CellLaw, State.CellsDistinct, State.CellsOutside, State.cell, e, h.inWindow, h.state, h.sequence]
  exact ⟨c₁, c₂, c₃⟩

/-- A change of the Event Unit and of registers other than the window's. -/
theorem PartStep.of_events {s t : State} (pass : t.pass = s.pass) (mport : t.mport = s.mport)
    (run : t.arb.breakRun = s.arb.breakRun)
    (ages : (∀ c ∈ s.arb.upkeep, c.age ≤ 16) → ∀ c ∈ t.arb.upkeep, c.age ≤ 16) (chans : t.channels = s.channels)
    (cells : t.cells = s.cells) (w : SameWindow s t) (count : s.events.count ≤ 8 → t.events.count ≤ 8)
    (ring : s.RingLaw → t.RingLaw) (pending : t.pending = s.pending) (out : t.out = s.out) : PartStep s t := by
  refine ⟨pending, by rw [out], fun c => ?_, fun _ => ring, fun _ => CellLaw.of_same w cells,
    fun _ => StatusLaw.of_channels chans⟩
  obtain ⟨a, b, d, e, f⟩ := c
  exact ⟨by rw [pass]; exact a, by rw [mport]; exact b, count d, by rw [run]; exact e, ages f⟩

theorem RingLaw.of_same {s t : State} (h : SameWindow s t) (p : t.events.producer = s.events.producer)
    (c : t.events.consumer = s.events.consumer) (ph : t.events.postPhase = s.events.postPhase)
    (i : t.events.inPost = s.events.inPost) (r : t.events.recovery = s.events.recovery)
    (e : t.events.path = s.events.path) (a : s.RingLaw) : t.RingLaw := by
  simp only [State.RingLaw, State.PostLaw, State.AtRest, EventUnit.occupancy, h.slots, h.state, h.sequence, p, c, ph, i,
    r, e] at a ⊢
  exact a

/-- A change of the Event Unit that leaves what the ring law reads. -/
theorem State.modEvents_part (s : State) (f : EventUnit → EventUnit)
    (q : ∀ e, (f e).queue = e.queue := by intro _; rfl) (i : ∀ e, (f e).inPost = e.inPost := by intro _; rfl)
    (p : ∀ e, (f e).producer = e.producer := by intro _; rfl)
    (c : ∀ e, (f e).consumer = e.consumer := by intro _; rfl)
    (ph : ∀ e, (f e).postPhase = e.postPhase := by intro _; rfl)
    (r : ∀ e, (f e).recovery = e.recovery := by intro _; rfl) (e : ∀ e, (f e).path = e.path := by intro _; rfl) :
    PartStep s (s.modEvents f) :=
  .of_events rfl rfl rfl id rfl rfl ⟨rfl, rfl, rfl, rfl⟩
    (by simp only [State.modEvents_events, EventUnit.count, q, i]; exact id)
    (RingLaw.of_same ⟨rfl, rfl, rfl, rfl⟩ (p _) (c _) (ph _) (i _) (r _) (e _)) rfl rfl

/-- A change of registers other than the window's. -/
theorem State.modMgmt_part (s : State) (f : Mgmt → Mgmt)
    (a : ∀ m, (f m).windowState = m.windowState := by intro _; rfl)
    (b : ∀ m, (f m).windowBase = m.windowBase := by intro _; rfl)
    (c : ∀ m, (f m).ringSize = m.ringSize := by intro _; rfl)
    (d : ∀ m, (f m).sequence = m.sequence := by intro _; rfl) : PartStep s (s.modMgmt f) :=
  .of_events rfl rfl rfl id rfl rfl ⟨a _, b _, c _, d _⟩ id
    (RingLaw.of_same ⟨a _, b _, c _, d _⟩ rfl rfl rfl rfl rfl rfl) rfl rfl

theorem State.modFaults_part (s : State) (f : FaultStatus → FaultStatus) : PartStep s (s.modFaults f) :=
  s.modMgmt_part _

theorem State.refreshAttn_part (s : State) : PartStep s s.refreshAttn := s.modEvents_part _

theorem State.attentionWrite_part (s : State) (l : Lanes) (d : Word) : PartStep s (s.attentionWrite l d) :=
  (s.modEvents_part _).trans (State.refreshAttn_part _)

theorem State.createRejection_part (s : State) (ev : Event) : PartStep s (s.createRejection ev) := by
  unfold State.createRejection
  split
  · exact .refl s
  · split
    · exact .refl s
    · split
      · rename_i h; exact s.pushEvent_part ev h
      · exact s.modEvents_part _

/-- The ring law but for the post claim, which an accepted CONSUMER value may leave above N. -/
theorem RingLaw.withdrawFull {s t : State} (w : SameWindow s t) (occ : t.events.occupancy ≤ s.ringSlots)
    (hp : t.events.producer = s.events.producer)
    (hi : t.events.inPost = s.events.inPost) (hd : s.mgmt.windowState ≠ .disabled) (a : s.RingLaw) :
    t.withdrawFullPost.RingLaw := by
  obtain ⟨-, ⟨-, a₃⟩, -⟩ := a
  have dis : t.mgmt.windowState ≠ .disabled := by rw [w.state]; exact hd
  unfold State.withdrawFullPost
  split
  · refine ⟨by rw [← w.slots] at occ; exact occ, ⟨fun c => (by cases c), fun q hq => ?_⟩, fun d => absurd d dis⟩
    change t.events.producer = _
    rw [hp]
    exact a₃ q (hi ▸ hq)
  · rename_i k
    refine ⟨by rw [← w.slots] at occ; exact occ, ⟨fun c => ?_, fun q hq => ?_⟩, fun d => absurd d dis⟩
    · by_contra n
      exact k ⟨c, Nat.le_of_not_lt n⟩
    · rw [hp]; exact a₃ q (hi ▸ hq)

theorem State.withdrawFullPost_frame (s : State) :
    s.withdrawFullPost.pass = s.pass ∧ s.withdrawFullPost.mport = s.mport ∧
    s.withdrawFullPost.arb.breakRun = s.arb.breakRun ∧
    ((∀ c ∈ s.arb.upkeep, c.age ≤ 16) → ∀ c ∈ s.withdrawFullPost.arb.upkeep, c.age ≤ 16) ∧
    s.withdrawFullPost.channels = s.channels ∧ s.withdrawFullPost.cells = s.cells ∧
    s.withdrawFullPost.mgmt = s.mgmt ∧ s.withdrawFullPost.events.count = s.events.count ∧
    s.withdrawFullPost.pending = s.pending ∧ s.withdrawFullPost.out = s.out := by
  unfold State.withdrawFullPost
  split
  · exact ⟨rfl, rfl, rfl, ages_filter, rfl, rfl, rfl, rfl, rfl, rfl⟩
  · exact ⟨rfl, rfl, rfl, id, rfl, rfl, rfl, rfl, rfl, rfl⟩

theorem State.acceptsConsumer_iff (s : State) (c : RingIndex) :
    s.acceptsConsumer c = true ↔ (s.events.producer - c).toNat ≤ s.ringSlots := by
  unfold State.acceptsConsumer
  rw [decide_eq_true_iff]

theorem State.takeConsumer_part (s : State) (c : RingIndex) (b : Bool)
    (hd : s.RingLaw → s.mgmt.windowState ≠ .disabled) :
    PartStep s (s.takeConsumer c b) := by
  unfold State.takeConsumer
  split
  · rename_i ha
    simp only
    generalize ht : (s.modEvents fun e =>
      EventUnit.restartHoldoff { e with consumer := c, restoreOwed := if b then false else e.restoreOwed }) = t
    have e₁ : t.pass = s.pass := by rw [← ht]; rfl
    have e₂ : t.mport = s.mport := by rw [← ht]; rfl
    have e₃ : t.arb = s.arb := by rw [← ht]; rfl
    have e₄ : t.channels = s.channels := by rw [← ht]; rfl
    have e₅ : t.mgmt = s.mgmt := by rw [← ht]; rfl
    have e₆ : t.cells = s.cells := by rw [← ht]; rfl
    have e₇ : t.pending = s.pending := by rw [← ht]; rfl
    have e₈ : t.out = s.out := by rw [← ht]; rfl
    have f₁ : t.events.producer = s.events.producer := by rw [← ht]; rfl
    have f₂ : t.events.consumer = c := by rw [← ht]; rfl
    have f₄ : t.events.inPost = s.events.inPost := by rw [← ht]; rfl
    have f₅ : t.events.queue = s.events.queue := by rw [← ht]; rfl
    have w : SameWindow s t := ⟨by rw [e₅], by rw [e₅], by rw [e₅], by rw [e₅]⟩
    refine PartStep.trans (PartStep.trans ?_ (State.raisePost_part _)) (State.refreshAttn_part _)
    obtain ⟨g₁, g₂, g₃, g₄, g₅, g₆, g₇, g₈, g₉, g₁₀⟩ := t.withdrawFullPost_frame
    refine .of_events (g₁.trans e₁) (g₂.trans e₂) (by rw [g₃, e₃]) (fun h => g₄ (by rw [e₃]; exact h)) (g₅.trans e₄)
      (g₆.trans e₆) ⟨by rw [g₇, e₅], by rw [g₇, e₅], by rw [g₇, e₅], by rw [g₇, e₅]⟩ ?_
      (fun r => RingLaw.withdrawFull w ?_ f₁ f₄ (hd r) r) (g₉.trans e₇) (g₁₀.trans e₈)
    · rw [g₈]
      simp only [EventUnit.count, f₅, f₄]
      exact id
    · have := (s.acceptsConsumer_iff c).1 ha
      simpa only [EventUnit.occupancy, f₁, f₂] using this
  · exact ((s.modEvents_part _).trans (State.modFaults_part _ _)).trans (State.createRejection_part _ _)

theorem State.consumerWrite_part (s : State) (l : Lanes) (d : Word) (hd : s.mgmt.windowState ≠ .disabled) :
    PartStep s (s.consumerWrite l d) := by
  unfold State.consumerWrite
  simp only
  split
  · exact (s.modEvents_part _).trans (State.takeConsumer_part _ _ _ fun _ => hd)
  · exact s.takeConsumer_part _ _ fun _ => hd

/-! ## The post -/

theorem State.hasRoom_of_mport {s t : State} (h : t.mport = s.mport) (r : s.hasRoom = true) : t.hasRoom = true := by
  rw [State.hasRoom_iff] at r ⊢
  rw [h]
  exact r

theorem State.markQueued_mport (s : State) (ev : Event) (m : Bool) : (s.markQueued ev m).mport = s.mport := by
  unfold State.markQueued
  split <;> rfl

theorem ring_step {p c : RingIndex} {n : Nat} (h : (p - c).toNat < n) : (p + 1#16 - c).toNat ≤ n := by
  have e : p + 1#16 - c = (p - c) + 1#16 := by
    rw [BitVec.sub_eq_add_neg, BitVec.sub_eq_add_neg, BitVec.add_assoc, BitVec.add_comm 1#16, ← BitVec.add_assoc]
  rw [e, BitVec.toNat_add]
  have := Nat.mod_le ((p - c).toNat + (1#16).toNat) (2 ^ 16)
  have one : (1#16).toNat = 1 := rfl
  omega

theorem State.grantPost_part (s : State) (room : s.hasRoom = true) : PartStep s s.grantPost := by
  unfold State.grantPost
  split
  · rename_i ev rest hq hp
    simp only
    refine PartStep.trans (PartStep.trans (PartStep.trans ?_ (State.markQueued_part _ ev false))
      (State.refreshAttn_part _)) (State.startGroup_part _ _ _ none ?_)
    · refine .of_events rfl rfl rfl id rfl rfl ⟨rfl, rfl, rfl, rfl⟩ ?_ ?_ rfl rfl
      · intro c
        simp only [State.modEvents_events, EventUnit.postGranted, EventUnit.count, Option.isSome_some, if_true] at c ⊢
        rw [hq, List.length_cons] at c
        omega
      · intro r
        obtain ⟨-, ⟨r₂, -⟩, r₄⟩ := r
        refine ⟨ring_step (r₂ hp), ⟨fun c => (by cases c), fun q e => ?_⟩, fun d => ?_⟩
        · simp only [State.modEvents_events, EventUnit.postGranted, Option.some.injEq] at e ⊢
          rw [← e]
        · have := (r₄ d).2.1
          rw [hp] at this
          cases this
    · refine State.hasRoom_of_mport ?_ room
      change (State.markQueued _ ev false).mport = s.mport
      rw [State.markQueued_mport]
      rfl
  · exact .refl s

theorem State.endStall_part (s : State) (n : ChanId) (ev : Event) (room : s.queueRoom = true) :
    PartStep s (s.endStall n ev) := (s.endStall_step n ev room).toPart

theorem State.queueRoom_of {s t : State} (h : t.events.count = s.events.count) (r : s.queueRoom = true) :
    t.queueRoom = true := by
  unfold State.queueRoom at r ⊢
  rw [h]
  exact r

theorem State.placeFreed_part (s : State) (room : s.queueRoom = true) : PartStep s s.placeFreed := by
  unfold State.placeFreed
  split
  · exact s.endStall_part _ _ room
  · split
    · exact (s.modEvents_part _).trans (State.pushEvent_part _ _ (State.queueRoom_of rfl room))
    · split
      · exact (s.modMarks_part _ _).trans (State.enterOccurrence_part _ _ _ (State.queueRoom_of rfl room))
      · exact s.raisePost_part

/-- The post phase and the event in post are left. -/
theorem State.leavePost_part (s : State) :
    PartStep s (s.modEvents fun e => { e with postPhase := .none, inPost := none }) := by
  refine .of_events rfl rfl rfl id rfl rfl ⟨rfl, rfl, rfl, rfl⟩ ?_ ?_ rfl rfl
  · intro c
    have h : s.events.queue.length ≤ s.events.count := Nat.le_add_right _ _
    have e : EventUnit.count { s.events with postPhase := .none, inPost := none } = s.events.queue.length := rfl
    rw [State.modEvents_events, e]
    omega
  · intro r
    obtain ⟨r₁, -, r₄⟩ := r
    refine ⟨r₁, ⟨fun c => (by cases c), fun q e => (by cases e)⟩, fun d => ?_⟩
    obtain ⟨a, -, -, b, c, d⟩ := r₄ d
    exact ⟨a, rfl, rfl, b, c, d⟩

/-- The laws from the capacities of the state before: for an operation that needs them. -/
theorem PartStep.of_caps {s t : State} (h : s.Capacities → PartStep s t) (pending : t.pending = s.pending)
    (out : s.out <+: t.out) : PartStep s t :=
  ⟨pending, out, fun c => (h c).caps c, fun c => (h c).ring c, fun c => (h c).cells c, fun c => (h c).status c⟩

theorem State.endPost_room {s : State} (c : s.Capacities) (h : s.events.inPost.isSome = true) :
    State.queueRoom (s.modEvents fun e => { e with postPhase := .none, inPost := none }) = true := by
  have e : EventUnit.count { s.events with postPhase := .none, inPost := none } = s.events.queue.length := rfl
  have b := c.2.2.1
  unfold EventUnit.count at b
  rw [h] at b
  simp only [if_true] at b
  unfold State.queueRoom
  rw [State.modEvents_events, e, decide_eq_true_iff, Config.queueCapacity]
  omega

theorem State.failPost_part (s : State) : PartStep s s.failPost := by
  unfold State.failPost
  split
  · rename_i p hp
    refine PartStep.trans (PartStep.trans (PartStep.trans ?_ (State.markQueued_part _ _ true))
      (State.modFaults_part _ _)) (State.refreshAttn_part _)
    refine .of_events rfl rfl rfl id rfl rfl ⟨rfl, rfl, rfl, rfl⟩ ?_ ?_ rfl rfl
    · intro c
      simp only [State.modEvents_events, EventUnit.rollBack, EventUnit.count, hp, Option.isSome_some, if_true,
        List.length_cons] at c ⊢
      simpa using c
    · intro r
      obtain ⟨r₁, ⟨-, r₃⟩, r₄⟩ := r
      have hpr := r₃ p hp
      have dis : s.mgmt.windowState ≠ .disabled := fun d => by
        have := (r₄ d).2.2.1; rw [hp] at this; cases this
      have ph : (s.modEvents fun e => e.rollBack p).events.postPhase = s.events.postPhase := rfl
      have occ : ((s.modEvents fun e => e.rollBack p).events.occupancy) < s.ringSlots := by
        have slots : 0 < s.ringSlots := by unfold State.ringSlots; positivity
        change (EventUnit.occupancy (s.events.rollBack p)) < _
        unfold EventUnit.rollBack EventUnit.occupancy
        simp only
        unfold EventUnit.occupancy at r₁
        split
        · simp only [BitVec.sub_self, BitVec.toNat_zero]; exact slots
        · rename_i hb
          rw [hpr] at r₁
          have ne : s.events.consumer ≠ p.prevProducer + 1#16 := by simpa using hb
          have d : p.prevProducer + 1#16 - s.events.consumer = (p.prevProducer - s.events.consumer) + 1#16 := by
            rw [BitVec.sub_eq_add_neg, BitVec.sub_eq_add_neg, BitVec.add_assoc, BitVec.add_comm 1#16,
              ← BitVec.add_assoc]
          rw [d] at r₁
          have ne' : p.prevProducer - s.events.consumer ≠ 0xFFFF#16 := by
            intro hz
            apply ne
            have : s.events.consumer = p.prevProducer - 0xFFFF#16 := by
              rw [← hz, BitVec.sub_eq_add_neg, BitVec.sub_eq_add_neg, BitVec.neg_add]
              simp
            rw [this, BitVec.sub_eq_add_neg]
            rfl
          rw [BitVec.toNat_add] at r₁
          have lt := (p.prevProducer - s.events.consumer).isLt
          have nn : (p.prevProducer - s.events.consumer).toNat ≠ 65535 := fun h => ne' (BitVec.eq_of_toNat_eq h)
          have one : (1#16).toNat = 1 := rfl
          omega
      refine ⟨Nat.le_of_lt occ, ⟨fun _ => occ, fun q hq => (by cases hq)⟩, fun d => absurd d dis⟩
  · exact .refl s

theorem State.endPost_part (s : State) (c : s.Capacities) : PartStep s s.endPost := by
  unfold State.endPost
  simp only
  split
  · rename_i h
    exact s.leavePost_part.trans (State.placeFreed_part _ (State.endPost_room c h))
  · exact s.leavePost_part.trans (State.raisePost_part _)

/-- The command queue stands and no message already sent is lost. -/
def Keeps (s t : State) : Prop := t.pending = s.pending ∧ s.out <+: t.out

theorem PartStep.keeps {s t : State} (h : PartStep s t) : Keeps s t := ⟨h.pending, h.out⟩

theorem ChannelStep.keeps {n : ChanId} {s t : State} (h : ChannelStep n s t) : Keeps s t := ⟨h.pending, h.out⟩

theorem Keeps.trans {s t u : State} (h : Keeps s t) (k : Keeps t u) : Keeps s u :=
  ⟨k.1.trans h.1, h.2.trans k.2⟩

theorem State.pushEvent_keeps (s : State) (ev : Event) : Keeps s (s.pushEvent ev) :=
  ⟨State.raisePost_pending _, by unfold State.pushEvent; rw [State.raisePost_out]; exact List.prefix_rfl⟩

theorem State.endStall_keeps (s : State) (n : ChanId) (ev : Event) : Keeps s (s.endStall n ev) :=
  ((((s.modCtl_step n (fun k => { k with stalled := none })).keeps.trans (State.pushEvent_keeps _ ev)).trans
    (State.stallTransition_step _ n ev).keeps).trans (State.takePending_step _ n).keeps).trans
    (State.settle_step _ n).keeps

theorem State.placeFreed_keeps (s : State) : Keeps s s.placeFreed := by
  unfold State.placeFreed
  split
  · exact s.endStall_keeps _ _
  · split
    · exact (s.modEvents_part _).keeps.trans (State.pushEvent_keeps _ _)
    · split
      · exact ((s.modMarks_part _ _).keeps.trans (State.modMarks_part _ _ _).keeps).trans (State.pushEvent_keeps _ _)
      · exact s.raisePost_part.keeps

theorem State.endPost_keeps (s : State) : Keeps s s.endPost := by
  unfold State.endPost
  simp only
  split
  · exact s.leavePost_part.keeps.trans (State.placeFreed_keeps _)
  · exact (s.leavePost_part.trans (State.raisePost_part _)).keeps

/-- One response of a granted post has returned. -/
theorem State.countPost_part (s : State) (k : Nat) (h : s.mgmt.windowState ≠ .disabled) :
    PartStep s (s.modEvents fun e => { e with postPhase := .granted k }) := by
  refine .of_events rfl rfl rfl id rfl rfl ⟨rfl, rfl, rfl, rfl⟩ id ?_ rfl rfl
  intro r
  exact ⟨r.1, ⟨fun c => (by cases c), r.2.1.2⟩, fun d => absurd d h⟩

theorem State.failPost_mgmt (s : State) : s.failPost.mgmt.windowState = s.mgmt.windowState := by
  unfold State.failPost
  split
  · change (State.markQueued _ _ _).mgmt.windowState = _
    unfold State.markQueued
    split <;> rfl
  · rfl

theorem State.postResponse_part (s : State) (r : MemResponse) : PartStep s (s.postResponse r) := by
  have failed : PartStep s (if r = .error then s.failPost else s) := by
    split
    · exact s.failPost_part
    · exact .refl s
  have keeps : ∀ k, Keeps s ((if r = .error then s.failPost else s).modEvents fun e => { e with postPhase := .granted k }) :=
    fun k => failed.keeps.trans ⟨rfl, List.prefix_rfl⟩
  unfold State.postResponse
  split
  · rename_i k hk
    simp only
    split
    · have last : s.Capacities → PartStep s ((if r = .error then s.failPost else s).endPost) :=
        fun c => failed.trans (State.endPost_part _ (failed.caps c))
      have h := failed.keeps.trans (State.endPost_keeps _)
      exact .of_caps last h.1 h.2
    · by_cases hd : s.mgmt.windowState = .disabled
      · refine ⟨(keeps _).1, (keeps _).2, fun c => failed.caps c, fun _ q => ?_, fun c q => failed.cells c q,
          fun c q => failed.status c q⟩
        have := (q.2.2 hd).2.1
        rw [hk] at this
        cases this
      · refine failed.trans (State.countPost_part _ _ ?_)
        split
        · rw [State.failPost_mgmt]; exact hd
        · exact hd
  · exact .refl s

/-! ## The sequences, the recovery read -/

/-- A sequence that is under way moves on. -/
theorem State.setSequence_part (s : State) (q : Option SeqStep) {p : SeqStep} (hp : s.mgmt.sequence = some p) :
    PartStep s (s.setSequence q) :=
  ⟨rfl, List.prefix_rfl, id, fun _ r => ⟨r.1, r.2.1, fun d => absurd d (RingLaw.not_disabled (s := s) hp r)⟩,
    fun _ r => ⟨r.1, r.2.1, fun d => absurd d (CellLaw.not_disabled (s := s) hp r)⟩, fun _ => id⟩

theorem State.progressD2_part (s : State) : PartStep s s.progressD2 := by
  unfold State.progressD2
  split
  · rename_i h
    exact (s.modEvents_part _).trans (State.setSequence_part _ _ h.1)
  · exact .refl s

theorem State.disableProgress_part (s : State) : PartStep s s.disableProgress := by
  unfold State.disableProgress
  split
  · rename_i h
    exact (s.setSequence_part _ h.1).trans (State.progressD2_part _)
  · exact s.progressD2_part

/-- The path is OK again and the recovery read is over. -/
theorem State.pathRecovered_part (s : State) : PartStep s s.pathRecovered := by
  unfold State.pathRecovered
  refine PartStep.trans (PartStep.trans ?_ (State.modFaults_part _ _)) (State.raisePost_part _)
  refine .of_events rfl rfl rfl id rfl rfl ⟨rfl, rfl, rfl, rfl⟩ id ?_ rfl rfl
  intro r
  refine ⟨r.1, r.2.1, fun d => ?_⟩
  obtain ⟨a, b, c, -, -, f⟩ := r.2.2 d
  exact ⟨a, b, c, rfl, rfl, f⟩

theorem State.recoveryResponse_part (s : State) (r : MemResponse) : PartStep s (s.recoveryResponse r) := by
  unfold State.recoveryResponse
  split
  · rename_i hg
    split
    · refine .of_events rfl rfl rfl id rfl rfl ⟨rfl, rfl, rfl, rfl⟩ id ?_ rfl rfl
      intro q
      refine ⟨q.1, q.2.1, fun d => ?_⟩
      obtain ⟨a, b, c, -, e, f⟩ := q.2.2 d
      exact ⟨a, b, c, rfl, e, f⟩
    · split
      · exact s.pathRecovered_part
      · refine (s.takeConsumer_part _ _ fun q d => ?_).trans (State.pathRecovered_part _)
        have := (q.2.2 d).2.2.2.1
        rw [hg] at this
        cases this
  · exact .refl s

end Sys2Proof.Machine
end

