-- ==== Sys2Proof/Laws/PartGrants.lean ====
section
/-! SUPPORT. PartStep for the grants (R139), the responses of break and CELLHIT groups, the registers, the sequences and
the resets. -/

namespace Sys2Proof.Machine

/-! ## Rooms -/

theorem ChannelStep.room {n : ChanId} {s t : State} (h : ChannelStep n s t) (r : s.hasRoom = true) :
    t.hasRoom = true := by
  rw [State.hasRoom_iff] at r ⊢
  rw [h.mport]
  exact r

/-- A channel operation and then the start of a group. -/
theorem ChannelStep.start {n : ChanId} {s t : State} (h : ChannelStep n s t) (src : GroupSource) (l : List Access)
    (f : Option Fetch) (r : s.hasRoom = true) : PartStep s (t.startGroup src l f) :=
  h.toPart.trans (t.startGroup_part src l f (h.room r))

/-! ## Grants of the UPKEEP class -/

theorem State.grantFill_part (s : State) (n : ChanId) (r : s.hasRoom = true) : PartStep s (s.grantFill n) := by
  unfold State.grantFill
  split
  · exact (ChannelStep.of_modChan s fun _ => Channel.agrees_of_not_valid rfl).start _ _ _ r
  · exact .refl s

theorem State.grantWriteback_part (s : State) (n : ChanId) (r : s.hasRoom = true) : PartStep s (s.grantWriteback n) := by
  unfold State.grantWriteback
  split
  · rename_i h
    exact (ChannelStep.of_modChan s (Channel.setValid_agrees h rfl)).start _ _ _ r
  · exact .refl s

theorem State.grantLink_part (s : State) (n : ChanId) (r : s.hasRoom = true) : PartStep s (s.grantLink n) := by
  unfold State.grantLink
  split
  · exact (s.modWalker_step n _).start _ _ _ r
  · exact .refl s

theorem State.cellWork_mport (s : State) (k : CellId) : (s.cellWork k).mport = s.mport := by
  unfold State.cellWork
  split
  · rfl
  · split
    · rfl
    · split <;> rfl

theorem State.grantCellLoad_part (s : State) (k : CellId) (r : s.hasRoom = true) : PartStep s (s.grantCellLoad k) := by
  unfold State.grantCellLoad
  split
  · rename_i h
    refine ((s.modCell_part k _ fun _ => ⟨by simp only [Cell.isRegistered, h], rfl⟩).trans
      (State.cellWork_part _ k)).trans (State.startGroup_part _ _ _ _ (State.hasRoom_of_mport ?_ r))
    rw [State.cellWork_mport]
    rfl
  · exact .refl s

theorem State.grantCellStatus_part (s : State) (k : CellId) (r : s.hasRoom = true) :
    PartStep s (s.grantCellStatus k) := by
  unfold State.grantCellStatus
  refine ((s.modMarks_part k _).trans
    (State.cellWork_part _ k)).trans (State.startGroup_part _ _ _ _ (State.hasRoom_of_mport ?_ r))
  rw [State.cellWork_mport]
  rfl

theorem CellsShrink.of_map {s : State} {f : Cell → Cell}
    (h : ∀ c, (f c).isRegistered = true → c.isRegistered = true ∧ (f c).address = c.address) :
    CellsShrink s (s.mapCells f) := by
  intro k hk
  rw [State.cell_mapCells] at hk ⊢
  exact h _ hk

theorem State.mapCells_part (s : State) (f : Cell → Cell)
    (h : ∀ c, (f c).isRegistered = true → c.isRegistered = true ∧ (f c).address = c.address) :
    PartStep s (s.mapCells f) :=
  .of_grow rfl (Nat.le_refl _) rfl id rfl (.of_map h) rfl (.of_eq rfl) rfl List.prefix_rfl

theorem State.grantEnable_part (s : State) (r : s.hasRoom = true) : PartStep s s.grantEnable := by
  unfold State.grantEnable
  split
  · unfold State.clearStatusDue
    split
    · refine PartStep.trans ?_ (State.startGroup_part _ _ _ _ (State.hasRoom_of_mport (s := s) rfl r))
      exact s.mapCells_part _ fun _ h => ⟨h, rfl⟩
    · exact s.startGroup_part _ _ _ r
  · exact .refl s

theorem State.grantRecovery_part (s : State) (r : s.hasRoom = true) : PartStep s s.grantRecovery := by
  unfold State.grantRecovery
  split
  · rename_i h
    refine PartStep.trans (t := s.modEvents fun e => { e with recovery := .granted }) ?_
      (State.startGroup_part _ _ _ _ (State.hasRoom_of_mport rfl r))
    refine .of_events rfl rfl rfl id rfl rfl ⟨rfl, rfl, rfl, rfl⟩ id ?_ rfl rfl
    intro q
    refine ⟨q.1, q.2.1, fun d => ?_⟩
    have := (q.2.2 d).2.2.2.1
    rw [h] at this
    cases this
  · exact .refl s

theorem State.grantUpkeep_part (s : State) (k : UpkeepKind) (r : s.hasRoom = true) : PartStep s (s.grantUpkeep k) := by
  cases k with
  | fill n => exact s.grantFill_part n r
  | writeback n => exact s.grantWriteback_part n r
  | link n => exact s.grantLink_part n r
  | cellLoad k => exact s.grantCellLoad_part k r
  | cellStatus k => exact s.grantCellStatus_part k r
  | post => exact s.grantPost_part r
  | recovery => exact s.grantRecovery_part r
  | enable => exact s.grantEnable_part r

/-! ## Breaks -/

theorem State.grantDirect_part (s : State) (n : ChanId) (req : DeviceRequest) (a : Addr) (r : s.hasRoom = true) :
    PartStep s (s.grantDirect n req a) := by
  unfold State.grantDirect
  split
  · exact (s.breakEndsAtGrant_step n _ _).toPart
  · exact (s.stepBreak_step n req a).start _ _ _ r

theorem State.grantCell_part (s : State) (n : ChanId) (req : DeviceRequest) (k : CellId) (r : s.hasRoom = true) :
    PartStep s (s.grantCell n req k) := by
  unfold State.grantCell
  split
  · exact (s.stepBreak_step n req _).start _ _ _ r
  · exact (s.breakEndsAtGrant_step n _ _).toPart

theorem State.grantBreak_part (s : State) (n : ChanId) (r : s.hasRoom = true) : PartStep s (s.grantBreak n) := by
  unfold State.grantBreak
  split
  · simp only
    have h : ∀ req : DeviceRequest, ChannelStep n s
        ((s.modChan n fun c => c.atGrant req s.mgmt.quietInterval).answer n .granted) := fun req =>
      (ChannelStep.of_modChan s (Channel.atGrant_agrees _ _)).trans (State.send_step _ n _)
    split
    · exact ((h _).trans (State.completeBreak_step _ n _)).toPart
    · split
      · exact (h _).toPart.trans (State.grantDirect_part _ n _ _ ((h _).room r))
      · exact (h _).toPart.trans (State.grantDirect_part _ n _ _ ((h _).room r))
      · exact (h _).toPart.trans (State.grantCell_part _ n _ _ ((h _).room r))
  · exact .refl s

theorem State.cellOccurs_mport (s : State) (k : CellId) (o : OccKind) (d : Word) :
    (s.cellOccurs k o d).mport = s.mport := by
  unfold State.cellOccurs
  split
  · rfl
  · split
    · rfl
    · simp only
      split
      · unfold State.enterOccurrence State.pushEvent
        rw [State.raisePost_mport]
        rfl
      · rfl

theorem State.fetched_mport (s : State) (k : CellId) (f : CellFields) (v : Word) :
    (s.fetched k f v).mport = s.mport := by
  have mark : ∀ b, (s.markAtLimit k b).mport = s.mport := fun b => by
    unfold State.markAtLimit
    split <;> rfl
  unfold State.fetched
  split
  · simp only
    split
    · rw [State.cellOccurs_mport]; exact mark _
    · exact mark _
  · simp only
    split
    · rw [State.cellOccurs_mport]; exact mark _
    · exact mark _
  · exact mark _

theorem State.cellReadResponse_part (s : State) (n : ChanId) (f : Fetch) (r : MemResponse)
    (room : s.hasRoom = true) : PartStep s (s.cellReadResponse n f r) := by
  unfold State.cellReadResponse
  split
  · split
    · exact ((s.cellFault_part _).trans (State.breakFails_turn _ n _ _).toPart).trans
        (State.finishBreak_step _ n).toPart
    · exact ((s.fetched_part _ _ _).trans (State.issue_part _ _
        (State.hasRoom_of_mport (State.fetched_mport _ _ _ _) room))).trans (State.checkCellValue_turn _ n _ _).toPart
  · exact .refl s

/-! ## Passing requests -/

theorem State.cellrecWrite_part (s : State) (w : Nat) (l : Lanes) (d : Word) (hd : s.mgmt.windowState ≠ .disabled) :
    PartStep s (s.cellrecWrite w l d) := by
  unfold State.cellrecWrite
  split
  · simp only
    split
    · exact s.cellAddrWrite_part _ l d hd
    · exact s.cellFieldWrite_part _ _ l d
    · exact s.cellFieldWrite_part _ _ l d
    · exact s.cellFieldWrite_part _ _ l d
  · exact .refl s

theorem State.ringctlWrite_part (s : State) (w : Nat) (l : Lanes) (d : Word) (hd : s.mgmt.windowState ≠ .disabled) :
    PartStep s (s.ringctlWrite w l d) := by
  unfold State.ringctlWrite
  split
  · exact s.consumerWrite_part l d hd
  · split
    · exact s.attentionWrite_part l d
    · exact .refl s

theorem State.snoopWrite_part (s : State) (cls : PassClass) (r : Request)
    (hd : cls ≠ .plain → s.mgmt.windowState ≠ .disabled) : PartStep s (s.snoopWrite cls r) := by
  unfold State.snoopWrite
  split
  · exact (s.recordWrite_step _ _ _ _).toPart
  · exact s.cellrecWrite_part _ _ _ (hd (by simp))
  · exact s.ringctlWrite_part _ _ _ (hd (by simp))
  · exact .refl s

theorem State.startGroup_mgmt (s : State) (src : GroupSource) (l : List Access) (f : Option Fetch) :
    (s.startGroup src l f).mgmt = s.mgmt := by
  unfold State.startGroup
  split <;> rfl

theorem State.forward_part (s : State) (e : PassEntry) (cls : PassClass) (r : s.hasRoom = true)
    (hd : cls ≠ .plain → s.mgmt.windowState ≠ .disabled) : PartStep s (s.forward e cls) := by
  unfold State.forward
  simp only
  have h := (s.modEntry_part e.id fun x => { x with phase := .issued, cls := some cls }).trans
    (State.startGroup_part _ (.pass e.id) [e.access] none (State.hasRoom_of_mport rfl r))
  split
  · refine h.trans (State.snoopWrite_part _ _ _ ?_)
    rw [State.startGroup_mgmt]
    exact hd
  · exact h

theorem State.grantCellhit_part (s : State) (e : PassEntry) (k : CellId) (f : CellFields) (r : s.hasRoom = true) :
    PartStep s (s.grantCellhit e k f) := by
  unfold State.grantCellhit
  exact (s.modEntry_part e.id _).trans (State.startGroup_part _ _ _ _ (State.hasRoom_of_mport (s := s) rfl r))

theorem State.serve_part (s : State) (e : PassEntry) (cls : PassClass) (w : Word) : PartStep s (s.serve e cls w) :=
  (s.modEntry_part e.id _).trans (State.answerEntry_part _ _ _)

theorem State.classify_disabled {s : State} {r : Request} (h : s.mgmt.windowState = .disabled) :
    s.classify r = .plain := by
  unfold State.classify
  rw [if_pos h]

theorem State.grantPass_part (s : State) (e : PassEntry) (r : s.hasRoom = true ∨ (s.served? e.request).isSome = true) :
    PartStep s (s.grantPass e) := by
  unfold State.grantPass
  simp only
  split
  · exact s.serve_part e _ _
  · rename_i h
    have room : s.hasRoom = true := by
      rcases r with r | r
      · exact r
      · rw [h] at r; cases r
    split
    · split
      · exact s.grantCellhit_part e _ _ room
      · exact .refl s
    · exact s.forward_part e _ room fun hc hd => hc (State.classify_disabled hd)

theorem State.cellhitResponse_part (s : State) (id : Nat) (f : Fetch) (r : MemResponse) :
    PartStep s (s.cellhitResponse id f r) := by
  unfold State.cellhitResponse
  split
  · exact ((s.fetched_part _ _ _).trans (State.release_part _ _ _)).trans (State.answerEntry_part _ _ _)
  · exact ((s.endGroup_part _).trans (State.cellFault_part _ _)).trans (State.answerEntry_part _ _ _)

/-! ## The grant -/

theorem ages_afterGrant (a : Arbiter) (g : Grant) : ∀ c ∈ (a.afterGrant g).upkeep, c.age ≤ 16 := by
  intro c hc
  unfold Arbiter.afterGrant at hc
  obtain ⟨d, -, rfl⟩ := List.mem_map.1 hc
  have h : ∀ n, olderAge n ≤ 16 := fun n => by
    unfold olderAge Config.agedAt
    split <;> omega
  exact h d.age

theorem State.afterGrant_part (s : State) (g : Grant) : PartStep s { s with arb := s.arb.afterGrant g } := by
  refine ⟨rfl, List.prefix_rfl, fun c => ⟨c.1, c.2.1, c.2.2.1, ?_, ages_afterGrant _ _⟩,
    fun _ => RingLaw.of_grow rfl (.of_eq rfl), fun _ => CellLaw.of_shrink rfl (.of_eq rfl),
    fun _ => StatusLaw.of_channels rfl⟩
  have h := c.2.2.2.1
  simp only [Arbiter.afterGrant, breakRunAfter]
  split
  · omega
  · split <;> omega
  · exact h

/-- What a chosen claim needs (R138). -/
theorem State.choose_room {s : State} {g : Grant} (h : s.choose = some g) :
    s.hasRoom = true ∨ ∃ e, g = .pass e ∧ (s.served? e.request).isSome = true := by
  have pass : ∀ e, s.eligiblePass = some e → s.hasRoom = true ∨ (s.served? e.request).isSome = true := by
    intro e he
    unfold State.eligiblePass at he
    split at he
    · split at he
      · rename_i k
        cases he
        simpa using k
      · cases he
    · cases he
  have brk : ∀ n, s.eligibleBreak = some n → s.hasRoom = true := by
    intro n hn
    unfold State.eligibleBreak at hn
    split at hn
    · assumption
    · cases hn
  have old : ∀ c, s.agedUpkeep = some c → s.hasRoom = true := by
    intro n hn
    unfold State.agedUpkeep at hn
    split at hn
    · assumption
    · cases hn
  have up : ∀ c, s.eligibleUpkeep = some c → s.hasRoom = true := by
    intro n hn
    unfold State.eligibleUpkeep at hn
    split at hn
    · assumption
    · cases hn
  unfold State.choose at h
  split at h
  · rename_i k; exact .inl (old _ k)
  · split at h
    · rename_i k _; exact .inl (brk _ k)
    · rename_i k _; exact .inl (brk _ k)
    · rename_i e _ k
      cases h
      rcases pass _ k with p | p
      · exact .inl p
      · exact .inr ⟨_, rfl, p⟩
    · rename_i h'
      cases hu : s.eligibleUpkeep with
      | none => rw [hu] at h; cases h
      | some c => exact .inl (up _ hu)

theorem State.grant_part (s : State) (g : Grant) (r : s.hasRoom = true ∨ ∃ e, g = .pass e ∧ (s.served? e.request).isSome = true) :
    PartStep s (s.grant g) := by
  unfold State.grant
  refine (s.afterGrant_part g).trans ?_
  cases g with
  | pass e =>
    refine State.grantPass_part _ e ?_
    rcases r with r | ⟨e', h, r⟩
    · exact .inl r
    · cases h; exact .inr r
  | brk n =>
    rcases r with r | ⟨e', h, r⟩
    · exact State.grantBreak_part _ n r
    · cases h
  | upkeep k =>
    rcases r with r | ⟨e', h, r⟩
    · exact State.grantUpkeep_part _ k r
    · cases h

theorem State.decision_part (s : State) : PartStep s s.decision := by
  unfold State.decision
  split
  · exact .refl s
  · split
    · rename_i h
      exact s.grant_part _ (State.choose_room h)
    · exact .refl s

theorem State.issueNext_part (s : State) : PartStep s s.issueNext := by
  unfold State.issueNext
  split
  · split
    · split
      · rename_i r
        exact (s.issue_part _ r).trans (State.setLock_part _ _)
      · exact .refl s
    · exact .refl s
  · exact .refl s

end Sys2Proof.Machine
end

