-- ==== Sys2Proof/Laws/PartMgmt.lean ====
section
/-! SUPPORT. PartStep for frames (R175 to R178), the sequences (R179 to R182), the actions and the resets (R183, R184). -/

namespace Sys2Proof.Machine

/-! ## The laws in DISABLED -/

/-- A change that leaves DISABLED where it was at rest, or never was in it: only the registers change. -/
theorem PartStep.of_registers {s t : State} (pass : t.pass = s.pass) (mport : t.mport = s.mport) (arb : t.arb = s.arb)
    (chans : t.channels = s.channels) (ev : t.events = s.events)
    (ring : s.RingLaw → t.RingLaw) (law : s.CellLaw → t.CellLaw) (pending : t.pending = s.pending)
    (out : t.out = s.out) : PartStep s t :=
  ⟨pending, by rw [out], fun c => by simp only [State.Capacities, pass, mport, arb, ev]; exact c, fun _ => ring,
    fun _ => law, fun _ => StatusLaw.of_channels chans⟩

/-- Where nothing is registered the cell law asks nothing of the window. -/
theorem CellLaw.of_none {t : State} (h : ∀ k, (t.cell k).isRegistered = false)
    (q : t.mgmt.windowState = .disabled → t.mgmt.sequence = none) : t.CellLaw := by
  refine ⟨fun j k _ hj => ?_, fun k hk => ?_, fun d => ⟨q d, h⟩⟩
  · rw [h j] at hj; cases hj
  · rw [h k] at hk; cases hk

/-- An Event Unit at rest keeps the ring law whatever the window. -/
theorem RingLaw.of_rest {s t : State} (a : s.RingLaw) (hd : s.mgmt.windowState = .disabled) (ev : t.events = s.events)
    (q : t.mgmt.windowState = .disabled → t.mgmt.sequence = none) : t.RingLaw := by
  obtain ⟨p, ph, ip, rc, pt, -⟩ := a.2.2 hd
  refine ⟨?_, ⟨fun c => ?_, fun i hi => ?_⟩, fun d => ?_⟩
  · rw [ev, EventUnit.occupancy, p, BitVec.sub_self]; exact Nat.zero_le _
  · rw [ev, ph] at c; cases c
  · rw [ev, ip] at hi; cases hi
  · rw [ev]; exact ⟨p, ph, ip, rc, pt, q d⟩

/-- The Event Unit after a reset is at rest. -/
theorem RingLaw.of_reset {t : State} (ev : t.events = .reset)
    (q : t.mgmt.windowState = .disabled → t.mgmt.sequence = none) : t.RingLaw := by
  refine ⟨?_, ⟨fun c => ?_, fun i hi => ?_⟩, fun d => ?_⟩
  · rw [ev]; exact Nat.zero_le _
  · rw [ev] at c; cases c
  · rw [ev] at hi; cases hi
  · rw [ev]; exact ⟨rfl, rfl, rfl, rfl, rfl, q d⟩

/-! ## Frames -/

theorem State.respondFrame_part (s : State) (st : FrameStatus) (d : Word) : PartStep s (s.respondFrame st d) :=
  s.modMgmt_part _

theorem State.setFree_part (s : State) (k : Nat) : PartStep s { s with freeCounter := k } :=
  .of_registers rfl rfl rfl rfl rfl id id rfl rfl

theorem State.ackWrite_part (s : State) : PartStep s s.ackWrite :=
  (s.respondFrame_part _ _).trans (State.setFree_part _ _)

theorem State.setWindowBase_part (s : State) (a : Addr) (hd : s.mgmt.windowState = .disabled) :
    PartStep s (s.modMgmt fun m => { m with windowBase := a }) :=
  .of_registers rfl rfl rfl rfl rfl (fun r => RingLaw.of_rest r hd rfl fun d => (r.2.2 d).2.2.2.2.2)
    (fun c => CellLaw.of_none (c.2.2 hd).2 fun d => (c.2.2 d).1) rfl rfl

theorem State.setWindowControl_part (s : State) (d : Word)
    (h : ringSizeField d = s.mgmt.ringSize ∨ s.mgmt.windowState = .disabled) : PartStep s (s.setWindowControl d) := by
  rcases h with h | h
  · exact .of_events rfl rfl rfl id rfl rfl ⟨rfl, rfl, h, rfl⟩ id
      (RingLaw.of_same ⟨rfl, rfl, h, rfl⟩ rfl rfl rfl rfl rfl rfl) rfl rfl
  · exact .of_registers rfl rfl rfl rfl rfl (fun r => RingLaw.of_rest r h rfl fun d => (r.2.2 d).2.2.2.2.2)
      (fun c => CellLaw.of_none (c.2.2 h).2 fun d => (c.2.2 d).1) rfl rfl

theorem State.startEnable_part (s : State) (hd : s.mgmt.windowState = .disabled) : PartStep s s.startEnable := by
  unfold State.startEnable
  refine PartStep.trans (PartStep.trans (t := (s.setWindowState .enabling).setSequence (some .e1)) ?_
    (State.modEvents_part _ _)) (State.raise_part _ _)
  exact .of_registers rfl rfl rfl rfl rfl (fun r => RingLaw.of_rest r hd rfl fun d => (by cases d))
    (fun c => CellLaw.of_none (c.2.2 hd).2 fun d => (by cases d)) rfl rfl

/-- A change of the window state and of the sequence away from DISABLED. -/
theorem State.setWindowState_part (s : State) (st : WindowState) (q : Option SeqStep) (hst : st ≠ .disabled) :
    PartStep s ((s.setWindowState st).setSequence q) :=
  ⟨rfl, List.prefix_rfl, id, fun _ r => ⟨r.1, r.2.1, fun d => absurd d hst⟩,
    fun _ r => ⟨r.1, r.2.1, fun d => absurd d hst⟩, fun _ => id⟩

theorem PartStep.foldl {α : Type} {f : State → α → State} (h : ∀ s a, PartStep s (f s a)) (l : List α) (s : State) :
    PartStep s (l.foldl f s) := by
  induction l generalizing s with
  | nil => exact .refl s
  | cons a l ih => exact (h s a).trans (ih _)

theorem State.startDisable_part (s : State) : PartStep s s.startDisable := by
  unfold State.startDisable
  refine PartStep.trans (PartStep.trans (s.setWindowState_part .disabling (some .d1) (by simp)) ?_)
    (State.disableProgress_part _)
  exact PartStep.foldl (fun s n => (s.triggerWriteback_step n .forDisable).toPart) chanIds _

theorem State.takeWindowControl_part (s : State) (d : Word)
    (h : ringSizeField d = s.mgmt.ringSize ∨ s.mgmt.windowState = .disabled) : PartStep s (s.takeWindowControl d) := by
  unfold State.takeWindowControl
  simp only
  split
  · rename_i k
    exact (s.setWindowControl_part d h).trans (State.startEnable_part _ k.1)
  · split
    · exact (s.setWindowControl_part d h).trans (State.startDisable_part _)
    · exact s.setWindowControl_part d h

theorem State.eventPathReset_part (s : State) : PartStep s s.eventPathReset := by
  unfold State.eventPathReset
  split
  · exact s.modFaults_part _
  · rename_i hp
    split
    · refine PartStep.trans (t := s.modEvents fun e => { e with recovery := .claimed }) ?_ (State.raise_part _ _)
      refine .of_events rfl rfl rfl id rfl rfl ⟨rfl, rfl, rfl, rfl⟩ id ?_ rfl rfl
      exact fun r => ⟨r.1, r.2.1, fun d => absurd (r.2.2 d).2.2.2.2.1 hp⟩
    · exact .refl s

theorem State.takeAction_part (s : State) (d : Word) : PartStep s (s.takeAction d) := by
  unfold State.takeAction
  split
  · exact s.modMgmt_part _
  · exact s.eventPathReset_part
  · exact s.modMgmt_part _
  · exact s.modMgmt_part _

theorem State.judgeWrite_ok {s : State} {i : Byte} {d : Word} {r : WriteReg} (h : s.judgeWrite i d = .ok r) :
    s.stateForbids r d = false := by
  unfold State.judgeWrite at h
  split at h
  · cases h
  · split at h
    · cases h
    · split at h
      · cases h
      · rename_i k
        cases h
        simpa using k

theorem State.takeWrite_part (s : State) (r : WriteReg) (d : Word) (h : s.stateForbids r d = false) :
    PartStep s (s.takeWrite r d) := by
  unfold State.stateForbids at h
  cases r with
  | windowBase =>
    refine s.setWindowBase_part _ ?_
    simp only [Bool.or_eq_false_iff, bne_eq_false_iff_eq] at h
    exact h.2
  | windowControl =>
    refine s.takeWindowControl_part d ?_
    simp only [Bool.or_eq_false_iff, Bool.and_eq_false_iff, bne_eq_false_iff_eq] at h
    exact h.2.1
  | faultStatus => exact s.modFaults_part fun f => f.writeOnes d
  | action => exact s.takeAction_part d

theorem State.writeFrame_part (s : State) (i : Byte) (d : Word) : PartStep s (s.writeFrame i d) := by
  unfold State.writeFrame
  split
  · rename_i h
    refine s.ackWrite_part.trans (State.takeWrite_part _ _ d ?_)
    exact State.judgeWrite_ok h
  · exact s.respondFrame_part _ _

theorem State.takeFrame_part (s : State) (op i : Byte) (d : Word) : PartStep s (s.takeFrame op i d) := by
  unfold State.takeFrame
  simp only
  refine (s.send_part (.shifted s.mgmt.response.bytes)).trans ?_
  split
  · unfold State.readFrame
    split
    · exact State.respondFrame_part _ _ _
    · exact State.respondFrame_part _ _ _
  · split
    · exact State.writeFrame_part _ _ _
    · exact State.respondFrame_part _ _ _

theorem State.discardFrame_part (s : State) (l : List Byte) : PartStep s (s.discardFrame l) := by
  unfold State.discardFrame
  split
  · exact .refl s
  · exact (s.send_part _).trans (State.setFree_part _ _)

/-! ## The enable sequence -/

theorem State.nextEnableStep_part (s : State) (q : SeqStep) {p : SeqStep} (hp : s.mgmt.sequence = some p) :
    PartStep s (s.nextEnableStep q) := (s.setSequence_part _ hp).trans (State.raise_part _ _)

theorem State.cellOccurs_mgmt (s : State) (k : CellId) (o : OccKind) (w : Word) :
    (s.cellOccurs k o w).mgmt = s.mgmt := by
  unfold State.cellOccurs
  split
  · rfl
  · split
    · rfl
    · simp only
      split
      · unfold State.enterOccurrence State.pushEvent
        rw [State.raisePost_mgmt]
        rfl
      · rfl

theorem State.registerCell_mgmt (s : State) (k : CellId) (l : List Word) : (s.registerCell k l).mgmt = s.mgmt := by
  unfold State.registerCell
  simp only
  split
  · split
    · rw [State.cellOccurs_mgmt]; rfl
    · rfl
  · rfl

theorem State.enabledWith_part (s : State) (c : RingIndex) {p : SeqStep} (hp : s.mgmt.sequence = some p) :
    PartStep s (s.modEvents fun e => e.enabledWith c) := by
  refine .of_events rfl rfl rfl id rfl rfl ⟨rfl, rfl, rfl, rfl⟩ (fun _ => Nat.zero_le _) ?_ rfl rfl
  intro r
  have occ : (s.modEvents fun e => e.enabledWith c).events.occupancy = 0 := by
    change (c - c).toNat = 0
    rw [BitVec.sub_self]
    rfl
  have slots : 0 < s.ringSlots := by unfold State.ringSlots; positivity
  refine ⟨by rw [occ]; exact Nat.zero_le _, ⟨fun _ => by rw [occ]; exact slots, fun q hq => (by cases hq)⟩,
    fun d => absurd d (RingLaw.not_disabled (s := s) hp r)⟩

theorem State.enableRead_part (s : State) (d : Word) (last : Bool) : PartStep s (s.enableRead d last) := by
  unfold State.enableRead
  split
  · rename_i h
    refine ((s.enabledWith_part _ h).trans (State.refreshAttn_part _)).trans (State.nextEnableStep_part _ _ (p := .e1) ?_)
    exact h
  · rename_i k words h
    split
    · refine (s.registerCell_part _ _ h).trans (State.nextEnableStep_part _ _ (p := .e4 k words) ?_)
      rw [State.registerCell_mgmt]
      exact h
    · exact s.setSequence_part _ h
  · exact .refl s

theorem State.completeEnable_part (s : State) : PartStep s s.completeEnable := by
  unfold State.completeEnable
  refine PartStep.trans (t := (s.setSequence none).setWindowState .enabled) ?_ (State.raisePost_part _)
  exact ⟨rfl, List.prefix_rfl, id, fun _ r => ⟨r.1, r.2.1, fun d => (by cases d)⟩,
    fun _ r => ⟨r.1, r.2.1, fun d => (by cases d)⟩, fun _ => id⟩

theorem State.enableWritten_part (s : State) : PartStep s s.enableWritten := by
  unfold State.enableWritten
  split
  · rename_i h; exact s.nextEnableStep_part _ h
  · rename_i h; exact s.nextEnableStep_part _ h
  · exact s.completeEnable_part
  · exact .refl s

/-- A state whose cells are all OFF and whose Event Unit is reset, in DISABLED with no sequence under way. -/
theorem PartStep.of_reset {s t : State} (pass : s.pass.entries.length ≤ 8 → t.pass.entries.length ≤ 8)
    (inflight : t.mport.inflight.length ≤ s.mport.inflight.length) (run : s.arb.breakRun ≤ 15 → t.arb.breakRun ≤ 15)
    (ages : (∀ c ∈ s.arb.upkeep, c.age ≤ 16) → ∀ c ∈ t.arb.upkeep, c.age ≤ 16) (ev : t.events = .reset)
    (off : ∀ k, (t.cell k).isRegistered = false) (q : t.mgmt.sequence = none) (status : s.StatusLaw → t.StatusLaw)
    (pending : t.pending = s.pending) (out : s.out <+: t.out) : PartStep s t :=
  ⟨pending, out, fun c => ⟨pass c.1, inflight.trans c.2.1, by rw [ev]; exact Nat.zero_le _, run c.2.2.2.1,
      ages c.2.2.2.2⟩, fun _ _ => RingLaw.of_reset ev fun _ => q, fun _ _ => CellLaw.of_none off fun _ => q,
    fun _ => status⟩

theorem State.failEnable_part (s : State) : PartStep s s.failEnable := by
  unfold State.failEnable
  simp only
  refine ((s.endGroup_part (.upkeep .enable)).trans (State.orphan_part _ Owner.ofEnableOrCell)).trans ?_
  refine PartStep.trans ?_ (State.modFaults_part _ _)
  refine .of_reset id (Nat.le_refl _) id id rfl (fun k => ?_) rfl id rfl List.prefix_rfl
  rw [State.cell_mapCells]
  rfl

theorem State.enableResponse_part (s : State) (k : Kind) (last : Bool) (r : MemResponse) :
    PartStep s (s.enableResponse k last r) := by
  unfold State.enableResponse
  split
  · exact s.failEnable_part
  · exact s.enableRead_part _ _
  · split
    · exact (s.modFaults_part _).trans (State.enableWritten_part _)
    · exact s.modFaults_part _
  · split
    · exact s.enableWritten_part
    · exact .refl s

/-! ## Boundaries and resets -/

theorem Channel.afterDisable_agrees (c : Channel) : c.afterDisable.StatusAgrees := Channel.agrees_of_not_valid rfl

theorem State.endDisable_part (s : State) : PartStep s s.endDisable := by
  unfold State.endDisable
  simp only
  refine ((s.withdraw_part fun _ => true).trans (State.orphan_part _ Owner.ofWindowBlock)).trans ?_
  refine .of_reset id (Nat.le_refl _) id id rfl (fun k => ?_) rfl (fun _ n => ?_) rfl List.prefix_rfl
  · simp only [State.cell_modMgmt]
    change (State.cell (State.mapCells _ _) k).isRegistered = false
    rw [State.cell_mapCells]
    rfl
  · change (State.chan (State.mapChannels _ _) n).StatusAgrees
    rw [State.chan_mapChannels]
    exact Channel.afterDisable_agrees _

theorem State.flushNow_part (s : State) : PartStep s s.flushNow := by
  unfold State.flushNow
  exact (s.modMgmt_part _).trans (PartStep.foldl (fun s n => (s.triggerPlain_step n).toPart) chanIds _)

theorem Channel.resetWith_agrees (c : Channel) : ({ Channel.reset with ctl := c.ctl } : Channel).StatusAgrees :=
  Channel.agrees_of_not_valid rfl

theorem State.resetChannel_part (s : State) (n : ChanId) : PartStep s (s.resetChannel n) := by
  unfold State.resetChannel
  simp only
  refine PartStep.trans ?_ (State.modMgmt_part _ _)
  exact ((((s.cancelPort_step n).trans (State.withdraw_step _ n _)).turn.trans (State.orphan_turn _ n _)).trans
    (ChannelStep.of_modChan _ fun _ => Channel.agrees_of_not_valid rfl).turn).toPart

theorem State.cancelPorts_part (s : State) : PartStep s (chanIds.foldl (fun s n => s.cancelPort n) s) :=
  PartStep.foldl (fun s n => (s.cancelPort_step n).toPart) chanIds s

theorem Vector.replicate_cell (k : CellId) : ((Vector.replicate 16 Cell.reset)[k]).isRegistered = false := by
  simp only [Fin.getElem_fin, Vector.getElem_replicate]
  rfl

theorem Vector.replicate_channel (n : ChanId) : ((Vector.replicate 8 Channel.reset)[n]).StatusAgrees := by
  simp only [Fin.getElem_fin, Vector.getElem_replicate]
  exact Channel.agrees_of_not_valid rfl

/-- Every block but the Pass Queue and the in-flight list takes its reset values. -/
theorem State.resetBlocks_part (s : State) :
    PartStep s { s with
      arb := { upkeep := [], breakRun := 0 }
      channels := Vector.replicate 8 .reset
      cells := Vector.replicate 16 .reset
      events := .reset
      mgmt := s.mgmt.softReset } :=
  .of_reset id (Nat.le_refl _) (fun _ => Nat.zero_le _) (fun _ c hc => (by cases hc)) rfl Vector.replicate_cell rfl
    (fun _ => Vector.replicate_channel) rfl List.prefix_rfl

theorem State.takeSoftReset_part (s : State) : PartStep s s.takeSoftReset :=
  (s.cancelPorts_part.trans (State.orphan_part _ fun o => !o.isPass)).trans (State.resetBlocks_part _)

theorem State.powerOn_part (s : State) : PartStep s s.powerOn :=
  .of_reset (fun _ => PassQueue.acceptOffered_length _ _ (Nat.zero_le _)) (Nat.zero_le _)
    (fun _ => Nat.zero_le _) (fun _ c hc => (by cases hc)) rfl Vector.replicate_cell rfl
    (fun _ => Vector.replicate_channel) rfl List.prefix_rfl

/-! ## Responses (R15) -/

theorem State.respond_part (s : State) (row : ResponseRow) (take : InFlight → State → State)
    (h : ∀ e t, PartStep t (take e t)) : PartStep s (s.respond row take) := by
  unfold State.respond
  split
  · exact .refl s
  · rename_i e rest hr
    split
    · refine PartStep.trans (t := { s with mport := { s.mport with inflight := rest } }) ?_ (h e _)
      exact .of_grow rfl (by simp [hr]) rfl id rfl (.of_eq rfl) rfl (.of_eq rfl) rfl List.prefix_rfl
    · exact .refl s

/-- A response whose effect issues an access: the entry that left the list makes room for it. -/
theorem State.respond_room_part (s : State) (row : ResponseRow) (take : InFlight → State → State)
    (keeps : ∀ e t, Keeps t (take e t)) (h : ∀ e t, t.hasRoom = true → PartStep t (take e t)) :
    PartStep s (s.respond row take) := by
  unfold State.respond
  split
  · exact .refl s
  · rename_i e rest hr
    split
    · have step : PartStep s { s with mport := { s.mport with inflight := rest } } :=
        .of_grow rfl (by simp [hr]) rfl id rfl (.of_eq rfl) rfl (.of_eq rfl) rfl List.prefix_rfl
      refine PartStep.of_caps (fun c => step.trans (h e _ ?_)) (step.keeps.trans (keeps e _)).1
        (step.keeps.trans (keeps e _)).2
      have := c.2.1
      rw [hr, List.length_cons] at this
      exact (State.hasRoom_iff _).2 this
    · exact .refl s

theorem State.issue_keeps (s : State) (a : Access) : Keeps s (s.issue a) := ⟨rfl, ⟨[a.message], rfl⟩⟩

theorem State.cellReadResponse_keeps (s : State) (n : ChanId) (f : Fetch) (r : MemResponse) :
    Keeps s (s.cellReadResponse n f r) := by
  unfold State.cellReadResponse
  split
  · split
    · exact (((s.cellFault_part _).trans (State.breakFails_turn _ n _ _).toPart).trans
        (State.finishBreak_step _ n).toPart).keeps
    · exact ((s.fetched_part _ _ _).keeps.trans (State.issue_keeps _ _)).trans (State.checkCellValue_turn _ n _ _).toPart.keeps
  · exact (PartStep.refl s).keeps

end Sys2Proof.Machine
end

