-- ==== Sys2Proof/Laws/Words.lean ====
section
/-! SUPPORT. Lanes and fields of words, bit by bit: what `laneMask`, `field` and `setField` do to each bit (R13, R22), and that a
field reads back as it was set. -/

namespace Sys2Proof.Machine

/-- A bit of the mask is set just where its lane is enabled. -/
theorem getLsbD_laneMask (l : Lanes) {i : Nat} (h : i < 32) : (laneMask l).getLsbD i = l.getLsbD (i / 8) := by
  have table : ∀ l : Lanes, ∀ i < 32, (laneMask l).getLsbD i = l.getLsbD (i / 8) := by decide
  exact table l i h

/-- A bit of a field is the word's bit at its place. -/
theorem getLsbD_field (start len i : Nat) (w : Word) :
    (field start len w).getLsbD i = (decide (i < len) && w.getLsbD (start + i)) := by
  simp [field, BitVec.getLsbD_extractLsb']

/-- A bit of a word whose field was set: the field's bit inside the field, the old bit outside. -/
theorem getLsbD_setField (start len i : Nat) (v : BitVec len) (w : Word) :
    (setField start len v w).getLsbD i =
      if start ≤ i ∧ i < start + len ∧ i < 32 then v.getLsbD (i - start) else w.getLsbD i := by
  unfold setField
  by_cases h32 : i < 32
  · by_cases h₁ : i < start
    · simp [h32, h₁, Nat.not_le.2 h₁]
    · by_cases h₂ : i - start < len
      · have h₃ : i < start + len := by omega
        simp [h32, h₁, h₂, h₃, Nat.le_of_not_lt h₁]
      · have h₃ : ¬ i < start + len := by omega
        simp [h32, h₁, h₂, h₃]
  · simp [h32, BitVec.getLsbD_of_ge w i (by omega)]

/-- A field reads back as it was set. -/
theorem field_setField (start len : Nat) (v : BitVec len) (w : Word) (h : start + len ≤ 32) :
    field start len (setField start len v w) = v := by
  apply BitVec.eq_of_getLsbD_eq
  intro i hi
  rw [getLsbD_field, getLsbD_setField, if_pos (by omega)]
  simp [hi]

/-- Setting a field leaves a field that lies apart from it as it was. -/
theorem field_setField_apart (start len start' len' : Nat) (v : BitVec len) (w : Word)
    (h : start' + len' ≤ start ∨ start + len ≤ start') :
    field start' len' (setField start len v w) = field start' len' w := by
  apply BitVec.eq_of_getLsbD_eq
  intro i hi
  rw [getLsbD_field, getLsbD_field, getLsbD_setField, if_neg (by omega)]

/-- Setting a field to what it holds changes nothing. -/
theorem setField_field (start len : Nat) (w : Word) : setField start len (field start len w) w = w := by
  apply BitVec.eq_of_getLsbD_eq
  intro i hi
  rw [getLsbD_setField]
  split
  · rename_i h
    rw [getLsbD_field, decide_eq_true (by omega : i - start < len), Nat.add_sub_cancel' h.1]
    rfl
  · rfl

end Sys2Proof.Machine
end

