-- ==== Sys2Proof/WellFormed.lean ====
section
/-! DEFINITION. Which commands are well formed: the operand values that make the command the row it stands for. -/

namespace Sys2Proof

/-- A command is well formed when its operands are those of its row: an UNKNOWN_COMMAND carries code 6 or 7 (R67), an
ENABLE_WINDOW frame has ENABLE 1 and a DISABLE_WINDOW frame ENABLE 0 (R178; ENABLE is bit 0 of WINDOW_CONTROL, R176), a
DISCARDED_FRAME has fewer or more than six bytes (R175). Every other operand is limited by its type. -/
def Instr.wellFormed : Instr → Bool
  | .unknownCommand _ code => code == 6#3 || code == 7#3
  | .enableWindow data => data.getLsbD 0
  | .disableWindow data => !data.getLsbD 0
  | .discardedFrame bytes => bytes.length != 6
  | .readRequest .. | .writeRequest .. | .grantDecision .. | .groupAccessIssue .. | .start ..
  | .stop .. | .resume .. | .abort .. | .clear .. | .forwardedResponse ..
  | .cellhitReadResponse .. | .cellWriteBackResponse .. | .breakCellReadResponse .. | .breakDataResponse .. | .strictWriteResponse ..
  | .fillReadResponse .. | .writebackWriteResponse .. | .linkReadResponse .. | .cellLoadResponse .. | .cellStatusWriteResponse ..
  | .postWriteResponse .. | .recoveryReadResponse .. | .enableStepResponse .. | .orphanedResponse .. | .channelRequest ..
  | .quietTimerExpiry .. | .holdoffExpiry .. | .disableEnd .. | .registerWrite .. | .faultStatusClear ..
  | .flush .. | .flushAtBoundary .. | .eventPathReset .. | .channelReset .. | .channelResetTakesEffect ..
  | .softReset .. | .softResetTaken .. | .powerOnReset .. => true

end Sys2Proof
end

