-- ==== Sys2Proof/Tests/Slice0.lean ====
section
/-! SUPPORT. Small tests: the ill-formed commands that the check refuses, one command each on a small state, and for each
statement with hypotheses concrete states that meet them. -/

namespace Sys2Proof.Tests

open Sys2Proof.Machine

set_option Elab.async false

/-! ## Ill-formed commands are refused -/

theorem test_unknownCommand_needs_code_6_or_7 : Instr.wellFormed (.unknownCommand 0 5#3) = false := by decide

theorem test_enableWindow_needs_ENABLE_1 : Instr.wellFormed (.enableWindow 0x40#32) = false := by decide

theorem test_disableWindow_needs_ENABLE_0 : Instr.wellFormed (.disableWindow 0x41#32) = false := by decide

theorem test_discardedFrame_is_not_six_bytes : Instr.wellFormed (.discardedFrame [0, 0, 0, 0, 0, 0]) = false := by decide

theorem test_good_commands_are_well_formed :
    ([.unknownCommand 0 6#3, .unknownCommand 7 7#3, .enableWindow 0x41#32, .disableWindow 0x40#32, .discardedFrame [],
      .start 0, .grantDecision] : List Instr).all Instr.wellFormed = true := by decide

theorem test_no_word_spells_a_command : decodeTableWord 32 0 = none := by decide

/-! ## Small states -/

/-- The part with its window ENABLED at 0x800 and N 16. -/
def on : State :=
  { State.reset with mgmt := { State.reset.mgmt with windowState := .enabled, windowBase := 0x800#26, enable := true } }

/-- The part after SOFT_RESET was ordered. -/
def ordered : State := { on with mgmt := { on.mgmt with softWaiting := true } }

/-- A request of a device. -/
def req : DeviceRequest := { direction := .dirIn, holdAddress := false, address := 0x40#26, data := 7#32 }

/-- A clean line: COUNTED, IN, STRICT, STRIDE 1, with these words. -/
def lineWith (count address chain : Word) : ValidLine where
  words :=
    { count := count, address := address, control := 0x54#32, status := 0#32, chain := chain, cookie := 0xC0#32,
      done := 0#32, segments := 0#32 }
  dirty := .fill false
  wbPhase := .none
  serves := .plain
  requested := none

/-- The line of a channel with 2 words to move from 0x100. -/
def line₂ : ValidLine := lineWith 2#32 0x100#32 0#32

/-- A line with DONE dirty. -/
def dirtyLine : ValidLine := { line₂ with dirty := { line₂.dirty with done := true } }

/-- A channel in a state, with a setup of this mode. -/
def channel (mode : Mode) (st : ChanState) (p : Port) (l : Line) : Channel :=
  { Channel.reset with
    ctl := { Controller.reset with state := st, setup := some { mode := mode, direction := .dirIn, track := .strict } }
    port := p
    line := l }

/-- The part with channel 0 so. -/
def with₀ (c : Channel) : State := on.setChan 0 c

/-- Channel 0 COUNTED in a state with line₂ and an IDLE port. -/
def idle₀ (st : ChanState) : State := with₀ (channel .counted st .idle (.valid line₂))

/-- The oldest access in flight belongs to this owner. -/
def awaiting (o : Owner) (k : Kind) (s : State) : State :=
  { s with mport := { s.mport with inflight := [{ owner := o, kind := k, addr := 0x100#26, lanes := 0xF#4, orphan := false }] } }

/-- An UPKEEP claim waits alone. -/
def claiming (k : UpkeepKind) (s : State) : State := { s with arb := { s.arb with upkeep := [{ kind := k, age := 0 }] } }

/-- The fields of a cell. -/
def fields : CellFields :=
  { step := 1#8, saturate := false, evLimit := true, evRange := true, low := 0#32, high := 9#32 }

/-- A LIVE cell at 0x200. -/
def liveCell : Cell := { Cell.reset with cstate := .live fields, copy := 0x80000200#32 }

/-- The part with cell 3 LIVE at 0x200. -/
def withCell : State := on.setCell 3 liveCell

/-- A request of the initiator, WAITING at the front of the Pass Queue. -/
def waitingEntry (k : Kind) (a : Addr) : PassEntry :=
  { id := 0, request := { kind := k, addr := a, lanes := 0xF#4, data := 5#32 }, phase := .waiting, cls := none }

/-- That entry alone in the Pass Queue. -/
def offering (k : Kind) (a : Addr) (s : State) : State :=
  { s with pass := { entries := [waitingEntry k a], offered := [], nextId := 1 } }

/-- An entry whose access has been issued. -/
def issuedEntry (id : Nat) : PassEntry := { waitingEntry .read 0x200#26 with id := id, phase := .issued }

/-- The slot of a granted break that stepped from line₂'s values. -/
def slot (r : BreakResult) : BreakProgress where
  stepped := true
  addressTouched := true
  prevCount := 3#32
  prevAddress := 0xFF#32
  prevDone := 0#32
  countReplaced := false
  addressReplaced := false
  dataAddr := 0xFF#26
  result := r

/-- Channel 0 MOVING with a granted break. -/
def moving (l : ValidLine) (r : BreakResult) : State := with₀ (channel .counted .moving (.granted req (slot r)) (.valid l))

/-- An event. -/
def anEvent : Event := { kind := .terminal, source := 0#4, word1 := 1#32, detailA := 2#32, detailB := 3#32 }

/-- The event in post of a group granted at PRODUCER 0. -/
def inPost : InPost := { event := anEvent, sequence := 0#16, prevProducer := 0#16, prevSequence := 0#16, restored := false }

/-- A post GRANTED with this many responses outstanding. -/
def posting (left : Nat) : State :=
  awaiting (.post 0) .write
    { on with events := { on.events with postPhase := .granted left, inPost := some inPost, producer := 1#16, nextSequence := 1#16 } }

/-- The event path has failed. -/
def failedPath (r : Recovery) : State := { on with events := { on.events with path := .failed, recovery := r } }

theorem noHeld_of_idle (c : Channel) (h : c.port = .idle) : c.NoHeld := by intro r; rw [h]; simp

/-! ## The hypotheses of the statements are met

One theorem for each statement with hypotheses: concrete states and operands for each of its clauses, the boundary values
of a range among them. `Awaits` and `NoHeld` come from the four lemmas here. -/

theorem awaits_awaiting (o : Owner) (k : Kind) (s : State) : (awaiting o k s).Awaits o [] := ⟨_, rfl, rfl, rfl⟩

theorem notHeld_of_accepted (c : Channel) (r : DeviceRequest) (h : c.port = .accepted r) : c.NoHeld := by
  intro q; rw [h]; simp

theorem notGranted_of_idle (c : Channel) (h : c.port = .idle) : ∀ req g, c.port ≠ .granted req g := by
  intro r g; rw [h]; simp

/-- Channel 0 with a VALID line that shows its STATUS, and cell 3 LIVE. -/
def lawful : State := (idle₀ .off).setCell 3 liveCell

/-- EveryStepKeepsTheCapacities, …TheRingLaw, …TheCellLaw, …TheStatusLaw. -/
theorem test_hyps_EveryStepKeeps : lawful.Capacities ∧ lawful.RingLaw ∧ lawful.CellLaw ∧ lawful.StatusLaw ∧
    (lawful.chan 0).lineValid = true ∧ step lawful = .next lawful.tick := by
  refine ⟨?_, ⟨?_, ⟨?_, ?_⟩, ?_⟩, ?_, ?_, ?_, rfl⟩
  · unfold State.Capacities; decide +kernel
  · decide +kernel
  · decide +kernel
  · intro p h; cases h
  · unfold State.AtRest; decide +kernel
  · unfold State.CellLaw State.CellsDistinct State.CellsOutside; decide +kernel
  · unfold State.StatusLaw Channel.StatusAgrees; decide +kernel
  · decide +kernel

theorem test_hyps_EnabledLanesReplaceTheirBytes : 0 < 32 ∧ 31 < 32 ∧ ¬ 32 < 32 := by decide

theorem test_hyps_ClassifierTable :
    State.reset.mgmt.windowState = .disabled ∧ on.mgmt.windowState ≠ .disabled ∧
    on.windowWord 0x800#26 = some 0 ∧ on.windowWord 0x83F#26 = some 63 ∧ on.windowWord 0x840#26 = some 64 ∧
    on.windowWord 0x88F#26 = some 143 ∧ on.windowWord 0x890#26 = some 144 ∧ on.windowWord 0x893#26 = some 147 ∧
    on.windowWord 0x894#26 = some 148 ∧ on.windowWord 0x8D3#26 = some 211 ∧ on.windowWord 0x8D4#26 = none ∧
    on.windowWord 0x7FF#26 = none ∧ withCell.mgmt.windowState ≠ .disabled ∧ withCell.windowWord 0x200#26 = none ∧
    (withCell.cell 3).isLive = true ∧ (withCell.cell 3).address = 0x200#26 ∧
    ¬ ∃ k, (on.cell k).isLive = true ∧ (on.cell k).address = 0x200#26 := by decide +kernel

/-- A state with these UPKEEP claims. -/
def upkeep (l : List UpkeepClaim) (s : State) : State := { s with arb := { s.arb with upkeep := l } }

/-- A state with n accesses in flight. -/
def busy (n : Nat) (s : State) : State :=
  let e : InFlight := { owner := .recovery, kind := .read, addr := 0#26, lanes := 0xF#4, orphan := true }
  { s with mport := { s.mport with inflight := List.replicate n e } }

/-- Channel 0 PENDING with an accepted request and this setup mode and line. -/
def brk₀ (m : Mode) (v : ValidLine) : State := with₀ (channel m .pending (.accepted req) (.valid v))

theorem test_hyps_OrderOfChoice :
    (∃ s : State, s = upkeep ([{ kind := .fill 0, age := 15 }] ++ { kind := .post, age := 16 } :: []) on ∧
      s.mport.inflight.length < 4 ∧ (∀ d ∈ [({ kind := .fill 0, age := 15 } : UpkeepClaim)], d.age ≠ 16)) ∧
    (∃ s : State, s = offering .read 0x40#26 (brk₀ .counted line₂) ∧ s.mport.inflight.length < 4 ∧ s.arb.upkeep = [] ∧
      (s.chan 0).breakClaimed = true ∧ s.passClaim = some (waitingEntry .read 0x40#26) ∧
      s.arb.breakRun < s.mgmt.breakRunLimit.toNat) ∧
    (∃ s : State, s = { offering .read 0x40#26 (brk₀ .counted line₂) with arb := { upkeep := [], breakRun := 4 } } ∧
      s.mport.inflight.length < 4 ∧ (s.chan 0).breakClaimed = true ∧
      s.passClaim = some (waitingEntry .read 0x40#26) ∧ ¬ s.arb.breakRun < s.mgmt.breakRunLimit.toNat) ∧
    (∃ s : State, s = claiming .post on ∧ s.mport.inflight.length < 4 ∧
      (∀ n, (s.chan n).breakClaimed = false) ∧ s.passClaim = none) ∧
    (∃ s : State, s = busy 4 (claiming .post on) ∧ ¬ s.mport.inflight.length < 4 ∧ s.passClaim = none) ∧
    (on.passClaim = none ∧ on.arb.upkeep = [] ∧ ∀ n, (on.chan n).breakClaimed = false) := by
  refine ⟨⟨_, rfl, ?_⟩, ⟨_, rfl, ?_⟩, ⟨_, rfl, ?_⟩, ⟨_, rfl, ?_⟩, ⟨_, rfl, ?_⟩, ?_⟩ <;> decide +kernel

/-- A Pass Queue of n waiting entries. -/
def queueOf (n : Nat) : State :=
  { on with pass := { entries := (List.range n).map fun i => { waitingEntry .read 0#26 with id := i }, offered := [],
                      nextId := n } }

theorem test_hyps_RequestIsAcceptedOrStaysOffered :
    ((queueOf 7).pass.entries.length < 8 ∧ (queueOf 7).pass.offered = []) ∧ 8 ≤ (queueOf 8).pass.entries.length := by
  decide +kernel

/-- An orphaned fill read in flight. -/
def orphaned : InFlight := { owner := .fill 0 3, kind := .read, addr := 0x803#26, lanes := 0xF#4, orphan := true }

theorem test_hyps_StrayResponsesAreDiscarded :
    on.mport.inflight = [] ∧
    ∃ s : State, s = { on with mport := { inflight := [orphaned], lock := none } } ∧ s.mport.inflight = orphaned :: [] ∧
      orphaned.orphan = true := ⟨rfl, _, rfl, rfl, rfl⟩

/-- Two issued entries. -/
def issued₂ : State := { on with pass := { entries := [issuedEntry 0, issuedEntry 1], offered := [], nextId := 2 } }

theorem test_hyps_ForwardedResponseAnswersItsEntry :
    issued₂.pass.entries = issuedEntry 0 :: [issuedEntry 1] ∧ (∀ x ∈ [issuedEntry 1], x.id ≠ (issuedEntry 0).id) ∧
    (issuedEntry 0).id ≠ 1 ∧ (issuedEntry 0).response? = none ∧ issued₂.pass.offered = [] ∧
    (awaiting (.pass 0) .read issued₂).Awaits (.pass (issuedEntry 0).id) [] ∧
    (awaiting (.pass 1) .read issued₂).Awaits (.pass 1) [] :=
  ⟨rfl, by decide, by decide, rfl, rfl, awaits_awaiting _ _ _, awaits_awaiting _ _ _⟩

theorem test_hyps_ForwardedGrantIssuesTheAccessUnchanged :
    (∀ p ∈ [(Kind.read, 0x40#26), (.write, 0x40#26), (.read, 0x8D3#26), (.write, 0x8D3#26), (.read, 0x800#26)],
      (offering p.1 p.2 on).Grants (.pass (waitingEntry p.1 p.2)) ∧
      (offering p.1 p.2 on).served? (waitingEntry p.1 p.2).request = none ∧
      (offering p.1 p.2 on).classify (waitingEntry p.1 p.2).request ≠ .cellhit) ∧
    (offering .write 0x40#26 on).classify (waitingEntry .write 0x40#26).request = .plain ∧
    (offering .write 0x8D3#26 on).classify (waitingEntry .write 0x8D3#26).request = .ringbody := by
  unfold State.Grants; decide +kernel

theorem test_hyps_SnoopedWriteActsAtItsGrant :
    ∀ w ∈ [0, 63, 64, 65, 66, 67, 124, 125, 126, 127, 128, 143, 144, 145, 146, 147],
      (offering .write (on.wordAddr w) on).Grants (.pass (waitingEntry .write (on.wordAddr w))) ∧
      (offering .write (on.wordAddr w) on).windowWord (waitingEntry .write (on.wordAddr w)).request.addr = some w ∧
      (offering .write (on.wordAddr w) on).mgmt.windowState ≠ .disabled ∧ w < 148 := by
  unfold State.Grants; decide +kernel

/-- Channel 7 READY. -/
def ready₇ : State := on.setChan 7 (channel .counted .ready .idle (.valid line₂))

theorem test_hyps_ServedReadIsAnsweredFromTheCopy :
    (∀ w ∈ [56, 63, 144, 145, 147],
      (offering .read (on.wordAddr w) ready₇).Grants (.pass (waitingEntry .read (on.wordAddr w))) ∧
      (offering .read (on.wordAddr w) ready₇).windowWord (waitingEntry .read (on.wordAddr w)).request.addr = some w) ∧
    ready₇.mgmt.windowState ≠ .disabled ∧ (ready₇.chan 7).line = .valid line₂ ∧
    56 = 8 * (7 : ChanId).val + RecWord.count.index ∧ 63 = 8 * (7 : ChanId).val + RecWord.segments.index := by
  unfold State.Grants; decide +kernel

/-- The lock's group waits for the read of cell 3. -/
def fetching (src : GroupSource) (s : State) : State :=
  { s with mport := { s.mport with
      lock := some { source := src, todo := [], fetch := some { cell := 3, addr := 0x200#26, fields := fields } } } }

/-- The read of a CELLHIT pair in flight. -/
def pairRead : State :=
  fetching (.pass 0) (awaiting (.passCell 0 3) .read
    { withCell with pass := { entries := [issuedEntry 0], offered := [], nextId := 1 } })

theorem test_hyps_CellhitPairReadsAndWritesBack :
    ((offering .read 0x200#26 withCell).Grants (.pass (waitingEntry .read 0x200#26)) ∧
      (offering .read 0x200#26 withCell).classify (waitingEntry .read 0x200#26).request = .cellhit ∧
      ((offering .read 0x200#26 withCell).cell 3).cstate = .live fields ∧
      ((offering .read 0x200#26 withCell).cell 3).address = 0x200#26 ∧
      (offering .read 0x200#26 withCell).CellsDistinct) ∧
    pairRead.Awaits (.passCell (issuedEntry 0).id 3) [] ∧
    (pairRead.mport.lock = some { source := .pass 0, todo := [], fetch := some { cell := 3, addr := 0x200#26, fields := fields } } ∧
      pairRead.pass.entries = issuedEntry 0 :: [] ∧ pairRead.pass.offered = [] ∧ ¬ pairRead.NoCells) := by
  refine ⟨?_, ⟨_, rfl, rfl, rfl⟩, ?_⟩
  · unfold State.Grants State.CellsDistinct; decide +kernel
  · decide +kernel

/-- A group that holds the lock with these accesses left. -/
def locked (l : List Access) (s : State) : State :=
  { s with mport := { s.mport with lock := some { source := .upkeep .post, todo := l, fetch := none } } }

/-- A write of a post. -/
def postWrite : Access := .ofWrite (.post 1) 0x895#26 7#32

theorem test_hyps_GroupAccessIssueSendsTheNextAccess :
    ((locked [postWrite] (busy 3 on)).mport.lock = some { source := .upkeep .post, todo := [postWrite], fetch := none } ∧
      (locked [postWrite] (busy 3 on)).mport.inflight.length < 4) ∧
    on.mport.lock = none ∧ (locked [] on).mport.lock = some { source := .upkeep .post, todo := [], fetch := none } ∧
    4 ≤ (locked [postWrite] (busy 4 on)).mport.inflight.length := by decide +kernel

/-- A line whose waiting writeback has COUNT alone to write. -/
def countClaimed : ValidLine := { line₂ with dirty := { line₂.dirty with count := true }, wbPhase := .claimed }

/-- The stalled event's channel: it takes no command. -/
def stalled (c : Channel) : Channel := { c with ctl := { c.ctl with stalled := some anEvent } }

theorem test_hyps_RecordWriteByLineState :
    ((idle₀ .ready).chan 0).line = .valid line₂ ∧ RecWord.count ≠ .control ∧ line₂.wbPhase ≠ .claimed ∧
    countClaimed.wbPhase = .claimed ∧ (countClaimed.dirty.set .count (countClaimed.dirty.get .count && 0xF#4 != 0xF#4)).any = false ∧
    ((with₀ (channel .counted .off .idle (.filling .claimed 0#3))).chan 0).line = .filling .claimed 0#3 ∧
    ((with₀ (channel .counted .off .idle (.filling (.granted [1#32] .empty) 0#3))).chan 0).line =
      .filling (.granted [1#32] .empty) 0#3 ∧
    (on.chan 0).line = .invalid ∧ ¬ (0xF#4).getLsbD 1 = false ∧ commandOf 0x1000#32 ≠ 0#3 ∧
    ((with₀ (stalled (channel .counted .off .idle .invalid))).chan 0).canTake = false ∧
    (stalled (channel .counted .off .idle .invalid)).port = .idle := by decide +kernel

/-- A granted link and a granted break of a channel with a clean VALID line. -/
theorem test_hyps_RecordWriteByLineState_granted :
    (∀ s ∈ [with₀ { channel .counted .linking .idle (.valid line₂) with
        walker := { Walker.reset with phase := .granted 0x40#26 [1#32] .empty } }, moving line₂ .outstanding],
      (s.chan 0).line = .valid line₂ ∧ (∀ w ∈ [RecWord.count, .address, .chain, .status], w ≠ .control)) ∧
    ((with₀ { channel .counted .linking .idle (.valid line₂) with
        walker := { Walker.reset with phase := .granted 0x40#26 [1#32] .empty } }).chan 0).walker.phase =
      .granted 0x40#26 [1#32] .empty ∧
    ((moving line₂ .outstanding).chan 0).port = .granted req (slot .outstanding) ∧ line₂.wbPhase ≠ .claimed := by
  decide +kernel

theorem test_hyps_ControlWriteAndItsSetupLock :
    ∀ st ∈ [ChanState.loading, .ready, .pending, .moving, .linking, .draining, .ending],
      ((idle₀ st).chan 0).line = .valid line₂ ∧ ((idle₀ st).chan 0).ctl.state = st ∧
      setupBits (lay 0xF#4 0x50#32 line₂.words.control) ≠ setupBits line₂.words.control ∧ commandOf 0x50#32 = 0#3 ∧
      commandOf line₂.words.control = 0#3 ∧ ((idle₀ st).chan 0).port = .idle ∧
      strideValid (lay 0xF#4 0x50#32 line₂.words.control) = true ∧ ((idle₀ st).chan 0).ctl.stalled = none := by
  decide +kernel

/-- A line whose CONTROL has a STRIDE of −8, and one with the untaken command STOP. -/
def strideLine : ValidLine := { line₂ with words := { line₂.words with control := 0x614#32 } }

def stopLine : ValidLine := { line₂ with words := { line₂.words with control := 0x2054#32 } }

/-- Writes of CONTROL: a locked setup with a command, where the channel is stalled too; a new setup in OFF, HALTED and
FAULTED; a forbidden STRIDE in each state that R77 names, with and without a group running. -/
theorem test_hyps_ControlWriteAndItsSetupLock_goesOn :
    (∀ st ∈ [ChanState.loading, .ready, .pending, .moving, .linking, .draining, .ending],
      ((idle₀ st).chan 0).line = .valid line₂ ∧ ((idle₀ st).chan 0).ctl.state = st ∧
      setupBits (lay 0xF#4 0x2050#32 line₂.words.control) ≠ setupBits line₂.words.control ∧
      ((idle₀ st).chan 0).ctl.stalled = none ∧ ((with₀ (stalled ((idle₀ st).chan 0))).chan 0).ctl.stalled ≠ none) ∧
    (∀ st ∈ [ChanState.off, .halted, .faulted],
      ((idle₀ st).chan 0).line = .valid line₂ ∧ ((idle₀ st).chan 0).ctl.state = st ∧ line₂.wbPhase ≠ .claimed ∧
      ((idle₀ st).chan 0).port = .idle ∧ commandOf 0x50#32 = 0#3 ∧ commandOf line₂.words.control = 0#3) ∧
    (∀ st ∈ [ChanState.ready, .pending, .moving, .draining, .linking],
      ((idle₀ st).chan 0).ctl.state = st ∧ strideValid (lay 0xF#4 0x254#32 line₂.words.control) = false ∧
      setupBits (lay 0xF#4 0x254#32 line₂.words.control) = setupBits line₂.words.control ∧
      ((idle₀ st).chan 0).opInFlight = false ∧ ((idle₀ st).chan 0).ctl.stalled = none ∧
      ((idle₀ st).chan 0).ctl.pendingFault = none ∧ commandOf 0x254#32 = 0#3) ∧
    strideValid strideLine.words.control = true ∧
    ((moving line₂ .outstanding).chan 0).opInFlight = true ∧
    (∃ s : State, s = with₀ (channel .counted .ready .idle (.valid stopLine)) ∧ s.Takes 0 ∧ (s.chan 0).untaken = 2#3) ∧
    (∃ s : State, s = with₀ (channel .counted .ending .idle (.valid stopLine)) ∧ (s.chan 0).canTake = false ∧
      (s.chan 0).port = .idle) ∧
    ((channel .counted .off .idle .invalid).line = .invalid ∧ (channel .counted .off .idle .invalid).canTake = true ∧ commandOf 0x1000#32 ≠ 0#3) := by
  refine ⟨?_, ?_, ?_, ?_, ?_, ⟨_, rfl, ?_⟩, ⟨_, rfl, ?_⟩, ?_⟩ <;> (try unfold State.Takes) <;> decide +kernel

/-- A write of CONTROL that carries a command has it obeyed, waits with it, or is refused for its setup and then obeyed. -/
theorem test_recordWrite_carries_a_command :
    [(ChanState.ready, 0x2054#32), (.moving, 0x2054#32), (.ending, 0x2054#32), (.ready, 0x2050#32), (.ready, 0x254#32),
      (.halted, 0x50#32)].map (fun p =>
        let t := (idle₀ p.1).recordWrite 0 .control 0xF#4 p.2
        ((t.chan 0).ctl.state, (t.chan 0).untaken, (t.chan 0).ctl.lastRefusal, (t.chan 0).ctl.lastFault)) =
      [(.halted, 0#3, none, none), (.draining, 0#3, none, none), (.ending, 2#3, none, none),
        (.halted, 0#3, some .setupLocked, none), (.faulted, 0#3, none, some .badSetup), (.halted, 0#3, none, none)] := by
  decide +kernel

/-- The ring with these indices. -/
def ring (p c : RingIndex) : State := { on with events := { on.events with producer := p, consumer := c } }

/-- A full Pending Event Queue. -/
def fullQueue (s : State) : State := { s with events := { s.events with queue := List.replicate 8 anEvent } }

theorem test_hyps_RingControlWritesAtTheirGrant :
    ((ring 16 0).events.producer - field 0 16 (lay 0xF#4 0#32 0#32)).toNat ≤ (ring 16 0).ringSlots ∧
    (¬ ((ring 17 1).events.producer - field 0 16 (lay 0xF#4 0#32 1#32)).toNat ≤ (ring 17 1).ringSlots ∧
      (ring 17 1).events.intake = .opened ∧ (ring 17 1).events.heldRejection = none ∧ (ring 17 1).events.count < 8) ∧
    (¬ ((fullQueue (ring 17 1)).events.producer - field 0 16 (lay 0xF#4 0#32 1#32)).toNat ≤ (ring 17 1).ringSlots ∧
      ¬ (fullQueue (ring 17 1)).events.count < 8) ∧
    ∃ s : State, s = { ring 17 1 with events := { (ring 17 1).events with intake := .closed } } ∧
      s.events.intake = .closed ∧ ¬ (s.events.producer - field 0 16 (lay 0xF#4 0#32 1#32)).toNat ≤ s.ringSlots := by
  refine ⟨?_, ?_, ?_, _, rfl, ?_⟩ <;> decide +kernel

/-- Cell 3 with a load granted. -/
def loadingCell (ws : List Word) : State :=
  awaiting (.cellLoad 3 ws.length) .read
    (on.setCell 3 { liveCell with cstate := .loading (.granted ws .empty) })

theorem test_hyps_CellRecordWritesByState :
    withCell.mgmt.windowState ≠ .disabled ∧ (withCell.cell 3).cstate = .live fields ∧
    (lay 0xF#4 0#32 (withCell.cell 3).copy).getLsbD 31 = false ∧
    ((lay 0xF#4 0x80000200#32 (withCell.cell 3).copy).getLsbD 31 = true ∧ (withCell.cell 3).isLive = true ∧
      (withCell.cell 3).address = 0x200#26) ∧
    (withCell.inWindow 0x800#26 = true ∧ withCell.inWindow 0x8D3#26 = true ∧ withCell.inWindow 0x7FF#26 = false ∧
      withCell.inWindow 0x8D4#26 = false) ∧
    (∃ j : CellId, j ≠ 4 ∧ (withCell.cell j).isRegistered = true ∧ (withCell.cell j).address = 0x200#26) ∧
    (¬ (∃ j : CellId, j ≠ 4 ∧ (withCell.cell j).isRegistered = true ∧ (withCell.cell j).address = 0x300#26) ∧
      withCell.inWindow 0x300#26 = false ∧ (withCell.cell 4).isLive = false ∧ (withCell.cell 4).isRegistered = false ∧
      withCell.cellClaimed 4 = false) ∧
    ((loadingCell [1#32]).cell 3).cstate = .loading (.granted [1#32] .empty) ∧
    (cellFieldsOf (lay 0xF#4 0#32 fields.setupWord) fields.low fields.high).step = 0#8 ∧
    (cellFieldsOf fields.setupWord (lay 0xF#4 9#32 fields.low) fields.high).step ≠ 0#8 ∧
    ¬ (cellFieldsOf fields.setupWord (lay 0xF#4 9#32 fields.low) fields.high).high.toNat < (lay 0xF#4 9#32 fields.low).toNat ∧
    (cellFieldsOf fields.setupWord (lay 0xF#4 10#32 fields.low) fields.high).high.toNat < (lay 0xF#4 10#32 fields.low).toNat ∧
    (withCell.cell 4).cstate = .off := by decide +kernel

/-- Cell 3 LOADING at 0x200, its load so, and cell 4 LIVE at 0x300. -/
def loadingAt (p : LoadPhase) : State :=
  (on.setCell 3 { liveCell with cstate := .loading p }).setCell 4 { liveCell with copy := 0x80000300#32 }

/-- A load that is due, claimed or granted: a commit goes on with it, with and without a status claim; VALID 0, an address in
the window and a duplicate abandon it. -/
theorem test_hyps_CellRecordWritesByState_loading :
    ∀ p ∈ [LoadPhase.due, .claimed, .granted [1#32] .empty],
      (loadingAt p).mgmt.windowState ≠ .disabled ∧ ((loadingAt p).cell 3).cstate = .loading p ∧
      ((loadingAt p).cell 3).isLive = false ∧ (loadingAt p).claimed (.cellStatus 3) = false ∧
      (claiming (.cellStatus 3) (loadingAt p)).claimed (.cellStatus 3) = true ∧
      (lay 0xF#4 0x80000200#32 ((loadingAt p).cell 3).copy).getLsbD 31 = true ∧ (loadingAt p).inWindow 0x200#26 = false ∧
      (¬ ∃ j : CellId, j ≠ 3 ∧ ((loadingAt p).cell j).isRegistered = true ∧ ((loadingAt p).cell j).address = 0x200#26) ∧
      (∃ j : CellId, j ≠ 3 ∧ ((loadingAt p).cell j).isRegistered = true ∧ ((loadingAt p).cell j).address = 0x300#26) ∧
      (((loadingAt p).cellAddrWrite 3 0xF#4 0#32).cell 3).cstate = .off ∧
      (((loadingAt p).cellAddrWrite 3 0xF#4 0x80000800#32).cell 3).cstate = .rejected .inWindow ∧
      (((loadingAt p).cellAddrWrite 3 0xF#4 0x80000300#32).cell 3).cstate = .rejected .duplicate := by decide +kernel

theorem test_cell_in_the_window_is_rejected_with_code_1 :
    ((loadingAt .due).cellAddrWrite 3 0xF#4 0x80000800#32).events.queue.map (fun e => (e.kind, e.source, e.detailA)) =
      [(.cellRejected, 3#4, 1#32)] := by decide +kernel

/-- An occurrence that waits in its slot. -/
def heldOccurrence : Occurrence := { kind := .limit, detail := 9#32, merge := 255#8 }

theorem test_hyps_CellOccurrenceEntersWaitsOrMerges :
    (∃ s : State, s = { withCell with events := { withCell.events with intake := .closed } } ∧
      s.mgmt.windowState ≠ .disabled ∧ s.events.intake = .closed) ∧
    (∃ s : State, s = on.setCell 3 { liveCell with held := some heldOccurrence } ∧ s.mgmt.windowState ≠ .disabled ∧
      s.events.intake = .opened ∧ (s.cell 3).held = some heldOccurrence) ∧
    (withCell.events.intake = .opened ∧ (withCell.cell 3).held = none ∧ (withCell.cell 3).queuedMark = false ∧
      withCell.events.count < 8 ∧ withCell.events.inPost = none) ∧
    ((fullQueue withCell).events.intake = .opened ∧ ((fullQueue withCell).cell 3).held = none ∧
      ¬ (fullQueue withCell).events.count < 8) := by
  refine ⟨⟨_, rfl, ?_⟩, ⟨_, rfl, ?_⟩, ?_, ?_⟩ <;> decide +kernel

/-- A fetch that outlives a failed enable finds the window DISABLED, or in E1 of a new sequence. -/
theorem test_hyps_no_cells :
    State.reset.mgmt.windowState = .disabled ∧
    (∃ s : State, s = { on with mgmt := { on.mgmt with windowState := .enabling, sequence := some .e1 } } ∧ s.NoCells) ∧
    ¬ withCell.NoCells ∧ withCell.mgmt.sequence ≠ some .e1 := by
  refine ⟨?_, ⟨_, rfl, ?_⟩, ?_⟩ <;> decide +kernel

/-- The fields of a cell that runs from 2 to 9. -/
def run (step : BitVec 8) (saturate on : Bool) : CellFields :=
  { step := step, saturate := saturate, evLimit := on, evRange := on, low := 2#32, high := 9#32 }

theorem test_hyps_SteppedValueAndItsOccurrence :
    ((run 3#8 false true).step ≠ 0#8 ∧ (run 3#8 false true).low.toNat ≤ (run 3#8 false true).high.toNat ∧
      withCell.mgmt.windowState ≠ .disabled) ∧
    ((1 : Int) < 2 ∧ 0 < (run 3#8 false true).step.toInt ∧ (run 0xFD#8 false true).step.toInt < 0) ∧
    ((stepValue (run 3#8 false true) 1).2 = some .range ∧ (stepValue (run 0xFD#8 false false) 10).2 = some .range) ∧
    ((stepValue (run 3#8 false true) 6).2 = none ∧ (stepValue (run 0xFD#8 false true) 5).2 = none) ∧
    ((9 : Int) < 7 + (run 3#8 false true).step.toInt ∧ (stepValue (run 3#8 false true) 7).2 = some .limit ∧
      (stepValue (run 3#8 true false) 7).2 = some .limit) ∧
    (4 + (run 0xFD#8 false true).step.toInt < 2 ∧ (stepValue (run 0xFD#8 false true) 4).2 = some .limit ∧
      (stepValue (run 0xFD#8 true false) 4).2 = some .limit) := by decide +kernel

/-- A line whose STRIDE leaves the address space at its next step. -/
def lastLine : ValidLine := lineWith 2#32 0x3FFFFFF#32 0#32

/-- Channel 0 DRAINING with an accepted request. -/
def draining₀ (v : ValidLine) : State := with₀ (channel .counted .draining (.accepted req) (.valid v))

theorem test_hyps_BreakGrantStepsAndIssuesTheData :
    (∀ m ∈ [Mode.counted, .direct], ∀ v ∈ [line₂, lastLine],
      (brk₀ m v).Grants (.brk 0) ∧ ((brk₀ m v).chan 0).port = .accepted req ∧ ((brk₀ m v).chan 0).line = .valid v ∧
      ((brk₀ m v).chan 0).ctl.state = .pending ∧ countOf v.words.count ≠ 0#24 ∧ ((brk₀ m v).chan 0).mode ≠ .cell ∧
      (brk₀ m v).inWindow (addrOf v.words.address) = false ∧ (brk₀ m v).inWindow req.address = false) ∧
    (draining₀ line₂).Grants (.brk 0) ∧ ((draining₀ line₂).chan 0).ctl.state = .draining ∧
    ((brk₀ .counted lastLine).chan 0).mode = .counted ∧ req.holdAddress = false ∧
    strideOf lastLine.words.control = 1 ∧
    ¬ ((addrOf lastLine.words.address).toNat : Int) + strideOf lastLine.words.control ≤ 0x3FFFFFF := by
  unfold State.Grants; decide +kernel

theorem test_hyps_BreakGrantThatIssuesNothing :
    (∀ v ∈ [lineWith 0#32 0x100#32 0#32, lineWith 0#32 0x100#32 0x40#32, lineWith 1#32 0x800#32 0#32,
        lineWith 1#32 0x8D3#32 0#32],
      (brk₀ .counted v).Grants (.brk 0) ∧ (brk₀ .counted v).Unhindered 0 ∧
      ((brk₀ .counted v).chan 0).port = .accepted req ∧ ((brk₀ .counted v).chan 0).line = .valid v ∧
      commandOf v.words.control = 0#3 ∧ ((brk₀ .counted v).chan 0).ctl.state = .pending ∧
      ((brk₀ .counted v).chan 0).mode ≠ .cell ∧ evSegmentOf v.words.control = false ∧
      ((brk₀ .counted v).chan 0).walker.flags.evEnd = false ∧ ((brk₀ .counted v).chan 0).ctl.abortRecorded = false) ∧
    on.inWindow 0x800#26 = true ∧ on.inWindow 0x8D3#26 = true ∧
    ((brk₀ .cell line₂).Grants (.brk 0) ∧ (brk₀ .cell line₂).Unhindered 0 ∧ ((brk₀ .cell line₂).chan 0).mode = .cell ∧
      ((brk₀ .cell line₂).cell 0).isLive = false) := by
  unfold State.Grants State.Unhindered; decide +kernel

/-- The forms whose transition is held back: DRAINING, a stall, a recorded ABORT, a pending fault. -/
theorem test_hyps_BreakGrantThatIssuesNothing_held :
    ∀ c ∈ [channel .counted .draining (.accepted req) (.valid (lineWith 0#32 0x100#32 0x40#32)),
        stalled (channel .counted .draining (.accepted req) (.valid (lineWith 0#32 0x100#32 0x40#32))),
        { channel .counted .draining (.accepted req) (.valid (lineWith 0#32 0x100#32 0x40#32)) with
          ctl := { (channel .counted .draining .idle .invalid).ctl with
            abortRecorded := true, pendingFault := some (.of .addressRange 0#26) } }],
      (with₀ c).Grants (.brk 0) ∧ ((with₀ c).chan 0).port = .accepted req ∧ ((with₀ c).chan 0).ctl.state = .draining ∧
      ((with₀ c).chan 0).line = .valid (lineWith 0#32 0x100#32 0x40#32) ∧ countOf 0#32 = 0#24 := by
  unfold State.Grants; decide +kernel

/-- Channel 0 PENDING in CELL mode on cell 3. -/
def cellBreak : State :=
  (with₀ (channel .cell .pending (.accepted req) (.valid (lineWith 2#32 3#32 0#32)))).setCell 3 liveCell

theorem test_hyps_CellBreakGrantIssuesTheCellRead :
    cellBreak.Grants (.brk 0) ∧ (cellBreak.chan 0).port = .accepted req ∧
    (cellBreak.chan 0).line = .valid (lineWith 2#32 3#32 0#32) ∧ (cellBreak.chan 0).ctl.state = .pending ∧
    countOf 2#32 ≠ 0#24 ∧ (cellBreak.chan 0).mode = .cell ∧
    (cellBreak.cell (Fin.ofNat 16 (3#32).toNat)).cstate = .live fields := by
  unfold State.Grants; decide +kernel

/-- Channel 0 MOVING, the oldest access its data access. -/
def dataDue (r : BreakResult) : State := awaiting (.brk 0 .data) .write (moving line₂ r)

/-- The lock held by the break of channel 0. -/
def breakLock (s : State) : State :=
  { s with mport := { s.mport with lock := some { source := .brk 0, todo := [postWrite], fetch := none } } }

theorem breakLock_awaits (o : Owner) (k : Kind) (s : State) : (breakLock (awaiting o k s)).Awaits o [] := ⟨_, rfl, rfl, rfl⟩

theorem test_hyps_BreakDataResponseEndsTheGroup :
    ((dataDue .outstanding).Awaits (.brk 0 .data) [] ∧ (breakLock (dataDue .outstanding)).Awaits (.brk 0 .data) []) ∧
    (((dataDue .outstanding).chan 0).port = .granted req (slot .outstanding) ∧
      ((dataDue .outstanding).chan 0).line = .valid line₂ ∧ (slot .outstanding).stepped = true) ∧
    ((breakLock (dataDue .outstanding)).BreakGoesOn 0 [] ∧ ¬ (dataDue .outstanding).BreakGoesOn 0 []) ∧
    ((dataDue .outstanding).Unhindered 0 ∧ ((dataDue .outstanding).chan 0).ctl.abortRecorded = false ∧
      commandOf line₂.words.control = 0#3 ∧ (countOf line₂.words.count == 0#24) = false ∧
      ((dataDue .outstanding).chan 0).ctl.state = .moving) ∧
    ∃ s : State, s = awaiting (.brk 0 .data) .write (with₀ (stalled
        (channel .counted .draining (.granted req (slot .outstanding)) (.valid line₂)))) ∧
      s.resetWaits 0 = false ∧ (s.chan 0).ctl.stalled.isSome = true ∧ ¬ s.BreakGoesOn 0 [] := by
  refine ⟨⟨awaits_awaiting _ _ _, breakLock_awaits _ _ _⟩, ?_, ?_, ?_, _, rfl, ?_⟩
  · decide +kernel
  · unfold State.BreakGoesOn; decide +kernel
  · unfold State.Unhindered; decide +kernel
  · unfold State.BreakGoesOn; decide +kernel

/-- A STRICT write of channel 0's break, in flight. -/
def strictWrite : InFlight := { owner := .brk 0 .countWrite, kind := .write, addr := 0x800#26, lanes := 0xF#4, orphan := false }

/-- One more access in flight, behind the others. -/
def behind (e : InFlight) (s : State) : State := { s with mport := { s.mport with inflight := s.mport.inflight ++ [e] } }

/-- An ERROR while the COUNT write is outstanding, and the end of a group while a CHANNEL_RESET waits. -/
theorem test_hyps_BreakDataResponseEndsTheGroup_more :
    (behind strictWrite (dataDue .outstanding)).Awaits (.brk 0 .data) [strictWrite] ∧
    (∃ e ∈ [strictWrite], e.owner.isBreak 0 = true ∧ e.orphan = false) ∧
    ((behind strictWrite (dataDue .outstanding)).chan 0).ctl.state ≠ .faulted ∧ (slot .outstanding).stepped = true ∧
    ∃ s : State, s = { dataDue .outstanding with mgmt := { on.mgmt with resetMask := 1#8 } } ∧
      s.Awaits (.brk 0 .data) [] ∧ s.resetWaits 0 = true ∧ ¬ s.BreakGoesOn 0 [] := by
  refine ⟨⟨_, rfl, rfl, rfl⟩, ⟨_, .head _, rfl, rfl⟩, ?_, rfl, _, rfl, ⟨_, rfl, rfl, rfl⟩, ?_⟩
  · decide +kernel
  · unfold State.BreakGoesOn; decide +kernel

/-- A channel with a fault pending. -/
def pending (c : Channel) : Channel := { c with ctl := { c.ctl with pendingFault := some (.of .addressRange 0xFF#26) } }

/-- A group that ends with a fault pending, under a stall, and while a CHANNEL_RESET waits. -/
theorem test_hyps_BreakDataResponseEndsTheGroup_ends :
    ∀ f ∈ [id, pending, stalled, fun c => stalled (pending c)], ∀ m ∈ [0#8, 1#8],
      let s := awaiting (.brk 0 .data) .write
        { with₀ (f (channel .counted .moving (.granted req (slot .outstanding)) (.valid line₂))) with
          mgmt := { on.mgmt with resetMask := m } }
      s.Awaits (.brk 0 .data) [] ∧ ¬ s.BreakGoesOn 0 [] ∧ (s.chan 0).port = .granted req (slot .outstanding) ∧
      (s.chan 0).line = .valid line₂ ∧ (s.chan 0).ctl.state ≠ .faulted ∧ (slot .outstanding).stepped = true ∧
      commandOf line₂.words.control = 0#3 := by
  intro f hf m hm
  fin_cases hf <;> fin_cases hm <;>
    exact ⟨⟨_, rfl, rfl, rfl⟩, by unfold State.BreakGoesOn; decide +kernel⟩

/-- The read of a CELL break in flight. -/
def cellReadDue : State :=
  fetching (.brk 0) (awaiting (.brk 0 .cellRead) .read
    ((with₀ (channel .cell .moving (.granted req (slot .outstanding)) (.valid (lineWith 2#32 3#32 0#32)))).setCell 3 liveCell))

theorem test_hyps_BreakCellReadResponseChecksTheValue :
    cellReadDue.Awaits (.brk 0 .cellRead) [] ∧
    (cellReadDue.mport.lock = some { source := .brk 0, todo := [], fetch := some { cell := 3, addr := 0x200#26, fields := fields } } ∧
      (cellReadDue.chan 0).port = .granted req (slot .outstanding) ∧
      (cellReadDue.chan 0).line = .valid (lineWith 2#32 3#32 0#32) ∧ cellReadDue.mgmt.windowState ≠ .disabled) ∧
    ((0x3FFFFFF#32).toNat ≤ 0x3FFFFFF ∧ cellReadDue.inWindow (addrOf 0x3FFFFFF#32) = false ∧
      0x3FFFFFF < (0x4000000#32).toNat ∧ cellReadDue.inWindow (addrOf 0x800#32) = true) ∧
    cellReadDue.Unhindered 0 ∧ (cellReadDue.chan 0).ctl.state ≠ .faulted ∧ commandOf 0x54#32 = 0#3 ∧
    (slot .outstanding).stepped = true := by
  refine ⟨⟨_, rfl, rfl, rfl⟩, ?_⟩
  unfold State.Unhindered; decide +kernel

/-- The same with a fault pending, and with a stall. -/
theorem test_hyps_BreakCellReadResponseChecksTheValue_ends :
    (∀ f ∈ [id, pending, stalled], (f (cellReadDue.chan 0)).port = .granted req (slot .outstanding) ∧
      (f (cellReadDue.chan 0)).ctl.state ≠ .faulted) ∧ (pending (cellReadDue.chan 0)).ctl.pendingFault ≠ none ∧
    (stalled (cellReadDue.chan 0)).ctl.stalled ≠ none ∧ ¬ cellReadDue.NoCells := by decide +kernel

/-- The COUNT write of a STRICT break in flight. -/
def countDue : State := awaiting (.brk 0 .countWrite) .write (moving line₂ (.moved none))

theorem test_hyps_StrictWriteResponseMarksAFailedWord :
    (countDue.Awaits (.brk 0 .countWrite) [] ∧ (breakLock countDue).Awaits (.brk 0 .countWrite) [] ∧
      (awaiting (.brk 0 .addressWrite) .write (moving line₂ (.moved none))).Awaits (.brk 0 .addressWrite) []) ∧
    ((breakLock countDue).BreakGoesOn 0 [] ∧ ¬ countDue.BreakGoesOn 0 [] ∧ countDue.Unhindered 0) ∧
    (countDue.chan 0).port = .granted req (slot (.moved none)) ∧ (slot (.moved none)).result = .moved none ∧
    (countDue.chan 0).line = .valid line₂ ∧ (countDue.chan 0).ctl.state ≠ .faulted ∧
    commandOf line₂.words.control = 0#3 := by
  refine ⟨⟨awaits_awaiting _ _ _, breakLock_awaits _ _ _, awaits_awaiting _ _ _⟩, ?_⟩
  unfold State.BreakGoesOn State.Unhindered; decide +kernel

/-- The last STRICT response of a group whose word moved, or whose data access failed, with that fault pending. -/
theorem test_hyps_StrictWriteResponseMarksAFailedWord_ends :
    ∀ r ∈ [BreakResult.moved none, .failed .memoryData], ∀ f ∈ [id, pending, stalled],
      let s := awaiting (.brk 0 .addressWrite) .write
        (with₀ (f (channel .counted .draining (.granted req (slot r)) (.valid line₂))))
      s.Awaits (.brk 0 .addressWrite) [] ∧ ¬ s.BreakGoesOn 0 [] ∧ (s.chan 0).port = .granted req (slot r) ∧
      (slot r).result = r ∧ (s.chan 0).line = .valid line₂ ∧ (s.chan 0).ctl.state ≠ .faulted ∧ s.resetWaits 0 = false := by
  intro r hr f hf
  fin_cases hr <;> fin_cases hf <;> exact ⟨⟨_, rfl, rfl, rfl⟩, by unfold State.BreakGoesOn; decide +kernel⟩

/-- A group whose data access failed ends at its STRICT response: FAILED with its code, and the fault that pended. -/
theorem test_strictWriteResponse_after_a_failed_data_access :
    (match exec (.strictWriteResponse (.okay 0#32)) (awaiting (.brk 0 .countWrite) .write
        (with₀ (pending (channel .counted .moving (.granted req (slot (.failed .memoryData))) (.valid line₂))))) with
      | .next t => some (t.out, (t.chan 0).ctl.state, (t.chan 0).ctl.lastFault)
      | _ => none) =
      some ([.answer 0 (.failed .memoryData)], .faulted, some .addressRange) := by decide +kernel

/-- What a completion found. -/
def found (countZero chainZero evSegment : Bool) : BreakEnd :=
  { countZero := countZero, chainZero := chainZero, evSegment := evSegment, segmentDone := false }

theorem test_hyps_BreakCompletionTable :
    (∀ st ∈ [ChanState.moving, .draining], ((idle₀ st).chan 0).line = .valid line₂ ∧ (found true true true).segmentDone = false ∧
      ((idle₀ st).chan 0).ctl.stalled = none ∧ ((idle₀ st).chan 0).ctl.pendingFault = none ∧
      ((idle₀ st).chan 0).ctl.abortRecorded = false ∧ ((idle₀ st).chan 0).walker.flags.evEnd = false ∧
      ((idle₀ st).chan 0).walker.flags.hold = false ∧ ((idle₀ st).chan 0).opInFlight = false ∧
      ((idle₀ st).chan 0).ctl.state = st) ∧
    ((segmentAddrs 0x40#26).any (fun a => on.inWindow a) = false ∧ (segmentAddrs 0x7FC#26).any (fun a => on.inWindow a) = false ∧
      (segmentAddrs 0x7FD#26).any (fun a => on.inWindow a) = true) ∧
    (∃ c : Channel, c = { channel .counted .moving .idle (.valid line₂) with
        ctl := { (channel .counted .moving .idle .invalid).ctl with
          pendingFault := some (.of .addressRange 0#26), abortRecorded := true } } ∧
      c.ctl.pendingFault = some (.of .addressRange 0#26) ∧ c.ctl.stalled = none) ∧
    (∃ c : Channel, c = { channel .counted .moving .idle (.valid line₂) with
        ctl := { (channel .counted .moving .idle .invalid).ctl with abortRecorded := true } } ∧
      c.ctl.pendingFault = none ∧ c.ctl.abortRecorded = true) ∧
    (∃ c : Channel, c = { channel .counted .moving .idle (.valid line₂) with
        walker := { Walker.reset with flags := { evEnd := false, hold := true } } } ∧ c.walker.flags.hold = true) ∧
    (¬ (fullQueue (idle₀ .moving)).events.count < 8 ∧ (fullQueue (idle₀ .moving)).events.intake ≠ .closed ∧
      (found true false true).evSegment = true) := by
  refine ⟨?_, ?_, ⟨_, rfl, ?_⟩, ⟨_, rfl, ?_⟩, ⟨_, rfl, ?_⟩, ?_⟩ <;> decide +kernel

/-- At the end of an extent: a CHAIN of 0 and of 0x40 at a linking transition, SEGMENT_DONE due with room and already made. -/
theorem test_hyps_BreakCompletionTable_extent :
    (∀ chain ∈ [0#32, 0x40#32], ∀ e ∈ [found true false true, found true false false,
        { found true false true with segmentDone := true }], ∃ s : State,
      s = idle₀ .moving ∧ (s.chan 0).ctl.pendingFault = none ∧ (s.chan 0).ctl.abortRecorded = false ∧
      e.countZero = true ∧ e.chainZero = false ∧ (s.chan 0).walker.flags.hold = false ∧ (s.chan 0).opInFlight = false ∧
      s.events.intake = .opened ∧ s.events.count < 8 ∧
      ∃ t : State, t = with₀ (channel .counted .moving .idle (.valid (lineWith 0#32 0x100#32 chain))) ∧
        (t.chan 0).line = .valid (lineWith 0#32 0x100#32 chain) ∧ (t.chan 0).ctl.stalled = none ∧
        (addrOf chain = 0#26 ∨ addrOf chain ≠ 0#26 ∧ (segmentAddrs (addrOf chain)).any (fun a => t.inWindow a) = false)) ∧
    ((found true false true).segmentDone = false ∧ (found true false true).evSegment = true ∧
      (found true false false).evSegment = false) := by
  refine ⟨fun chain hc e he => ⟨_, rfl, ?_⟩, by decide⟩
  fin_cases hc <;> fin_cases he <;>
    exact ⟨by decide +kernel, by decide +kernel, rfl, rfl, by decide +kernel, by decide +kernel, by decide +kernel,
      by decide +kernel, _, rfl, by decide +kernel, by decide +kernel, by decide +kernel⟩

theorem test_hyps_ChannelCommandsTouchOnlyTheirChannel :
    ∃ c ∈ [Instr.start 7, .stop 7, .resume 7, .abort 7, .clear 7, .unknownCommand 7 7#3, .channelRequest 7 req,
      .quietTimerExpiry 7], c = .quietTimerExpiry 7 ∧ (State.reset.chan 7).lineValid = false := by decide +kernel

theorem test_hyps_UntakenAndUnknownCommands :
    ((idle₀ .loading).reachesControllers = true ∧ ((idle₀ .loading).chan 0).canTake = false ∧
      ((idle₀ .loading).chan 0).ctl.state = .loading) ∧
    State.reset.reachesControllers = false ∧ (idle₀ .ready).Takes 0 ∧ (5#3 ≠ 6#3 ∧ 5#3 ≠ 7#3) := by
  unfold State.Takes; decide +kernel

/-- The window DISABLING. -/
def disabling (s : State) : State := { s with mgmt := { s.mgmt with windowState := .disabling } }

/-- Channel 0 OFF with an INVALID line. -/
def off₀ : State := with₀ (channel .counted .off .idle .invalid)

/-- The states in which a channel takes a command. -/
def takingStates : List ChanState := [.off, .ready, .pending, .moving, .draining, .halted, .faulted]

/-- Each taking state with a VALID line, and OFF and FAULTED with an INVALID one: START, STOP, RESUME, ABORT and CLEAR. -/
theorem test_hyps_ChannelCommands :
    (∀ st ∈ takingStates, (idle₀ st).Takes 0 ∧ ((idle₀ st).chan 0).ctl.state = st ∧
      ((idle₀ st).chan 0).line = .valid line₂ ∧ ((idle₀ st).chan 0).port = .idle ∧
      (idle₀ st).mgmt.windowState ≠ .disabling ∧ (disabling (idle₀ st)).Takes 0) ∧
    (off₀.Takes 0 ∧ (off₀.chan 0).line = .invalid ∧ (off₀.chan 0).ctl.state = .off) ∧
    (disabling (idle₀ .ready)).mgmt.windowState = .disabling := by
  unfold State.Takes; decide +kernel

/-- Channel 0 HALTED with this line. -/
def halted₀ (v : ValidLine) : State := with₀ (channel .counted .halted .idle (.valid v))

theorem test_hyps_ResumeValidatesAndGoesOn :
    (∀ v ∈ [line₂, lineWith 0#32 0#32 0x7FC#32, lineWith 0#32 0#32 0x7FD#32, lineWith 0#32 0#32 0#32],
      (halted₀ v).Takes 0 ∧ ((halted₀ v).chan 0).ctl.state = .halted ∧ ((halted₀ v).chan 0).line = .valid v ∧
      validateSetup (((halted₀ v).chan 0).word .control) =
        some { mode := .counted, direction := .dirIn, track := .strict } ∧
      ((halted₀ v).chan 0).port = .idle ∧ ((halted₀ v).chan 0).opInFlight = false ∧
      ((halted₀ v).chan 0).ctl.pendingFault = none) ∧
    ∃ s : State, s = halted₀ { line₂ with words := { line₂.words with control := 3#32 } } ∧ s.Takes 0 ∧
      (s.chan 0).ctl.state = .halted ∧ validateSetup ((s.chan 0).word .control) = none ∧
      (s.chan 0).opInFlight = false ∧ (s.chan 0).ctl.pendingFault = none := by
  refine ⟨?_, _, rfl, ?_⟩ <;> (unfold State.Takes; decide +kernel)

theorem test_hyps_AbortEndsOrIsRecorded :
    ((brk₀ .counted line₂).Takes 0 ∧ ((brk₀ .counted line₂).chan 0).port = .accepted req ∧
      ((brk₀ .counted line₂).chan 0).ctl.state = .pending) ∧
    ((draining₀ line₂).Takes 0 ∧ ((draining₀ line₂).chan 0).port = .accepted req ∧
      ((draining₀ line₂).chan 0).ctl.state = .draining) ∧
    ∃ s : State, s = with₀ (channel .counted .draining (.granted req (slot .outstanding)) (.valid line₂)) ∧ s.Takes 0 ∧
      (s.chan 0).ctl.state = .draining ∧ (s.chan 0).breakClaimed = false := by
  refine ⟨?_, ?_, _, rfl, ?_⟩ <;> (unfold State.Takes; decide +kernel)

/-- Channel 0 with a held request. -/
def held₀ (st : ChanState) : State := with₀ (channel .counted st (.held req) (.valid line₂))

/-- All the channel states. -/
def chanStates : List ChanState :=
  [.off, .loading, .ready, .pending, .moving, .linking, .draining, .halted, .ending, .faulted]

theorem test_hyps_ChannelRequestByState :
    (∀ st ∈ chanStates, ((idle₀ st).chan 0).port = .idle ∧ ((idle₀ st).chan 0).ctl.state = st ∧
      ((idle₀ st).chan 0).ctl.stalled = none ∧
      ((idle₀ st).chan 0).ctl.setup = some { mode := .counted, direction := .dirIn, track := .strict }) ∧
    (req.direction = .dirIn ∧ (stalled ((idle₀ .ready).chan 0)).ctl.stalled.isSome = true) ∧
    (((brk₀ .counted line₂).chan 0).port = .accepted req ∧ ((brk₀ .counted line₂).chan 0).ctl.state ≠ .faulted ∧
      ((brk₀ .counted line₂).chan 0).ctl.pendingFault = none ∧ ((brk₀ .counted line₂).chan 0).untaken = 0#3 ∧
      ((brk₀ .counted line₂).chan 0).opInFlight = false ∧ ((brk₀ .counted line₂).chan 0).ctl.stalled = none) ∧
    ((∃ c : Channel, c = { channel .counted .linking (.held req) (.valid line₂) with
        walker := { Walker.reset with phase := .granted 0x40#26 [] .empty } } ∧
      c.port = .held req ∧ c.opInFlight = true ∧ c.ctl.state = .linking ∧ c.ctl.pendingFault = none)) ∧
    ((moving line₂ .outstanding).chan 0).port = .granted req (slot .outstanding) ∧
    ((moving line₂ .outstanding).chan 0).ctl.state ≠ .faulted := by
  refine ⟨?_, ?_, ?_, ⟨_, rfl, ?_⟩, ?_⟩ <;> decide +kernel

/-- A held request that settle considers: in every state, stalled or not, of either direction, no command to take first. -/
theorem test_hyps_ChannelRequestByState_held :
    (∀ st ∈ chanStates, ((held₀ st).chan 0).port = .held req ∧ ((held₀ st).chan 0).untaken = 0#3 ∧
      ((held₀ st).chan 0).ctl.state = st ∧ ((held₀ st).chan 0).ctl.stalled = none ∧
      (stalled ((held₀ st).chan 0)).ctl.stalled ≠ none ∧ (stalled ((held₀ st).chan 0)).canTake = false ∧
      ((held₀ st).chan 0).ctl.setup = some { mode := .counted, direction := .dirIn, track := .strict }) ∧
    req.direction = .dirIn ∧ ({ req with direction := .dirOut } : DeviceRequest).direction ≠ .dirIn := by decide +kernel

theorem test_settle_considers_the_held_request :
    (chanStates.map fun st => let t := (held₀ st).settle 0
      ((t.chan 0).ctl.state, t.out, (t.chan 0).port == .idle)) =
      [(.off, [.answer 0 (.refused .notArmed)], true), (.loading, [], false), (.pending, [], false), (.pending, [], false),
        (.moving, [], false), (.linking, [], false), (.draining, [], false), (.halted, [.answer 0 (.refused .notArmed)], true),
        (.ending, [.answer 0 (.refused .notArmed)], true), (.faulted, [.answer 0 (.refused .channelFaulted)], true)] := by
  decide +kernel

/-- Channel 0 with this line and its quiet timer at t. -/
def timer (t : Nat) (v : ValidLine) : State := with₀ { channel .counted .ready .idle (.valid v) with quiet := some t }

theorem test_hyps_TicksAndTimerExpiries :
    on.pending = [] ∧ ((timer 1 line₂).chan 0).quiet = some 1 ∧
    (((timer 0 dirtyLine).chan 0).quiet = some 0 ∧ ((timer 0 dirtyLine).chan 0).line = .valid dirtyLine ∧
      dirtyLine.dirty.any = true) ∧
    (((timer 0 line₂).chan 0).line = .valid line₂ ∧ line₂.wbPhase = .none ∧ line₂.dirty.any = false) ∧
    (on.chan 0).quiet ≠ some 0 := by decide +kernel

/-- Channel 0 with a claimed fill. -/
def fillClaimed : State := claiming (.fill 0) (with₀ (channel .counted .loading .idle (.filling .claimed 0#3)))

/-- Channel 0 with a claimed writeback. -/
def writebackClaimed : State := claiming (.writeback 0) (with₀ (channel .counted .ready .idle (.valid countClaimed)))

/-- Channel 0 with a claimed link. -/
def linkClaimed : State :=
  claiming (.link 0) (with₀ { channel .counted .linking .idle (.valid line₂) with
    walker := { Walker.reset with phase := .claimed 0x40#26 } })

/-- Cell 3 with a claimed load. -/
def loadClaimed : State := claiming (.cellLoad 3) (on.setCell 3 { liveCell with cstate := .loading .claimed })

/-- A recovery read claimed. -/
def recoveryClaimed : State := claiming .recovery (failedPath .claimed)

theorem test_hyps_UpkeepGrantIssuesItsGroup :
    (fillClaimed.Grants (.upkeep (.fill 0)) ∧ (fillClaimed.chan 0).line = .filling .claimed 0#3) ∧
    (writebackClaimed.Grants (.upkeep (.writeback 0)) ∧ (writebackClaimed.chan 0).line = .valid countClaimed ∧
      countClaimed.dirtyWords = .count :: []) ∧
    (linkClaimed.Grants (.upkeep (.link 0)) ∧ (linkClaimed.chan 0).walker.phase = .claimed 0x40#26) ∧
    (loadClaimed.Grants (.upkeep (.cellLoad 3)) ∧ (loadClaimed.cell 3).cstate = .loading .claimed) ∧
    (claiming (.cellStatus 3) withCell).Grants (.upkeep (.cellStatus 3)) ∧
    recoveryClaimed.Grants (.upkeep .recovery) ∧ recoveryClaimed.events.recovery = .claimed := by
  unfold State.Grants; decide +kernel

/-- A post claimed for the one event of the queue. -/
def postClaimed : State :=
  claiming .post { on with events := { on.events with queue := [anEvent], postPhase := .claimed } }

theorem test_hyps_PostGrantWritesTheEventAndTheIndex :
    postClaimed.Grants (.upkeep .post) ∧ postClaimed.events.postPhase = .claimed ∧
    postClaimed.events.queue = anEvent :: [] := by
  unfold State.Grants; decide +kernel

/-- The window ENABLING at this step. -/
def enabling (q : SeqStep) : State := { on with mgmt := { on.mgmt with windowState := .enabling, sequence := some q } }

theorem test_hyps_EnableGrantIssuesItsStep :
    ∀ q ∈ [SeqStep.e1, .e2, .e3, .e4 0 [], .e4 15 [], .e5],
      (claiming .enable (enabling q)).Grants (.upkeep .enable) ∧
      (claiming .enable (enabling q)).mgmt.sequence = some q := by
  unfold State.Grants; decide +kernel

/-- A fill of channel 0 that these words have come from. -/
def filling (ws : List Word) : State :=
  awaiting (.fill 0 ws.length) .read (with₀ (channel .counted .loading .idle (.filling (.granted ws .empty) 0#3)))

/-- The first seven words of a record: COUNT 2, CONTROL 0x54. -/
def sevenWords : List Word := [2#32, 0x100#32, 0x54#32, 0#32, 0#32, 0xC0#32, 0#32]

theorem test_hyps_FillResponseInstallsTheRecord :
    (filling []).Awaits (.fill 0 RecWord.count.index) [] ∧ (filling sevenWords).Awaits (.fill 0 RecWord.segments.index) [] ∧
    ((filling []).chan 0).line = .filling (.granted [] .empty) 0#3 ∧
    ((filling sevenWords).chan 0).line = .filling (.granted sevenWords .empty) 0#3 ∧
    (sevenWords.length = 7 ∧ (filling sevenWords).Unhindered 0 ∧ ((filling sevenWords).chan 0).port = .idle ∧
      setupBits (FillOverlay.empty.control.over 0x54#32) = setupBits 0x54#32 ∧
      (recordOfList (sevenWords ++ [0#32])).control = 0x54#32 ∧
      validateSetup (setCommand 0#3 (FillOverlay.empty.control.over 0x54#32)) =
        some { mode := .counted, direction := .dirIn, track := .strict } ∧
      countOf (FillOverlay.empty.count.over (recordOfList (sevenWords ++ [0#32])).count) ≠ 0#24) ∧
    ((filling []).Unhindered 0 ∧ ((filling []).chan 0).ctl.state ≠ .faulted) := by
  refine ⟨awaits_awaiting _ _ _, awaits_awaiting _ _ _, ?_⟩
  unfold State.Unhindered; decide +kernel

/-- The last word of a fill that holds CONTROL, COUNT and CHAIN, an overlay's CONTROL lane 0, a waiting command, and what
holds the channel back. -/
def lastFill (control count chain : Word) (merge : HeldLanes) (w : CommandCode) (f : Controller → Controller)
    (s : State → State) : State :=
  let c := channel .counted .loading .idle
    (.filling (.granted [count, 0x100#32, control, 0#32, chain, 0xC0#32, 0#32] { FillOverlay.empty with control := merge }) w)
  s (awaiting (.fill 0 7) .read (with₀ { c with ctl := f c.ctl }))

/-- An overlay of CONTROL that asks for DIRECT where the record says COUNTED. -/
def otherMode : HeldLanes := { value := 0x55#32, lanes := 1#4 }

/-- Every install awaits its eighth word: merged and unmerged setups, stalled or not, a full queue, a waiting command. -/
theorem test_hyps_FillResponseInstallsTheRecord_installs :
    (∀ m ∈ [FillOverlay.empty.control, otherMode], ∀ w ∈ [0#3, 1#3, 7#3],
      (lastFill 0x54#32 2#32 0#32 m w id id).Awaits (.fill 0 RecWord.segments.index) [] ∧
      (lastFill 0x54#32 2#32 0#32 m w id fullQueue).Awaits (.fill 0 RecWord.segments.index) []) ∧
    (setupBits (FillOverlay.empty.control.over 0x54#32) = setupBits 0x54#32 ∧
      setupBits (otherMode.over 0x54#32) ≠ setupBits 0x54#32) ∧
    ((lastFill 0x54#32 2#32 0#32 otherMode 0#3 id id).chan 0).ctl.stalled = none ∧
    ((lastFill 0x54#32 2#32 0#32 otherMode 0#3 (fun k => { k with stalled := some anEvent }) id).chan 0).ctl.stalled ≠ none ∧
    (((lastFill 0x54#32 2#32 0#32 otherMode 0#3 id id).refuse 0 0#3 .setupLocked).chan 0).ctl.stalled = none ∧
    (((lastFill 0x54#32 2#32 0#32 otherMode 0#3 id fullQueue).refuse 0 0#3 .setupLocked).chan 0).ctl.stalled ≠ none ∧
    (validateSetup (setCommand 0#3 0x54#32) ≠ none ∧ validateSetup (setCommand 0#3 0x03#32) = none) ∧
    (countOf 1#32 ≠ 0#24 ∧ countOf 0xFF000000#32 = 0#24 ∧ addrOf 0x40#32 ≠ 0#26 ∧ addrOf 0xFC000000#32 = 0#26 ∧
      (segmentAddrs 0x40#26).any (fun a => on.inWindow a) = false) ∧
    ((lastFill 0x54#32 0#32 0#32 FillOverlay.empty.control 0#3
        (fun k => { k with pendingFault := some (.of .addressRange 0#26) }) id).chan 0).ctl.pendingFault =
      some (.of .addressRange 0#26) := by
  refine ⟨fun _ _ _ _ => ⟨⟨_, rfl, rfl, rfl⟩, _, rfl, rfl, rfl⟩, ?_⟩
  decide +kernel

/-- A fill that fails with a command waiting, a fault pending or a stall. -/
theorem test_hyps_FillResponseInstallsTheRecord_fails :
    ∀ f ∈ [id, pending, stalled], ∀ w ∈ [0#3, 1#3],
      let c := f (channel .counted .loading .idle (.filling (.granted [1#32] .empty) w))
      (awaiting (.fill 0 1) .read (with₀ c)).Awaits (.fill 0 RecWord.address.index) [] ∧
      ((awaiting (.fill 0 1) .read (with₀ c)).chan 0).line = .filling (.granted [1#32] .empty) w := by
  intro f hf w hw
  fin_cases hf <;> fin_cases hw <;> exact ⟨⟨_, rfl, rfl, rfl⟩, rfl⟩

/-- The channel after the installs that BAD_SETUP, an empty extent and an ended chain decide. -/
theorem test_fillReadResponse_decides :
    [lastFill 0x03#32 2#32 0#32 FillOverlay.empty.control 0#3 id id,
      lastFill 0x54#32 0#32 0x40#32 FillOverlay.empty.control 0#3 id id,
      lastFill 0x54#32 0#32 0#32 FillOverlay.empty.control 0#3 id id,
      lastFill 0x54#32 2#32 0#32 otherMode 0#3 id fullQueue].map (fun s =>
        match exec (.fillReadResponse (.okay 0#32)) s with
        | .next t => some ((t.chan 0).ctl.state, (t.chan 0).ctl.lastFault, (t.chan 0).ctl.heldCompletion)
        | _ => none) =
      [some (.faulted, some .badSetup, none), some (.linking, none, none), some (.ending, none, none),
        some (.loading, none, some .install)] := by decide +kernel

/-- A granted writeback of channel 0 with this many responses outstanding. -/
def writing (left : Nat) (consequence : WbConsequence) : ValidLine :=
  { line₂ with wbPhase := .granted left none, serves := { consequence := consequence, disable := false } }

/-- That writeback, a response due. -/
def writebackDue (left : Nat) (st : ChanState) (consequence : WbConsequence) (ending : Option EndingKind) : State :=
  awaiting (.writeback 0 .count) .write (with₀ { channel .counted st .idle (.valid (writing left consequence)) with
    ctl := { (channel .counted st .idle .invalid).ctl with ending := ending } })

theorem test_hyps_WritebackResponseEndsTheWriteback :
    ((writebackDue 2 .ready .nothing none).Awaits (.writeback 0 .count) [] ∧
      (writebackDue 1 .ready .nothing none).Awaits (.writeback 0 .count) [] ∧
      (writebackDue 1 .ending .finalEvent (some .terminal)).Awaits (.writeback 0 .count) []) ∧
    ((writebackDue 2 .ready .nothing none).chan 0).line = .valid (writing 2 .nothing) ∧
    (((writebackDue 1 .ready .nothing none).chan 0).line = .valid (writing 1 .nothing) ∧
      (writing 1 .nothing).wbPhase = .granted 1 none ∧ (writing 1 .nothing).serves = .plain ∧
      (writing 1 .nothing).requested = none ∧ commandOf (writing 1 .nothing).words.control = 0#3 ∧
      (writebackDue 1 .ready .nothing none).Unhindered 0 ∧ ((writebackDue 1 .ready .nothing none).chan 0).opInFlight = false ∧
      ((writebackDue 1 .ready .nothing none).chan 0).port = .idle ∧
      ((writebackDue 1 .ready .nothing none).chan 0).ctl.state ≠ .faulted) ∧
    ∃ s : State, s = writebackDue 1 .ending .finalEvent (some .terminal) ∧
      (s.chan 0).line = .valid (writing 1 .finalEvent) ∧ (writing 1 .finalEvent).serves.consequence = .finalEvent ∧
      (s.chan 0).ctl.stalled = none ∧ (s.chan 0).ctl.ending = some .terminal ∧ s.events.count < 8 ∧
      s.events.intake = .opened ∧ (s.chan 0).port = .idle := by
  refine ⟨⟨awaits_awaiting _ _ _, awaits_awaiting _ _ _, awaits_awaiting _ _ _⟩, ?_, ?_, _, rfl, ?_⟩
  · decide +kernel
  · unfold State.Unhindered; decide +kernel
  · decide +kernel

/-- A last response of channel 0 in a state: the line's marks, an earlier failed word, what waits, a request behind it. -/
def lastWrite (st : ChanState) (dirty : Bool) (failed : Option RecWord) (q : WbConsequence) (requested : Option WbServes)
    (f : Controller → Controller) : State :=
  let v : ValidLine :=
    { line₂ with
      dirty := { line₂.dirty with done := dirty }, wbPhase := .granted 1 failed
      serves := { consequence := q, disable := false }, requested := requested }
  let c := channel .counted st .idle (.valid v)
  awaiting (.writeback 0 .count) .write (with₀ { c with ctl := f c.ctl })

/-- The disable sequence in a step. -/
def disablingAt (q : SeqStep) (s : State) : State :=
  { s with mgmt := { s.mgmt with windowState := .disabling, sequence := some q } }

/-- The clauses of the last response: each awaits it, and meets the clause's conditions. -/
theorem test_hyps_WritebackResponseEndsTheWriteback_more :
    (∀ q ∈ [WbConsequence.nothing, .finalEvent, .reload, .clear], ∀ failed ∈ [none, some RecWord.status],
      (lastWrite .ending false failed q none id).Awaits (.writeback 0 .count) [] ∧
      (disablingAt .d1 (lastWrite .ending false failed q none id)).Awaits (.writeback 0 .count) []) ∧
    (∀ q ∈ [WbConsequence.nothing, .finalEvent, .reload], ∃ v,
      ((lastWrite .ending true (some .status) q none id).chan 0).line = .valid v ∧ v.wbPhase = .granted 1 (some .status) ∧
      v.serves.consequence = q ∧ v.serves.disable = false ∧ v.requested = none ∧ commandOf v.words.control = 0#3 ∧
      (lastWrite .ending true (some .status) q none id).Unhindered 0 ∧
      ((lastWrite .ending true (some .status) q none id).chan 0).opInFlight = false ∧
      ((lastWrite .ending true (some .status) q none id).chan 0).ctl.state ≠ .faulted) ∧
    (∀ e ∈ [EndingKind.terminal, .aborted 2#24],
      ((lastWrite .ending false none .finalEvent none (fun k => { k with ending := some e })).chan 0).ctl.ending = some e ∧
      ((lastWrite .ending false none .finalEvent none
        (fun k => { k with ending := some e, stalled := some anEvent })).chan 0).ctl.stalled ≠ none ∧
      ¬ (fullQueue (lastWrite .ending false none .finalEvent none (fun k => { k with ending := some e }))).events.count < 8) ∧
    (∀ d ∈ [true, false], ∃ v, ((lastWrite .ready d none .nothing (some .plain) id).chan 0).line = .valid v ∧
      v.requested = some .plain ∧ v.dirty.any = d) ∧
    (disablingAt .d1 (lastWrite .off false none .nothing none id)).mgmt.sequence = some .d1 ∧
    ((lastWrite .loading false none .reload none (fun k => { k with stalled := some anEvent })).chan 0).ctl.stalled ≠ none ∧
    (((lastWrite .off false none .clear none id).chan 0).untaken = 0#3 ∧
      ((lastWrite .off false none .clear none id).chan 0).port = .idle) := by
  refine ⟨fun _ _ _ _ => ⟨⟨_, rfl, rfl, rfl⟩, _, rfl, rfl, rfl⟩, ?_, ?_, ?_, ?_⟩
  · intro q hq
    fin_cases hq <;> exact ⟨_, rfl, by unfold State.Unhindered; decide +kernel⟩
  · decide +kernel
  · intro d hd
    fin_cases hd <;> exact ⟨_, rfl, by decide +kernel⟩
  · decide +kernel

/-- A last response with a writeback requested behind it: a failed word, a final event, the disable sequence's own. -/
theorem test_hyps_WritebackResponseEndsTheWriteback_requested :
    (∀ q ∈ [WbConsequence.nothing, .finalEvent, .reload], ∀ failed ∈ [none, some RecWord.status], ∀ d ∈ [true, false], ∃ v,
      ((lastWrite .ending d failed q (some .plain) (fun k => { k with ending := some .terminal })).chan 0).line = .valid v ∧
      v.wbPhase = .granted 1 failed ∧ v.serves.consequence = q ∧ v.serves.disable = false ∧ v.requested = some .plain ∧
      v.dirty.any = d) ∧
    ((lastWrite .ending false none .finalEvent (some .plain) (fun k => { k with ending := some .terminal })).chan 0).ctl.ending =
      some .terminal ∧
    (disablingAt .d3 (lastWrite .ending false none .finalEvent (some .plain) id)).events.intake = .opened := by
  refine ⟨fun q hq failed hf d hd => ?_, by decide +kernel⟩
  fin_cases hq <;> fin_cases hf <;> fin_cases hd <;> exact ⟨_, rfl, by decide +kernel⟩

/-- A link of channel 0 from segment 0x40 that these words have come from, after so many empty segments. -/
def linking (ws : List Word) (run : Nat) : State :=
  awaiting (.link 0 ws.length) .read (with₀ { channel .counted .linking .idle (.valid line₂) with
    walker := { phase := .granted 0x40#26 ws .empty, emptyRun := run, flags := { evEnd := false, hold := false } } })

theorem test_hyps_LinkResponseLoadsTheSegment :
    ((linking [] 0).Awaits (.link 0 0) [] ∧ (linking [5#32, 6#32, 0#32] 0).Awaits (.link 0 3) [] ∧
      (linking [0#32, 6#32, 0#32] 14).Awaits (.link 0 3) [] ∧ (linking [0#32, 6#32, 0#32] 15).Awaits (.link 0 3) []) ∧
    (∀ ws ∈ [[5#32, 6#32, 0#32], [0#32, 6#32, 0#32], [0#32, 6#32, 0x50#32]], ∀ r ∈ [0, 14, 15],
      ((linking ws r).chan 0).walker.phase = .granted 0x40#26 ws .empty ∧ ((linking ws r).chan 0).walker.emptyRun = r ∧
      ((linking ws r).chan 0).line = .valid line₂ ∧ (linking ws r).Unhindered 0 ∧ ((linking ws r).chan 0).port = .idle ∧
      ((linking ws r).chan 0).ctl.state = .linking) ∧
    commandOf line₂.words.control = 0#3 ∧
    countOf (LinkOverlay.empty.count.over (setField 0 24 (field 0 24 5#32) line₂.words.count)) ≠ 0#24 ∧
    countOf (LinkOverlay.empty.count.over (setField 0 24 (field 0 24 0#32) line₂.words.count)) = 0#24 ∧
    addrOf (LinkOverlay.empty.chain.over (setField 0 26 (field 0 26 0#32) line₂.words.chain)) = 0#26 ∧
    addrOf (LinkOverlay.empty.chain.over (setField 0 26 (field 0 26 0x50#32) line₂.words.chain)) = 0x50#26 ∧
    (segmentAddrs 0x50#26).any (fun x => on.inWindow x) = false := by
  refine ⟨⟨awaits_awaiting _ _ _, awaits_awaiting _ _ _, awaits_awaiting _ _ _, awaits_awaiting _ _ _⟩, ?_⟩
  unfold State.Unhindered; decide +kernel

/-- A link that completes or fails under a stall, with a fault pending, and one whose next segment touches the window. -/
theorem test_hyps_LinkResponseLoadsTheSegment_held :
    (∀ f ∈ [id, pending, stalled],
      let s := awaiting (.link 0 3) .read (with₀ (f ((linking [5#32, 6#32, 0#32] 0).chan 0)))
      s.Awaits (.link 0 3) [] ∧ (s.chan 0).walker.phase = .granted 0x40#26 [5#32, 6#32, 0#32] .empty ∧
      (s.chan 0).line = .valid line₂) ∧
    ((segmentAddrs 0x7FD#26).any (fun x => on.inWindow x) = true ∧
      (∀ q g, ((linking [0#32, 6#32, 0x7FD#32] 0).chan 0).port ≠ .granted q g)) := by
  refine ⟨fun f hf => ?_, by decide +kernel, notGranted_of_idle _ rfl⟩
  fin_cases hf <;> exact ⟨⟨_, rfl, rfl, rfl⟩, rfl, rfl⟩

theorem test_hyps_CellLoadResponseChecksTheFields :
    ((loadingCell []).Awaits (.cellLoad 3 0) [] ∧ (loadingCell [1#32, 2#32]).Awaits (.cellLoad 3 2) [] ∧
      (loadingCell [0#32]).Awaits (.cellLoad 3 1) []) ∧
    (∀ ws ∈ [[], [0#32], [1#32], [1#32, 2#32], [0#32, 2#32]],
      ((loadingCell ws).cell 3).cstate = .loading (.granted ws .empty) ∧ ws.length < 3) ∧
    (cellFieldsOf (CellOverlay.empty.setup.over 0#32) 0#32 0#32).step = 0#8 ∧
    (cellFieldsOf (CellOverlay.empty.setup.over 1#32) 0#32 0#32).step ≠ 0#8 ∧
    (cellFieldsOf (CellOverlay.empty.setup.over 1#32) (CellOverlay.empty.low.over 2#32) (CellOverlay.empty.high.over 1#32)).high.toNat <
      (cellFieldsOf (CellOverlay.empty.setup.over 1#32) (CellOverlay.empty.low.over 2#32) (CellOverlay.empty.high.over 1#32)).low.toNat ∧
    (cellFieldsOf (CellOverlay.empty.setup.over 1#32) (CellOverlay.empty.low.over 2#32) (CellOverlay.empty.high.over 2#32)).low.toNat ≤
      (cellFieldsOf (CellOverlay.empty.setup.over 1#32) (CellOverlay.empty.low.over 2#32) (CellOverlay.empty.high.over 2#32)).high.toNat := by
  refine ⟨⟨awaits_awaiting _ _ _, awaits_awaiting _ _ _, awaits_awaiting _ _ _⟩, ?_⟩
  decide +kernel

theorem test_hyps_CellWriteResponses :
    (awaiting (.cellStatus 3) .write withCell).Awaits (.cellStatus 3) [] ∧
    (awaiting (.cellWriteBack 3) .write withCell).Awaits (.cellWriteBack 3) [] :=
  ⟨awaits_awaiting _ _ _, awaits_awaiting _ _ _⟩

theorem test_hyps_PostResponseEndsOrFailsThePost :
    (posting 5).Awaits (.post 0) [] ∧ (posting 1).Awaits (.post 0) [] ∧
    (∀ left ∈ [1, 2, 5], (posting left).events.postPhase = .granted left ∧ (posting left).events.inPost = some inPost ∧
      (posting left).mgmt.sequence ≠ some .d1 ∧ (posting left).mgmt.sequence ≠ some .d2) ∧
    ((∀ n, ((posting 1).chan n).ctl.stalled = none) ∧ (posting 1).events.heldRejection = none ∧
      (∀ k, ((posting 1).cell k).held = none ∨ ((posting 1).cell k).queuedMark = true) ∧ (posting 1).events.queue = []) ∧
    (fullQueue (posting 1)).events.queue ≠ [] ∧ (fullQueue (posting 1)).events.occupancy < (fullQueue (posting 1)).ringSlots ∧
    (fullQueue (posting 1)).events.path = .ok ∧ (fullQueue (posting 1)).mgmt.windowState = .enabled := by
  refine ⟨awaits_awaiting _ _ _, awaits_awaiting _ _ _, ?_⟩
  decide +kernel

/-- A post whose first ERROR has been taken. -/
def failedPost (left : Nat) : State :=
  { posting left with events := { (posting left).events with inPost := none, path := .failed } }

/-- A held occurrence of cell 3, and a stalled channel 5, behind a post. -/
def heldCell (k : OccKind) : State := (posting 1).setCell 3 { liveCell with held := some { heldOccurrence with kind := k } }

/-- After a failure; a place freed to a stalled slot, the held rejection or a held occurrence. -/
theorem test_hyps_PostResponseEndsOrFailsThePost_places :
    (∀ left ∈ [1, 2, 4], (failedPost left).events.postPhase = .granted left ∧ (failedPost left).events.inPost = none ∧
      (failedPost left).mgmt.sequence ≠ some .d1 ∧ (failedPost left).mgmt.sequence ≠ some .d2) ∧
    (∃ s : State, s = (posting 1).setChan 5 (stalled Channel.reset) ∧ s.Awaits (.post 0) [] ∧
      (∀ m : ChanId, m < 5 → (s.chan m).ctl.stalled = none) ∧ (s.chan 5).ctl.stalled = some anEvent) ∧
    (∃ s : State, s = { posting 1 with events := { (posting 1).events with heldRejection := some anEvent } } ∧
      s.Awaits (.post 0) [] ∧ (∀ n, (s.chan n).ctl.stalled = none) ∧ s.events.heldRejection = some anEvent) ∧
    (∀ k ∈ [OccKind.limit, .range, .fault], (heldCell k).Awaits (.post 0) [] ∧ (heldCell k).events.heldRejection = none ∧
      (∀ n, ((heldCell k).chan n).ctl.stalled = none) ∧
      (∀ j : CellId, j < 3 → ((heldCell k).cell j).held = none) ∧
      ((heldCell k).cell 3).held = some { heldOccurrence with kind := k } ∧ ((heldCell k).cell 3).queuedMark = false) := by
  refine ⟨by decide +kernel, ⟨_, rfl, ⟨_, rfl, rfl, rfl⟩, by decide +kernel⟩,
    ⟨_, rfl, ⟨_, rfl, rfl, rfl⟩, by decide +kernel⟩, fun k hk => ⟨⟨_, rfl, rfl, rfl⟩, ?_⟩⟩
  fin_cases hk <;> decide +kernel

/-- Post responses in D1 and D2: the last one ends D2, and so does a failure. -/
theorem test_hyps_PostResponseEndsOrFailsThePost_disable :
    (∀ q ∈ [SeqStep.d1, .d2], ∀ left ∈ [1, 2], (disablingAt q (posting left)).Awaits (.post 0) [] ∧
      (disablingAt q (posting left)).events.postPhase = .granted left ∧
      (disablingAt q (posting left)).events.inPost = some inPost) ∧
    (on.mgmt.sequence ≠ some .d1 ∧ on.mgmt.sequence ≠ some .d2) ∧
    [MemResponse.okay 0#32, .error].map (fun r => match exec (.postWriteResponse r) (disablingAt .d2 (posting 1)) with
      | .next t => some (t.mgmt.sequence, t.events.intake)
      | _ => none) = [some (some .d3, .closed), some (some .d3, .closed)] := by
  refine ⟨fun q hq left hl => ?_, by decide, by decide +kernel⟩
  fin_cases hq <;> fin_cases hl <;> exact ⟨⟨_, rfl, rfl, rfl⟩, rfl, rfl⟩

/-- The end of a stall: a final event, a held completion, a fault pending with and without an operation in flight, nothing. -/
theorem test_hyps_PostResponseEndsOrFailsThePost_stalls :
    (idle₀ .ending).events.count < 8 ∧ ((idle₀ .ending).chan 0).ctl.state = .ending ∧ anEvent.kind = .terminal ∧
    ((idle₀ .halted).chan 0).ctl.state ≠ .ending ∧ ((idle₀ .halted).chan 0).ctl.heldCompletion = none ∧
    ((idle₀ .halted).chan 0).ctl.pendingFault = none ∧ ((idle₀ .halted).chan 0).opInFlight = false ∧
    (((dataDue .outstanding).modCtl 0 fun k => { k with pendingFault := some (.of .addressRange 0#26) }).chan 0).opInFlight =
      true ∧
    ((with₀ { channel .counted .draining .idle (.valid line₂) with
        ctl := { (channel .counted .draining .idle .invalid).ctl with
          heldCompletion := some (.breakGroup (found true true false)) } }).chan 0).ctl.heldCompletion =
      some (.breakGroup (found true true false)) := by decide +kernel

/-- A recovery read in flight, perhaps overtaken, the event path failed and this ring. -/
def recovering (overtaken : Bool) : State :=
  awaiting .recovery .read { failedPath .granted with
    events := { (failedPath .granted).events with producer := 16#16, overtaken := overtaken } }

theorem test_hyps_EventPathResetAndRecovery :
    (∀ r ∈ [Recovery.none, .claimed, .granted], (failedPath r).mgmt.softWaiting = false ∧
      (failedPath r).events.path = .failed ∧ (failedPath r).events.recovery = r) ∧ on.events.path = .ok ∧
    ((recovering true).Awaits .recovery [] ∧ (recovering false).Awaits .recovery []) ∧
    (∀ o ∈ [true, false], (recovering o).events.recovery = .granted ∧ (recovering o).events.overtaken = o) ∧
    ((recovering false).events.producer - field 0 16 0#32).toNat ≤ (recovering false).ringSlots ∧
    ¬ ((recovering false).events.producer - field 0 16 17#32).toNat ≤ (recovering false).ringSlots ∧
    (posting 5).events.inPost = some inPost := by
  refine ⟨by decide +kernel, rfl, ⟨awaits_awaiting _ _ _, awaits_awaiting _ _ _⟩, ?_⟩
  decide +kernel

/-- An access of a step of the enable sequence in flight. -/
def enableDue (q : SeqStep) (i : Nat) (last : Bool) (k : Kind) : State := awaiting (.enable i last) k (enabling q)

theorem test_hyps_EnableStepResponses :
    (∃ e, (enableDue .e1 0 true .read).mport.inflight = e :: [] ∧ e.orphan = false ∧ e.owner = .enable 0 true ∧ e.kind = .read) ∧
    (∃ e, (enableDue (.e4 15 []) 0 false .read).mport.inflight = e :: [] ∧ e.orphan = false ∧ e.owner = .enable 0 false ∧
      e.kind = .read) ∧
    (∃ e, (enableDue .e5 15 true .write).mport.inflight = e :: [] ∧ e.orphan = false ∧ e.owner = .enable 15 true ∧
      e.kind = .write) ∧
    (∀ q ∈ [SeqStep.e1, .e2, .e3, .e4 0 [1#32, 2#32, 3#32], .e4 15 [1#32, 2#32, 3#32], .e5], ∀ last ∈ [true, false],
      (enableDue q 3 last .read).mgmt.sequence = some q ∧ (enableDue q 3 last .read).mgmt.windowState ≠ .disabled) ∧
    ((0x80000800#32).getLsbD 31 = true ∧ (0x200#32).getLsbD 31 = false ∧ on.inWindow (field 0 26 0x80000800#32) = true ∧
      on.inWindow (field 0 26 0x80000200#32) = false) ∧
    (∃ j : CellId, j ≠ 4 ∧ (withCell.cell j).isRegistered = true ∧ (withCell.cell j).address = field 0 26 0x80000200#32) ∧
    ((cellFieldsOf 0#32 0#32 9#32).step = 0#8 ∧ (cellFieldsOf 1#32 9#32 8#32).step ≠ 0#8 ∧
      (cellFieldsOf 1#32 9#32 8#32).high.toNat < (cellFieldsOf 1#32 9#32 8#32).low.toNat ∧
      (cellFieldsOf 1#32 9#32 9#32).low.toNat ≤ (cellFieldsOf 1#32 9#32 9#32).high.toNat) ∧
    (fullQueue (enabling .e5)).events.queue ≠ [] ∧ (fullQueue (enabling .e5)).events.postPhase = .none ∧
    (fullQueue (enabling .e5)).events.path = .ok := by
  refine ⟨⟨_, rfl, rfl, rfl, rfl⟩, ⟨_, rfl, rfl, rfl, rfl⟩, ⟨_, rfl, rfl, rfl, rfl⟩, ?_⟩
  decide +kernel

theorem test_hyps_FramesAreJudgedAndAnswered :
    ((0x00#8 ≠ 0x01#8 ∧ 0x00#8 ≠ 0x02#8) ∧ 6 ≤ (0x06#8).toNat ∧ (0x03#8).toNat ∉ [1, 2, 4, 6]) ∧
    ((0x3FFF800#32).toNat ≤ 0x3FFF800 ∧ (0x3FFF800#32).toNat % 2048 = 0 ∧
      ¬ ((0x4000000#32).toNat ≤ 0x3FFF800 ∧ (0x4000000#32).toNat % 2048 = 0) ∧
      ¬ ((0x401#32).toNat ≤ 0x3FFF800 ∧ (0x401#32).toNat % 2048 = 0)) ∧
    (ordered.mgmt.softWaiting = true ∧ on.mgmt.windowState ≠ .disabled ∧ State.reset.mgmt.softWaiting = false ∧
      State.reset.mgmt.windowState = .disabled) ∧
    (5 ≤ ((0x4A#32 >>> 1) &&& 7#32).toNat ∧ (0x01#32 >>> 4) &&& 15#32 = 0#32) ∧
    (¬ (1 ≤ (0#32 &&& 0xFF#32).toNat ∧ (0#32 &&& 0xFF#32).toNat ≤ 4) ∧
      ¬ (1 ≤ (5#32 &&& 0xFF#32).toNat ∧ (5#32 &&& 0xFF#32).toNat ≤ 4)) ∧
    ([1, 2, 3, 4, 5] : List Byte).length < 6 ∧ 6 < ([1, 2, 3, 4, 5, 6, 7] : List Byte).length := by decide +kernel

theorem test_hyps_FaultStatusIsClearedByOnes :
    on.mgmt.softWaiting = false ∧ ordered.mgmt.softWaiting = true := by decide

theorem test_hyps_FaultOutputFollowsTheLatches :
    on.mgmt.faults = State.reset.mgmt.faults ∧ (posting 5).events.inPost = some inPost ∧
    on.mgmt.softWaiting = false ∧ on.mgmt.faults.eventPathFailed = false ∧ on.events.path = .ok ∧
    on.mgmt.faults.ringMisuse = false ∧ on.mgmt.faults.enableReadError = false ∧
    on.mgmt.faults.statusWriteLost = false := by decide +kernel

theorem test_hyps_WindowControlMovesTheWindow :
    (on.mgmt.softWaiting = false ∧ (field 1 3 0x40#32 : BitVec 3) = 0#3 ∧ (field 4 4 0x40#32 : BitVec 4) = 4#4 ∧
      (field 4 4 0x41#32 : BitVec 4) = 4#4 ∧ (field 4 4 0x49#32 : BitVec 4) = 4#4 ∧ ordered.mgmt.softWaiting = true) ∧
    ((0x41#32).getLsbD 0 = true ∧ (0x40#32).getLsbD 0 = false ∧ (field 1 3 0x41#32 : BitVec 3) = on.mgmt.ringSize ∧
      (field 1 3 0x43#32 : BitVec 3) ≠ on.mgmt.ringSize ∧ (field 1 3 0x49#32 : BitVec 3).toNat = 4) ∧
    (State.reset.mgmt.windowState = .disabled ∧ (enabling .e1).mgmt.windowState = .enabling ∧
      on.mgmt.windowState = .enabled ∧ (disabling on).mgmt.windowState = .disabling) ∧
    (∀ n, (on.chan n).ctl.state = .off ∨ (on.chan n).ctl.state = .faulted) ∧
    (¬ ∀ n, ((idle₀ .ready).chan n).ctl.state = .off ∨ ((idle₀ .ready).chan n).ctl.state = .faulted) ∧
    ∃ s : State, s = with₀ (channel .counted .off .idle (.valid dirtyLine)) ∧ (s.chan 0).line = .valid dirtyLine ∧
      dirtyLine.wbPhase = .none ∧ dirtyLine.dirty.any = true := by
  refine ⟨?_, ?_, ?_, ?_, ?_, _, rfl, ?_⟩ <;> decide +kernel

/-- Lines at rest and a line still writing; nothing to post, events waiting, and events waiting on a failed path. -/
theorem test_hyps_WindowControlMovesTheWindow_disable :
    (∀ s ∈ [on, fullQueue on, fullQueue (failedPath .none)], ∀ n v,
      ((disablingAt .d1 s).chan n).line = .valid v → v.wbPhase = .none ∧ v.requested = none) ∧
    (¬ ∀ n v, ((disablingAt .d1 writebackClaimed).chan n).line = .valid v → v.wbPhase = .none ∧ v.requested = none) ∧
    (∀ q ∈ [SeqStep.d1, .d2],
      (disablingAt q on).mgmt.sequence = some q ∧
      ((disablingAt q on).events.queue = [] ∧ (disablingAt q on).events.inPost = none ∧
        (disablingAt q on).events.postPhase = .none ∧ (∀ n, ((disablingAt q on).chan n).ctl.stalled = none) ∧
        (disablingAt q on).events.heldRejection = none ∧ ∀ k, ((disablingAt q on).cell k).held = none) ∧
      (disablingAt q (fullQueue on)).events.queue ≠ [] ∧ (disablingAt q (fullQueue on)).events.path ≠ .failed ∧
      (disablingAt q (fullQueue (failedPath .none))).events.path = .failed) := by
  refine ⟨fun s hs n v h => ?_, fun h => ?_, by decide +kernel⟩
  · have invalid : ∀ s ∈ [on, fullQueue on, fullQueue (failedPath .none)], ∀ n,
        ((disablingAt .d1 s).chan n).line = .invalid := by decide +kernel
    rw [invalid s hs n] at h
    cases h
  · exact absurd (h 0 countClaimed rfl).1 (by decide)

/-- ENABLE 0 in DISABLING, and a frame with another RING_SIZE outside DISABLED. -/
theorem test_hyps_WindowControlMovesTheWindow_sizes :
    (∀ s ∈ [on, enabling .e1, disabling on], s.mgmt.softWaiting = false ∧ s.mgmt.windowState ≠ .disabled ∧
      (field 1 3 0x40#32 : BitVec 3) = s.mgmt.ringSize ∧ (field 1 3 0x42#32 : BitVec 3) ≠ s.mgmt.ringSize ∧
      (field 1 3 0x48#32 : BitVec 3).toNat = 4 ∧ (0x40#32).getLsbD 0 = false ∧ (0x42#32).getLsbD 0 = false ∧
      (field 4 4 0x42#32 : BitVec 4) ≠ 0#4) ∧ (disabling on).mgmt.windowState = .disabling := by decide +kernel

/-- The disable sequence waits for its boundary. -/
def ending₀ : State := { on with mgmt := { on.mgmt with windowState := .disabling, sequence := some .d3 } }

theorem test_hyps_DisableEndClearsTheWindow :
    ending₀.mgmt.sequence = some .d3 ∧ ending₀.mport.lock = none ∧ on.mgmt.sequence ≠ some .d3 ∧
    (locked [postWrite] ending₀).mport.lock ≠ none := by decide +kernel

theorem test_hyps_ActionFramesOrder : on.mgmt.softWaiting = false ∧ ordered.mgmt.softWaiting = true ∧
    Instr.channelReset 0xFF#8 ∈ [Instr.flush, .channelReset 0xFF#8, .softReset, .eventPathReset] := by decide

/-- FLUSH waits, and CHANNEL_RESET of channels 0 and 7, channel 0 with this port. -/
def waitingActions (p : Port) : State :=
  let s := with₀ (channel .counted .ready p (.valid dirtyLine))
  { s with mgmt := { s.mgmt with flushWaiting := true, resetMask := 0x81#8 } }

theorem test_hyps_WaitingActionsActAtABoundary :
    ((waitingActions .idle).mgmt.flushWaiting = true ∧ (waitingActions .idle).mport.lock = none ∧
      ((waitingActions .idle).chan 0).line = .valid dirtyLine ∧ dirtyLine.dirty.any = true ∧
      ((idle₀ .ready).chan 0).line = .valid line₂ ∧ line₂.wbPhase = .none ∧ line₂.dirty.any = false ∧
      ((waitingActions .idle).chan 7).lineValid = false) ∧
    (on.mgmt.flushWaiting = false ∧ (locked [postWrite] (waitingActions .idle)).mport.lock ≠ none) ∧
    ((∀ n ∈ [(0 : ChanId), 7], (waitingActions .idle).mgmt.resetMask.getLsbD n.val = true) ∧
      (waitingActions .idle).mgmt.resetMask.getLsbD (1 : ChanId).val = false) ∧
    (∀ q g, ((waitingActions .idle).chan 0).port ≠ .granted q g) ∧
    ∃ q g, ((waitingActions (.granted req (slot .outstanding))).chan 0).port = .granted q g := by
  refine ⟨?_, ?_, ?_, notGranted_of_idle _ rfl, _, _, rfl⟩ <;> decide +kernel

theorem test_hyps_ResetsTakeTheResetValues :
    (ordered.mgmt.softWaiting = true ∧ ordered.mport.lock = none) ∧ on.mgmt.softWaiting = false ∧
    (locked [postWrite] ordered).mport.lock ≠ none ∧ on.pass.offered = [] := by decide +kernel

/-! ## One step of each command -/

/-- The state that a command answers. -/
def after (c : Instr) (s : State) : Option State :=
  match exec c s with
  | .next t => some t
  | _ => none

theorem test_readRequest : (after (.readRequest 0x40#26) on).map (·.pass.entries.map (·.phase)) = some [.waiting] := by
  decide +kernel

theorem test_writeRequest_stays_offered :
    (after (.writeRequest 0x40#26 3#4 7#32) (queueOf 8)).map (fun t => (t.pass.entries.length, t.pass.offered.length)) =
      some (8, 1) := by decide +kernel

theorem test_grantDecision : (after .grantDecision (offering .read 0x40#26 on)).map (·.out) = some [.memRead 0x40#26] := by
  decide +kernel

theorem test_groupAccessIssue :
    (after .groupAccessIssue (locked [postWrite] on)).map (fun t => (t.out, t.mport.lock)) =
      some ([.memWrite 0x895#26 0xF#4 7#32], none) := by decide +kernel

theorem test_start :
    (after (.start 0) (idle₀ .off)).map (fun t => ((t.chan 0).ctl.state, (t.chan 0).ctl.startCount)) =
      some (.loading, 1#8) := by decide +kernel

theorem test_stop :
    (after (.stop 0) (idle₀ .ready)).map (fun t => ((t.chan 0).ctl.state, t.events.queue.map (·.kind))) =
      some (.halted, [.halted]) := by decide +kernel

theorem test_resume : (after (.resume 0) (halted₀ line₂)).map (fun t => (t.chan 0).ctl.state) = some .ready := by
  decide +kernel

theorem test_abort :
    (after (.abort 0) (brk₀ .counted line₂)).map (fun t => ((t.chan 0).ctl.state, (t.chan 0).ctl.ending, t.out)) =
      some (.ending, some (.aborted 2#24), [.answer 0 .cancelled]) := by decide +kernel

theorem test_clear : (after (.clear 0) (idle₀ .faulted)).map (fun t => (t.chan 0).ctl.state) = some .off := by
  decide +kernel

/-- What channel 0's claimed writeback serves. -/
def claimedFor (t : State) : Option WbConsequence :=
  match (t.chan 0).line with
  | .valid v => if v.wbPhase = .claimed then some v.serves.consequence else none
  | _ => none

theorem test_abort_and_clear_claim_their_writebacks :
    (after (.abort 0) (brk₀ .counted line₂)).bind claimedFor = some .finalEvent ∧
    (after (.clear 0) (idle₀ .faulted)).bind claimedFor = some .clear := by decide +kernel

theorem test_unknownCommand :
    (after (.unknownCommand 0 6#3) (idle₀ .ready)).map (fun t => (t.chan 0).ctl.lastRefusal) =
      some (some .unknownCommand) := by decide +kernel

theorem test_forwardedResponse :
    (after (.forwardedResponse (.okay 9#32)) (awaiting (.pass 0) .read issued₂)).map (·.out) =
      some [.response (.okayRead 9#32)] := by decide +kernel

theorem test_cellhitReadResponse_at_HIGH_wraps_to_LOW :
    (after (.cellhitReadResponse (.okay 9#32)) pairRead).map (fun t =>
      (t.out, t.mport.lock.map (·.todo.map (·.data)), (t.cell 3).atLimit, t.events.queue.map (·.kind))) =
      some ([.response (.okayRead 9#32)], some [0#32], true, [.cellLimit]) := by decide +kernel

theorem test_cellWriteBackResponse_error :
    (after (.cellWriteBackResponse .error) (awaiting (.cellWriteBack 3) .write withCell)).map (·.events.queue) =
      some [{ kind := .cellFault, source := 3#4, word1 := 0x200#32, detailA := 0x200#32, detailB := 0#32 }] := by
  decide +kernel

theorem test_breakCellReadResponse_out_of_range :
    (after (.breakCellReadResponse (.okay 0x100#32)) cellReadDue).map (fun t => (t.out, t.events.queue.map (·.kind))) =
      some ([.memWrite 0x200#26 0xF#4 0#32], [.cellRange]) := by decide +kernel

theorem test_breakDataResponse :
    (after (.breakDataResponse (.okay 0#32)) (dataDue .outstanding)).map (fun t => (t.out, (t.chan 0).ctl.state)) =
      some ([.answer 0 (.complete none false false)], .ready) := by decide +kernel

theorem test_strictWriteResponse_error :
    (after (.strictWriteResponse .error) countDue).map (fun t => ((t.chan 0).ctl.state, (t.chan 0).ctl.lastFault)) =
      some (.faulted, some .memoryDescriptor) := by decide +kernel

theorem test_fillReadResponse_installs :
    (after (.fillReadResponse (.okay 0#32)) (filling sevenWords)).map (fun t =>
      ((t.chan 0).ctl.state, (t.chan 0).count, (t.chan 0).word .status)) = some (.ready, 2#24, 2#32) := by decide +kernel

theorem test_writebackWriteResponse_ends_ENDING :
    (after (.writebackWriteResponse (.okay 0#32)) (writebackDue 1 .ending .finalEvent (some .terminal))).map (fun t =>
      ((t.chan 0).ctl.state, t.events.queue.map (·.kind))) = some (.off, [.terminal]) := by decide +kernel

theorem test_linkReadResponse_loads :
    (after (.linkReadResponse (.okay 3#32)) (linking [5#32, 6#32, 0#32] 0)).map (fun t =>
      ((t.chan 0).ctl.state, (t.chan 0).count, (t.chan 0).walker.flags)) =
      some (.ready, 5#24, { evEnd := true, hold := true }) := by decide +kernel

theorem test_cellLoadResponse :
    (after (.cellLoadResponse (.okay 3#32)) (loadingCell [1#32, 2#32])).map (fun t => (t.cell 3).isLive) = some true := by
  decide +kernel

theorem test_cellStatusWriteResponse_error :
    (after (.cellStatusWriteResponse .error) (awaiting (.cellStatus 3) .write withCell)).map
      (fun t => (t.mgmt.faults.statusWriteLost, t.faultLine)) = some (true, true) := by decide +kernel

theorem test_postWriteResponse_error :
    (after (.postWriteResponse .error) (posting 5)).map (fun t =>
      (t.events.path, t.events.producer, t.events.queue, t.faultLine)) = some (.failed, 0#16, [anEvent], true) := by
  decide +kernel

theorem test_recoveryReadResponse :
    (after (.recoveryReadResponse (.okay 5#32)) (recovering false)).map (fun t => (t.events.path, t.events.consumer)) =
      some (.ok, 5#16) := by decide +kernel

theorem test_enableStepResponse :
    (after (.enableStepResponse (.okay 7#32)) (enableDue .e1 0 true .read)).map (fun t =>
      (t.events.producer, t.events.consumer, t.mgmt.sequence)) = some (7#16, 7#16, some .e2) := by decide +kernel

theorem test_orphanedResponse :
    (after (.orphanedResponse .error) { on with mport := { inflight := [orphaned], lock := none } }) = some on := by
  decide +kernel

theorem test_channelRequest :
    (after (.channelRequest 0 req) (idle₀ .ready)).map (fun t => ((t.chan 0).ctl.state, (t.chan 0).port)) =
      some (.pending, .accepted req) := by decide +kernel

theorem test_quietTimerExpiry :
    (after (.quietTimerExpiry 0) (timer 0 dirtyLine)).map (fun t => ((t.chan 0).quiet, t.arb.upkeep)) =
      some (none, [{ kind := .writeback 0, age := 0 }]) := by decide +kernel

/-- One event in the ring, the holdoff of 5 µs run out. -/
def heldOff : State :=
  { ring 1 0 with events := { (ring 1 0).events with
      attention := { enable := true, threshold := 8#9, holdoff := 5#16 }, holdoff := some 5 } }

theorem test_holdoffExpiry : (after .holdoffExpiry heldOff).map (·.events.attn) = some true := by decide +kernel

theorem test_enableWindow :
    (after (.enableWindow 0x41#32) State.reset).map (fun t => (t.mgmt.windowState, t.mgmt.sequence, t.arb.upkeep)) =
      some (.enabling, some .e1, [{ kind := .enable, age := 0 }]) := by decide +kernel

theorem test_disableWindow :
    (after (.disableWindow 0x40#32) (idle₀ .off)).map (fun t => (t.mgmt.windowState, t.mgmt.sequence, t.events.intake)) =
      some (.disabling, some .d3, .closed) := by decide +kernel

theorem test_disableEnd :
    (after .disableEnd ending₀).map (fun t => (t.mgmt.windowState, t.mgmt.sequence)) = some (.disabled, none) := by
  decide +kernel

theorem test_registerWrite_reads_the_part_identity :
    (after (.registerWrite 0x01#8 0x00#8 0#32) on).map (·.mgmt.response) =
      some { status := .ack, data := 0x00580001#32 } := by decide +kernel

theorem test_faultStatusClear :
    (after (.faultStatusClear 0xF#32) { on with mgmt := { on.mgmt with
      faults := { eventPathFailed := true, ringMisuse := true, enableReadError := true, statusWriteLost := true } } }).map
      (·.mgmt.faults) = some { FaultStatus.clear with eventPathFailed := true } := by decide +kernel

theorem test_flush : (after .flush on).map (·.mgmt.flushWaiting) = some true := by decide +kernel

theorem test_flushAtBoundary :
    (after .flushAtBoundary (waitingActions .idle)).map (fun t => (t.mgmt.flushWaiting, t.arb.upkeep)) =
      some (false, [{ kind := .writeback 0, age := 0 }]) := by decide +kernel

theorem test_eventPathReset :
    (after .eventPathReset (failedPath .none)).map (fun t => (t.events.recovery, t.events.path)) =
      some (.claimed, .failed) := by decide +kernel

theorem test_channelReset : (after (.channelReset 0x81#8) on).map (·.mgmt.resetMask) = some 0x81#8 := by decide +kernel

theorem test_channelResetTakesEffect :
    (after (.channelResetTakesEffect 0) (waitingActions (.accepted req))).map (fun t =>
      ((t.chan 0).ctl.state, (t.chan 0).line, t.out, t.mgmt.resetMask)) =
      some (.off, .invalid, [.answer 0 .cancelled], 0x80#8) := by decide +kernel

theorem test_softReset : (after .softReset on).map (·.mgmt.softWaiting) = some true := by decide +kernel

theorem test_softResetTaken :
    (after .softResetTaken ordered).map (fun t => (t.mgmt.windowState, t.mgmt.windowBase, t.mgmt.softWaiting)) =
      some (.disabled, 0x800#26, false) := by decide +kernel

theorem test_discardedFrame_of_two_bytes :
    (after (.discardedFrame [0x01#8, 0x00#8]) on).map (fun t => (t.out, t.mgmt == on.mgmt)) =
      some ([.shifted [0x00#8, 0x00#8]], true) := by decide +kernel

theorem test_powerOnReset : (after .powerOnReset withCell) = some State.reset := by decide +kernel

end Sys2Proof.Tests
end

section
/-! PROOFS. Every step keeps the laws (R3, R14, R62, R121, R140, R141, R148, R155): each command does, and so does a
tick. -/

namespace Sys2Proof.Machine

/-! ## What a command keeps -/

theorem PartStep.ite {s t u : State} {p : Prop} [Decidable p] (h : p → PartStep s t) (k : ¬ p → PartStep s u) :
    PartStep s (if p then t else u) := by
  split
  · exact h ‹_›
  · exact k ‹_›

/-- A row that takes effect where its guard holds, and changes nothing elsewhere (log 3). -/
theorem PartStep.guarded {s t : State} {p : Prop} [Decidable p] (h : PartStep s t) :
    PartStep s (if p then t else s) := .ite (fun _ => h) fun _ => .refl s

theorem State.command_part (s : State) (n : ChanId) (code : CommandCode) : PartStep s (s.command n code) :=
  (s.command_step n code).toPart

theorem State.breakCellReadResponse_part (s : State) (r : MemResponse) :
    ∃ t, exec (.breakCellReadResponse r) s = .next t ∧ PartStep s t := by
  refine ⟨_, rfl, State.respond_room_part _ _ _ (fun e t => ?_) fun e t room => ?_⟩ <;> split
  · exact t.cellReadResponse_keeps _ _ _
  · exact (PartStep.refl t).keeps
  · exact t.cellReadResponse_part _ _ _ room
  · exact .refl t

/-- A response row other than BREAK_CELL_READ_RESPONSE issues no access. -/
theorem State.response_part (s : State) (row : ResponseRow) {take : InFlight → State → State}
    (h : ∀ e t, PartStep t (take e t)) : ∃ t, Host.Outcome.next (s.respond row take) = (.next t : Result) ∧ PartStep s t :=
  ⟨_, rfl, s.respond_part row take h⟩

/-- Every command answers a next state, and keeps what PartStep names. -/
theorem exec_part (c : Instr) (s : State) : ∃ t, exec c s = .next t ∧ PartStep s t := by
  cases c with
  | readRequest a => exact ⟨_, rfl, s.offerRequest_part _⟩
  | writeRequest a l d => exact ⟨_, rfl, s.offerRequest_part _⟩
  | grantDecision => exact ⟨_, rfl, s.decision_part.trans (State.disableProgress_part _)⟩
  | groupAccessIssue => exact ⟨_, rfl, s.issueNext_part⟩
  | start n => exact ⟨_, rfl, s.command_part n _⟩
  | stop n => exact ⟨_, rfl, s.command_part n _⟩
  | resume n => exact ⟨_, rfl, s.command_part n _⟩
  | abort n => exact ⟨_, rfl, s.command_part n _⟩
  | clear n => exact ⟨_, rfl, s.command_part n _⟩
  | unknownCommand n code => exact ⟨_, rfl, .guarded (s.command_part n _)⟩
  | forwardedResponse r =>
    refine s.response_part _ fun e t => ?_
    split
    · exact t.answerEntry_part _ _
    · exact .refl t
  | cellhitReadResponse r =>
    refine s.response_part _ fun e t => ?_
    split
    · exact t.cellhitResponse_part _ _ _
    · exact .refl t
  | cellWriteBackResponse r =>
    refine s.response_part _ fun e t => ?_
    split
    · exact .guarded (t.cellFault_part _)
    · exact .refl t
  | breakCellReadResponse r => exact s.breakCellReadResponse_part r
  | breakDataResponse r =>
    refine s.response_part _ fun e t => ?_
    split
    · exact (t.dataResponse_turn _ _).toPart
    · exact .refl t
  | strictWriteResponse r =>
    refine s.response_part _ fun e t => ?_
    split
    · exact (t.strictResponse_step _ _ _).toPart
    · exact (t.strictResponse_step _ _ _).toPart
    · exact .refl t
  | fillReadResponse r =>
    refine s.response_part _ fun e t => ?_
    split
    · exact (t.fillResponse_turn _ _ _).toPart
    · exact .refl t
  | writebackWriteResponse r =>
    refine s.response_part _ fun e t => ?_
    split
    · exact (t.writebackResponse_step _ _ _).toPart.trans (State.disableProgress_part _)
    · exact .refl t
  | linkReadResponse r =>
    refine s.response_part _ fun e t => ?_
    split
    · exact (t.linkResponse_turn _ _ _).toPart
    · exact .refl t
  | cellLoadResponse r =>
    refine s.response_part _ fun e t => ?_
    split
    · exact t.cellLoadResponse_part _ _
    · exact .refl t
  | cellStatusWriteResponse r => exact s.response_part _ fun _ t => .guarded (t.modFaults_part _)
  | postWriteResponse r =>
    exact s.response_part _ fun _ t => (t.postResponse_part r).trans (State.disableProgress_part _)
  | recoveryReadResponse r => exact s.response_part _ fun _ t => t.recoveryResponse_part r
  | enableStepResponse r =>
    refine s.response_part _ fun e t => ?_
    split
    · exact t.enableResponse_part _ _ _
    · exact .refl t
  | orphanedResponse r => exact s.response_part _ fun _ t => .refl t
  | channelRequest n req => exact ⟨_, rfl, (s.arrive_step n req).toPart⟩
  | quietTimerExpiry n => exact ⟨_, rfl, (s.quietExpires_step n).toPart⟩
  | holdoffExpiry => exact ⟨_, rfl, s.refreshAttn_part⟩
  | enableWindow d => exact ⟨_, rfl, .guarded (s.takeFrame_part _ _ _)⟩
  | disableWindow d => exact ⟨_, rfl, .ite (fun _ => .refl s) fun _ => s.takeFrame_part _ _ _⟩
  | disableEnd => exact ⟨_, rfl, .guarded s.endDisable_part⟩
  | registerWrite op i d => exact ⟨_, rfl, s.takeFrame_part _ _ _⟩
  | faultStatusClear d => exact ⟨_, rfl, s.takeFrame_part _ _ _⟩
  | flush => exact ⟨_, rfl, s.takeFrame_part _ _ _⟩
  | flushAtBoundary => exact ⟨_, rfl, .guarded s.flushNow_part⟩
  | eventPathReset => exact ⟨_, rfl, s.takeFrame_part _ _ _⟩
  | channelReset m => exact ⟨_, rfl, s.takeFrame_part _ _ _⟩
  | channelResetTakesEffect n =>
    exact ⟨_, rfl, .guarded ((s.resetChannel_part n).trans (State.disableProgress_part _))⟩
  | softReset => exact ⟨_, rfl, s.takeFrame_part _ _ _⟩
  | softResetTaken => exact ⟨_, rfl, .guarded s.takeSoftReset_part⟩
  | discardedFrame l => exact ⟨_, rfl, s.discardFrame_part l⟩
  | powerOnReset => exact ⟨_, rfl, s.powerOn_part⟩

/-! ## What a step keeps -/

/-- The four laws are kept from s to t. The command queue is free: a step takes a command from it, and a tick adds to it. -/
structure KeepsLaws (s t : State) : Prop where
  caps : s.Capacities → t.Capacities
  ring : s.Capacities → s.RingLaw → t.RingLaw
  cells : s.Capacities → s.CellLaw → t.CellLaw
  status : s.Capacities → s.StatusLaw → t.StatusLaw

/-- A tick moves timers alone, which no law reads. -/
theorem State.tick_keepsLaws (s : State) : KeepsLaws s s.tick := by
  have quiet : PartStep s (s.mapChannels fun c => { c with quiet := quietTick c.quiet }) := by
    refine ⟨rfl, List.prefix_rfl, id, fun _ => RingLaw.of_grow rfl (.of_eq rfl),
      fun _ => CellLaw.of_shrink rfl (.of_eq rfl), fun _ a n => ?_⟩
    rw [State.chan_mapChannels]
    exact a n
  have timers : PartStep s ((s.mapChannels fun c => { c with quiet := quietTick c.quiet }).modEvents fun e =>
      { e with holdoff := holdoffTick e.holdoff }) := quiet.trans (State.modEvents_part _ _)
  exact ⟨timers.caps, timers.ring, timers.cells, timers.status⟩

theorem step_keepsLaws {s t : State} (h : step s = .next t) : KeepsLaws s t := by
  unfold step at h
  split at h
  · cases h
    exact s.tick_keepsLaws
  · rename_i c rest _
    obtain ⟨u, hu, part⟩ := exec_part c { s with pending := rest }
    rw [hu] at h
    cases h
    exact ⟨part.caps, part.ring, part.cells, part.status⟩

/-- Settles O5: the capacities are a law that each command and each tick keeps. -/
theorem everyStepKeepsTheCapacities : Obligations.EveryStepKeepsTheCapacities :=
  fun _ _ caps h => (step_keepsLaws h).caps caps

/-- Settles O7: the cell law is one that each command and each tick keeps. -/
theorem everyStepKeepsTheCellLaw : Obligations.EveryStepKeepsTheCellLaw :=
  fun _ _ caps law h => (step_keepsLaws h).cells caps law

end Sys2Proof.Machine
end

section
/-! PROOFS. The reset values (R18, R184), the lanes of a write (R13), the Classifier's table (R6, R7), and the I-port with
the responses that nobody waits for (R1, R3, R15). -/

namespace Sys2Proof.Machine

/-! ## Reset -/

@[simp] theorem State.chan_reset (n : ChanId) : State.reset.chan n = .reset := State.chan_replicate State.reset .reset n

@[simp] theorem State.cell_reset (k : CellId) : State.reset.cell k = .reset := State.cell_replicate State.reset .reset k

/-- Settles O3: every channel and every cell is one of a vector of reset values. -/
theorem resetValues : Obligations.ResetValues := by
  refine ⟨rfl, rfl, rfl, rfl, rfl, fun n => ?_, fun k => ?_, rfl, rfl⟩
  · rw [State.chan_reset]
    exact ⟨rfl, rfl, rfl, rfl, rfl, rfl, rfl, rfl⟩
  · exact State.cell_reset k

/-- Settles O4: power-on reset leaves the Event Unit at rest, every cell OFF and no line VALID. -/
theorem resetIsLawful : Obligations.ResetIsLawful := by
  refine ⟨?_, RingLaw.of_reset rfl fun _ => rfl, CellLaw.of_none (fun k => ?_) fun _ => rfl, fun n => ?_⟩
  · exact ⟨Nat.zero_le _, Nat.zero_le _, Nat.zero_le _, Nat.zero_le _, fun c hc => (by cases hc)⟩
  · rw [State.cell_reset]
    rfl
  · rw [State.chan_reset]
    exact Channel.agrees_of_not_valid rfl

/-! ## Lanes -/

/-- Settles O9: a bit of the mask is its lane's enable. -/
theorem enabledLanesReplaceTheirBytes : Obligations.EnabledLanesReplaceTheirBytes := by
  intro l data old i hi
  have mask := getLsbD_laneMask l hi
  unfold lay
  rw [BitVec.getLsbD_or, BitVec.getLsbD_and, BitVec.getLsbD_and, BitVec.getLsbD_not, mask, decide_eq_true hi]
  cases l.getLsbD (i / 8) <;> simp

/-! ## The Classifier -/

/-- The window is the words from WINDOW_BASE to WINDOW_BASE + 148 + 4N − 1 (R20). -/
theorem State.windowWord_eq_some_iff (s : State) (a : Addr) (w : Nat) :
    s.windowWord a = some w ↔ a.toNat = s.mgmt.windowBase.toNat + w ∧ w < s.windowLength := by
  unfold State.windowWord
  split
  · rw [Option.some.injEq]
    omega
  · constructor
    · intro h
      cases h
    · omega

/-- The class of a window word (R7): where its place in the window falls. -/
def wordClass (w : Nat) : PassClass :=
  if w < 64 then .record else if w < 144 then .cellrec else if w < 148 then .ringctl else .ringbody

theorem State.classify_of_windowWord {s : State} {r : Request} {w : Nat} (on : s.mgmt.windowState ≠ .disabled)
    (h : s.windowWord r.addr = some w) : s.classify r = wordClass w := by
  unfold State.classify
  rw [if_neg on, h]
  rfl

theorem State.classify_outside {s : State} {r : Request} (on : s.mgmt.windowState ≠ .disabled)
    (h : s.windowWord r.addr = none) :
    s.classify r = if r.kind = .read ∧ (s.liveCellAt r.addr).isSome then .cellhit else .plain := by
  unfold State.classify
  rw [if_neg on, h]

/-- The live cell set (R6). -/
theorem State.liveCellAt_isSome_iff (s : State) (a : Addr) :
    (s.liveCellAt a).isSome = true ↔ ∃ k, (s.cell k).isLive = true ∧ (s.cell k).address = a := by
  unfold State.liveCellAt
  rw [List.find?_isSome]
  simp [mem_cellIds]

/-- Settles O10: inside the window the place of the word decides, outside it the live cell set. -/
theorem classifierTable : Obligations.ClassifierTable := by
  intro s r
  refine ⟨s.windowWord_eq_some_iff r.addr, State.classify_disabled, fun on => ⟨fun w hw => ?_, fun hw => ?_⟩⟩
  · rw [State.classify_of_windowWord on hw]
    unfold wordClass
    refine ⟨fun _ => ?_, fun _ _ => ?_, fun _ _ => ?_, fun _ => ?_⟩
    · rw [if_pos (by omega)]
    · rw [if_neg (by omega), if_pos (by omega)]
    · rw [if_neg (by omega), if_neg (by omega), if_pos (by omega)]
    · rw [if_neg (by omega), if_neg (by omega), if_neg (by omega)]
  · rw [State.classify_outside on hw, ← State.liveCellAt_isSome_iff]
    refine ⟨fun hr live => if_pos ⟨hr, live⟩, fun _ dead => if_neg fun h => dead h.2, fun hr => if_neg fun h => ?_⟩
    rw [hr] at h
    cases h.1

/-! ## Acceptance -/

/-- With nothing offered, nothing is accepted. -/
theorem PassQueue.acceptOffered_nil {q : PassQueue} (h : q.offered = []) : q.acceptOffered [] = q := by
  unfold PassQueue.acceptOffered
  rw [← h]

/-- A full queue accepts nothing (R3). -/
theorem PassQueue.acceptOffered_of_full {q : PassQueue} (l : List Request) (h : 8 ≤ q.entries.length) :
    q.acceptOffered l = { q with offered := l } := by
  cases l with
  | nil => rfl
  | cons r l => exact if_neg (Nat.not_lt.2 h)

/-- A queue with room accepts the first request offered (R3). -/
theorem PassQueue.acceptOffered_of_room {q : PassQueue} (r : Request) (l : List Request) (h : q.entries.length < 8) :
    q.acceptOffered (r :: l) = (q.accept r).acceptOffered l := if_pos h

theorem State.offerRequest_of_room {s : State} (r : Request) (room : s.pass.entries.length < 8)
    (idle : s.pass.offered = []) : s.offerRequest r = { s with pass := s.pass.accept r } := by
  unfold State.offerRequest
  rw [idle, List.nil_append, PassQueue.acceptOffered_of_room _ _ room, PassQueue.acceptOffered_nil (q := s.pass.accept r) idle]

theorem State.offerRequest_of_full {s : State} (r : Request) (full : 8 ≤ s.pass.entries.length) :
    s.offerRequest r = { s with pass := { s.pass with offered := s.pass.offered ++ [r] } } := by
  unfold State.offerRequest
  rw [PassQueue.acceptOffered_of_full _ full]

/-- Settles O12: READ_REQUEST and WRITE_REQUEST offer their request, and room decides. -/
theorem requestIsAcceptedOrStaysOffered : Obligations.RequestIsAcceptedOrStaysOffered := by
  intro a l d s
  exact ⟨fun room idle => ⟨congrArg _ (State.offerRequest_of_room _ room idle),
      congrArg _ (State.offerRequest_of_room _ room idle)⟩,
    fun full => ⟨congrArg _ (State.offerRequest_of_full _ full), congrArg _ (State.offerRequest_of_full _ full)⟩⟩

/-! ## Responses (R15) -/

theorem State.respond_of_nil {s : State} (row : ResponseRow) (take : InFlight → State → State)
    (h : s.mport.inflight = []) : s.respond row take = s := by
  unfold State.respond
  rw [h]

/-- The oldest entry leaves the list, and its owner takes the response. -/
theorem State.respond_of_row {s : State} {row : ResponseRow} (take : InFlight → State → State) {e : InFlight}
    {rest : List InFlight} (h : s.mport.inflight = e :: rest) (hr : e.row = row) :
    s.respond row take = take e { s with mport := { s.mport with inflight := rest } } := by
  unfold State.respond
  rw [h]
  exact if_pos hr

theorem InFlight.row_of_orphan {e : InFlight} (h : e.orphan = true) : e.row = .orphaned := if_pos h

theorem InFlight.row_of_pass {e : InFlight} {id : Nat} (o : e.orphan = false) (h : e.owner = .pass id) :
    e.row = .forwarded := by
  unfold InFlight.row
  simp [o, h]

theorem InFlight.row_of_passCell {e : InFlight} {id : Nat} {k : CellId} (o : e.orphan = false)
    (h : e.owner = .passCell id k) : e.row = .cellhitRead := by
  unfold InFlight.row
  simp [o, h]

/-- Settles O13: every response row is one of State.respond. -/
theorem strayResponsesAreDiscarded : Obligations.StrayResponsesAreDiscarded := by
  refine ⟨fun r s empty c hc => ?_, fun r e rest s h orphan => ?_⟩
  · have stray : ∀ row take, Host.Outcome.next (s.respond row take) = (.next s : Result) := fun row take => by
      rw [State.respond_of_nil row take empty]
    simp only [List.mem_cons, List.not_mem_nil, or_false] at hc
    rcases hc with rfl | rfl | rfl | rfl | rfl | rfl | rfl | rfl | rfl | rfl | rfl | rfl | rfl | rfl | rfl <;>
      exact stray _ _
  · exact congrArg _ (State.respond_of_row _ h (InFlight.row_of_orphan orphan))

/-! ## Delivery (R5, R10) -/

theorem PassEntry.map_of_other_ids {ps : List PassEntry} {id : Nat} (f : PassEntry → PassEntry)
    (h : ∀ x ∈ ps, x.id ≠ id) : (ps.map fun x => if x.id = id then f x else x) = ps := by
  conv_rhs => rw [← List.map_id ps]
  exact List.map_congr_left fun x hx => if_neg (h x hx)

/-- At the front the answer is delivered, with those of the ANSWERED entries behind it. -/
theorem State.answerEntry_front {s : State} {p : PassEntry} {ps : List PassEntry} (r : PassResponse)
    (h : s.pass.entries = p :: ps) (ids : ∀ x ∈ ps, x.id ≠ p.id) :
    s.answerEntry p.id r =
      { s with
        pass := PassQueue.acceptOffered { s.pass with entries := dropAnswered ps } s.pass.offered
        out := s.out ++ .response r :: (frontResponses ps).map PortMessage.response } := by
  have entries : (s.modEntry p.id fun e => { e with phase := .answered r }).pass.entries =
      { p with phase := .answered r } :: ps := by
    simp only [State.modEntry_pass, h, List.map_cons, if_pos, PassEntry.map_of_other_ids _ ids]
  unfold State.answerEntry State.deliver
  rw [entries]
  rfl

/-- Behind an entry that has no answer yet, the entry keeps its answer and nothing is delivered. -/
theorem State.answerEntry_behind {s : State} {p : PassEntry} {ps : List PassEntry} {id : Nat} (r : PassResponse)
    (h : s.pass.entries = p :: ps) (ne : p.id ≠ id) (unanswered : p.response? = none) (idle : s.pass.offered = []) :
    s.answerEntry id r =
      { s with pass := { s.pass with
          entries := p :: ps.map fun x => if x.id = id then { x with phase := .answered r } else x } } := by
  have entries : (s.modEntry id fun e => { e with phase := .answered r }).pass.entries =
      p :: ps.map fun x => if x.id = id then { x with phase := .answered r } else x := by
    simp only [State.modEntry_pass, h, List.map_cons, if_neg ne]
  unfold State.answerEntry State.deliver
  simp only [entries, dropAnswered, frontResponses, unanswered, Option.isSome_none, Bool.false_eq_true, if_false,
    List.map_nil, State.modEntry_out, List.append_nil]
  simp only [State.modEntry_pass, idle]
  rfl

theorem State.exec_forwardedResponse {s : State} {e : InFlight} {rest : List InFlight} {id : Nat} (r : MemResponse)
    (h : s.mport.inflight = e :: rest) (o : e.orphan = false) (ho : e.owner = .pass id) :
    exec (.forwardedResponse r) s =
      .next (State.answerEntry { s with mport := { s.mport with inflight := rest } } id (passResponse e.kind r)) := by
  refine congrArg Host.Outcome.next ((State.respond_of_row _ h (InFlight.row_of_pass o ho)).trans ?_)
  rw [ho]

/-- Settles O14: the response answers the entry, at the front or behind it. -/
theorem forwardedResponseAnswersItsEntry : Obligations.ForwardedResponseAnswersItsEntry := by
  intro r e rest p ps s h orphan entries
  refine ⟨fun owner ids => ?_, fun id owner ne unanswered idle => ?_⟩
  · rw [State.exec_forwardedResponse r h orphan owner]
    exact congrArg _ (State.answerEntry_front _ entries ids)
  · rw [State.exec_forwardedResponse r h orphan owner]
    exact congrArg _ (State.answerEntry_behind _ entries ne unanswered idle)

end Sys2Proof.Machine
end

section
/-! PROOFS. The grant of the PASS claim (R9 to R13, R17, R140, R141): what the arbiter and the issue leave, the write that
acts on its block, and the read that is served. -/

namespace Sys2Proof.Machine

/-! ## The disable sequence's advance (R181) -/

/-- At most the sequence and Intake change, and these only in D1 or D2. -/
theorem State.disableProgress_cases (s : State) :
    s.disableProgress = s ∨
    ((s.mgmt.sequence = some .d1 ∨ s.mgmt.sequence = some .d2) ∧ ∃ i q, s.disableProgress =
      { s with events := { s.events with intake := i }, mgmt := { s.mgmt with sequence := q } }) := by
  unfold State.disableProgress
  split
  · rename_i h
    refine .inr ⟨.inl h.1, ?_⟩
    unfold State.progressD2
    split
    · exact ⟨.closed, some .d3, rfl⟩
    · exact ⟨s.events.intake, some .d2, rfl⟩
  · unfold State.progressD2
    split
    · rename_i h
      exact .inr ⟨.inr h.1, .closed, some .d3, rfl⟩
    · exact .inl rfl

/-- The parts that the advance leaves alone. -/
structure DisableFrame (s t : State) : Prop where
  pass : t.pass = s.pass
  mport : t.mport = s.mport
  arb : t.arb = s.arb
  channels : t.channels = s.channels
  cells : t.cells = s.cells
  freeCounter : t.freeCounter = s.freeCounter
  out : t.out = s.out
  pending : t.pending = s.pending
  only : s.OnlyDisableAdvances t

theorem State.disableProgress_frame (s : State) : DisableFrame s s.disableProgress := by
  rcases s.disableProgress_cases with h | ⟨hq, i, q, h⟩
  · rw [h]
    exact ⟨rfl, rfl, rfl, rfl, rfl, rfl, rfl, rfl, rfl, rfl, fun _ _ => ⟨rfl, rfl⟩⟩
  · rw [h]
    exact ⟨rfl, rfl, rfl, rfl, rfl, rfl, rfl, rfl, rfl, rfl, fun h₁ h₂ => absurd hq (not_or.2 ⟨h₁, h₂⟩)⟩

/-- The advance after a change that left the Event Unit and the Management Unit alone. -/
theorem State.onlyDisableAdvances_of_eq {s t : State} (he : t.events = s.events) (hm : t.mgmt = s.mgmt) :
    s.OnlyDisableAdvances t.disableProgress := by
  have h := t.disableProgress_frame.only
  unfold State.OnlyDisableAdvances at h ⊢
  rw [he, hm] at h
  exact h

/-! ## The arbiter -/

theorem olderAge_eq_min (age : Nat) : olderAge age = min (age + 1) 16 := by
  unfold olderAge Config.agedAt
  split <;> omega

/-- A PASS grant takes no claim from the UPKEEP list, so every claim ages (R141), and ends the break run (R140). -/
theorem Arbiter.afterGrant_pass (a : Arbiter) (e : PassEntry) :
    a.afterGrant (.pass e) =
      { upkeep := a.upkeep.map fun c => { c with age := olderAge c.age }, breakRun := 0 } := by
  simp [Arbiter.afterGrant, Grant.isUpkeep, breakRunAfter]

/-- The state in which the group of a PASS grant is performed: the arbiter alone has changed. -/
def State.passGranted (s : State) : State :=
  { s with arb := { upkeep := s.arb.upkeep.map fun c => { c with age := olderAge c.age }, breakRun := 0 } }

theorem State.exec_grantDecision {s : State} {e : PassEntry} (h : s.Grants (.pass e)) :
    exec .grantDecision s = .next (s.passGranted.grantPass e).disableProgress := by
  obtain ⟨free, chosen⟩ := h
  have decided : s.decision = s.passGranted.grantPass e := by
    unfold State.decision
    rw [free, chosen]
    change State.perform { s with arb := s.arb.afterGrant (.pass e) } (.pass e) = _
    rw [Arbiter.afterGrant_pass]
    rfl
  exact congrArg (fun t : State => Host.Outcome.next t.disableProgress) decided

/-! ## Forwarded requests (R10) -/

/-- The state after the grant and the issue of a forwarded request, before any effect on a block. -/
def State.forwarded (s : State) (e : PassEntry) : State :=
  { s.passGranted with
    pass := { s.pass with entries := s.pass.entries.map fun x =>
      if x.id = e.id then { x with phase := .issued, cls := some (s.classify e.request) } else x }
    mport := { s.mport with inflight := s.mport.inflight ++
      [{ owner := .pass e.id, kind := e.request.kind, addr := e.request.addr, lanes := e.access.lanes, orphan := false }] }
    out := s.out ++ [e.access.message] }

theorem PassEntry.access_owner (e : PassEntry) : e.access.owner = .pass e.id := by
  unfold PassEntry.access
  split <;> rfl

theorem PassEntry.access_kind (e : PassEntry) : e.access.kind = e.request.kind := by
  unfold PassEntry.access
  split
  · rename_i h
    exact h.symm
  · rename_i h
    exact h.symm

theorem PassEntry.access_addr (e : PassEntry) : e.access.addr = e.request.addr := by
  unfold PassEntry.access
  split <;> rfl

theorem PassEntry.access_lanes_of_write {e : PassEntry} (h : e.request.kind = .write) :
    e.access.lanes = e.request.lanes := by
  unfold PassEntry.access
  rw [h]

/-- The initiator's access leaves unchanged (R2, R10). -/
theorem PassEntry.access_message (e : PassEntry) :
    e.access.message = match e.request.kind with
      | .read => .memRead e.request.addr
      | .write => .memWrite e.request.addr e.request.lanes e.request.data := by
  unfold PassEntry.access
  cases e.request.kind <;> rfl

/-- The grant of a request that is neither served nor CELLHIT forwards it, and a write acts on its block. -/
theorem State.exec_grant_forwarded {s : State} {e : PassEntry} (h : s.Grants (.pass e))
    (hs : s.served? e.request = none) (hc : s.classify e.request ≠ .cellhit) :
    exec .grantDecision s = .next (if e.request.kind = .write
      then (s.forwarded e).snoopWrite (s.classify e.request) e.request else s.forwarded e).disableProgress := by
  have started : ((s.passGranted.modEntry e.id fun x =>
      { x with phase := .issued, cls := some (s.classify e.request) }).startGroup (.pass e.id) [e.access] none) =
        s.forwarded e := by
    simp only [State.startGroup, State.issue, e.access_owner, e.access_kind, e.access_addr]
    unfold State.forwarded
    rw [← h.1]
    rfl
  have performed : s.passGranted.grantPass e = s.passGranted.forward e (s.classify e.request) := by
    unfold State.grantPass
    rw [show s.passGranted.served? e.request = none from hs]
    exact if_neg hc
  rw [State.exec_grantDecision h, performed]
  unfold State.forward
  rw [started]

/-- Settles O15: a read snoops nothing, and no block owns a PLAIN or RINGBODY word. -/
theorem forwardedGrantIssuesTheAccessUnchanged : Obligations.ForwardedGrantIssuesTheAccessUnchanged := by
  intro e s h hs hc kind
  have untouched : (if e.request.kind = .write then (s.forwarded e).snoopWrite (s.classify e.request) e.request
      else s.forwarded e) = s.forwarded e := by
    rcases kind with kind | kind | kind
    · rw [kind]
      rfl
    · rw [kind]
      exact ite_self _
    · rw [kind]
      exact ite_self _
  have frame := (s.forwarded e).disableProgress_frame
  refine ⟨_, by rw [State.exec_grant_forwarded h hs hc, untouched], ?_, ⟨e.access.lanes, frame.mport,
    PassEntry.access_lanes_of_write⟩, frame.pass, by rw [frame.arb]; rfl, ?_, frame.channels, frame.cells,
    State.onlyDisableAdvances_of_eq rfl rfl, frame.freeCounter, frame.pending⟩
  · rw [frame.out]
    exact congrArg (fun m => s.out ++ [m]) e.access_message
  · rw [frame.arb]
    simp only [← olderAge_eq_min]
    rfl

/-! ## Passing writes of control words (R13) -/

theorem State.served_of_write {s : State} {r : Request} (h : r.kind = .write) : s.served? r = none := if_pos h

theorem wordClass_ne_cellhit (w : Nat) : wordClass w ≠ .cellhit := by
  unfold wordClass
  split
  · nofun
  · split
    · nofun
    · split <;> nofun

/-- The grant of a write inside the window: forwarded, and the block that owns the word acts at once. -/
theorem State.exec_grant_write {s : State} {e : PassEntry} {w : Nat} (h : s.Grants (.pass e))
    (hk : e.request.kind = .write) (hw : s.windowWord e.request.addr = some w) (on : s.mgmt.windowState ≠ .disabled) :
    exec .grantDecision s = .next ((s.forwarded e).snoopWrite (wordClass w) e.request).disableProgress := by
  have hc := State.classify_of_windowWord on hw
  rw [State.exec_grant_forwarded h (State.served_of_write hk) (by rw [hc]; exact wordClass_ne_cellhit w), if_pos hk, hc]

/-- What a write of a control word does, by its place in the window (R13, R21). -/
theorem State.snoopWrite_of_windowWord {s : State} {r : Request} {w : Nat} (h : s.windowWord r.addr = some w) :
    (w < 64 → s.snoopWrite (wordClass w) r =
      s.recordWrite (Fin.ofNat 8 (w / 8)) (RecWord.ofIndex w) r.lanes r.data) ∧
    (64 ≤ w → w < 144 → s.snoopWrite (wordClass w) r = s.cellrecWrite w r.lanes r.data) ∧
    (144 ≤ w → w < 148 → s.snoopWrite (wordClass w) r = s.ringctlWrite w r.lanes r.data) := by
  unfold State.snoopWrite wordClass
  rw [h]
  refine ⟨fun h₁ => ?_, fun h₁ h₂ => ?_, fun h₁ h₂ => ?_⟩
  · rw [if_pos h₁]
    rfl
  · rw [if_neg (by omega), if_pos h₂]
  · rw [if_neg (by omega), if_neg (by omega), if_pos h₂]

/-- A write of a word of a cell record acts by the word's place in the record (R120, R126); one of a status word does
nothing (R31). -/
theorem State.cellrecWrite_cases (s : State) (w : Nat) (l : Lanes) (d : Word) :
    (w < 128 → w % 4 = 0 → s.cellrecWrite w l d = s.cellAddrWrite (Fin.ofNat 16 ((w - 64) / 4)) l d) ∧
    (w < 128 → w % 4 = 1 → s.cellrecWrite w l d = s.cellFieldWrite (Fin.ofNat 16 ((w - 64) / 4)) .setup l d) ∧
    (w < 128 → w % 4 = 2 → s.cellrecWrite w l d = s.cellFieldWrite (Fin.ofNat 16 ((w - 64) / 4)) .low l d) ∧
    (w < 128 → w % 4 = 3 → s.cellrecWrite w l d = s.cellFieldWrite (Fin.ofNat 16 ((w - 64) / 4)) .high l d) ∧
    (128 ≤ w → s.cellrecWrite w l d = s) := by
  unfold State.cellrecWrite
  refine ⟨fun h m => ?_, fun h m => ?_, fun h m => ?_, fun h m => ?_, fun h => if_neg (Nat.not_lt.2 h)⟩ <;>
    (rw [if_pos h, m]; rfl)

theorem State.ringctlWrite_cases (s : State) (w : Nat) (l : Lanes) (d : Word) :
    (w = 145 → s.ringctlWrite w l d = s.consumerWrite l d) ∧
    (w = 146 → s.ringctlWrite w l d = s.attentionWrite l d) ∧
    (w ≠ 145 → w ≠ 146 → s.ringctlWrite w l d = s) := by
  unfold State.ringctlWrite
  exact ⟨fun h => if_pos h, fun h => by rw [if_neg (by omega), if_pos h], fun h k => by rw [if_neg h, if_neg k]⟩

/-- Settles O16: the block's operation runs on the state that the grant and the issue leave. -/
theorem snoopedWriteActsAtItsGrant : Obligations.SnoopedWriteActsAtItsGrant := by
  intro e w s h hk hw on hlt issued l d
  have issue : s.forwarded e = issued := by
    unfold State.forwarded
    rw [PassEntry.access_lanes_of_write hk, e.access_message, hk]
    rfl
  have acts : ∀ {t}, issued.snoopWrite (wordClass w) e.request = t →
      exec .grantDecision s = .next t.disableProgress := fun ht => by
    rw [State.exec_grant_write h hk hw on, issue, ht]
  obtain ⟨record, cellrec, ringctl⟩ := State.snoopWrite_of_windowWord (s := issued) (r := e.request) (w := w) hw
  obtain ⟨addr, setup, low, high, status⟩ := issued.cellrecWrite_cases w l d
  obtain ⟨consumer, attention, other⟩ := issued.ringctlWrite_cases w l d
  refine ⟨fun h₁ => acts (record h₁), fun h₁ h₂ m => acts ?_, fun h₁ h₂ m => acts ?_, fun h₁ h₂ m => acts ?_,
    fun h₁ h₂ m => acts ?_, fun m => acts ?_, fun m => acts ?_, fun m => acts ?_⟩
  · exact (cellrec h₁ (by omega)).trans (addr h₂ m)
  · exact (cellrec h₁ (by omega)).trans (setup h₂ m)
  · exact (cellrec h₁ (by omega)).trans (low h₂ m)
  · exact (cellrec h₁ (by omega)).trans (high h₂ m)
  · by_cases h₁ : w < 144
    · exact (cellrec (by omega) h₁).trans (status (by omega))
    · exact (ringctl (by omega) hlt).trans (other (by omega) (by omega))
  · exact (ringctl (by omega) hlt).trans (consumer m)
  · exact (ringctl (by omega) hlt).trans (attention m)

/-! ## Served reads (R11, R41, R156) -/

theorem recordPlace_index (n : ChanId) (i : RecWord) : recordPlace (8 * n.val + i.index) = (n, i) := by
  have chan : ∀ n : ChanId, ∀ j < 8, Fin.ofNat 8 ((8 * n.val + j) / 8) = n := by decide
  have place : ∀ i : RecWord, i.index < 8 ∧ RecWord.ofIndex i.index = i := by
    intro i
    cases i <;> exact ⟨by decide, rfl⟩
  unfold recordPlace
  rw [chan n _ (place i).1]
  unfold RecWord.ofIndex
  rw [Nat.mul_add_mod, ← RecWord.ofIndex, (place i).2]

/-- The owning block's copy of a window word that has one. -/
def State.CopyHolds (s : State) (w : Nat) (x : Word) : Prop :=
  (∃ (n : ChanId) (i : RecWord) (v : ValidLine),
    w = 8 * n.val + i.index ∧ (s.chan n).line = .valid v ∧ x = v.words.get i) ∨
  (w = 144 ∧ x = s.events.producer.setWidth 32) ∨ (w = 145 ∧ x = s.events.consumer.setWidth 32) ∨
  (w = 147 ∧ x = ringStateBits s.events.nextSequence s.mgmt.ringSize s.events.path)

theorem RecWord.index_lt (i : RecWord) : i.index < 8 := by cases i <;> decide

theorem State.servedRecord_of_valid {s : State} {n : ChanId} {i : RecWord} {v : ValidLine}
    (line : (s.chan n).line = .valid v) : s.servedRecord (8 * n.val + i.index) = some (v.words.get i) := by
  unfold State.servedRecord
  rw [recordPlace_index]
  simp only [Channel.words?, line, Option.map_some]

/-- A read of a word that its block has a copy of is served with the copy. -/
theorem State.served_of_copy {s : State} {r : Request} {w : Nat} {x : Word} (hk : r.kind = .read)
    (on : s.mgmt.windowState ≠ .disabled) (hw : s.windowWord r.addr = some w) (copy : s.CopyHolds w x) :
    s.served? r = some x := by
  have notWrite : ¬ r.kind = .write := by rw [hk]; nofun
  unfold State.served?
  rw [if_neg notWrite, State.classify_of_windowWord on hw, hw]
  rcases copy with ⟨n, i, v, rfl, line, rfl⟩ | ⟨rfl, rfl⟩ | ⟨rfl, rfl⟩ | ⟨rfl, rfl⟩
  · have low : 8 * n.val + i.index < 64 := by
      have := n.isLt
      have := i.index_lt
      omega
    have cls : wordClass (8 * n.val + i.index) = .record := if_pos low
    rw [cls]
    exact State.servedRecord_of_valid line
  · rfl
  · rfl
  · rfl

theorem State.exec_grant_served {s : State} {e : PassEntry} {x : Word} (h : s.Grants (.pass e))
    (hs : s.served? e.request = some x) :
    exec .grantDecision s = .next (s.passGranted.serve e (s.classify e.request) x).disableProgress := by
  have performed : s.passGranted.grantPass e = s.passGranted.serve e (s.classify e.request) x := by
    unfold State.grantPass
    rw [show s.passGranted.served? e.request = some x from hs]
    rfl
  rw [State.exec_grantDecision h, performed]

/-- The answer of a served read at the front of the queue. -/
theorem State.serve_front {s : State} {e p : PassEntry} {ps : List PassEntry} (cls : PassClass) (x : Word)
    (entries : s.pass.entries = p :: ps) (ids : ∀ y ∈ ps, y.id ≠ p.id) (idle : s.pass.offered = []) (he : e.id = p.id) :
    s.serve e cls x =
      { s with
        pass := { s.pass with entries := dropAnswered ps }
        out := s.out ++ .response (.okayRead x) :: (frontResponses ps).map PortMessage.response } := by
  have classed : (s.modEntry e.id fun y => { y with cls := some cls }).pass.entries =
      { p with cls := some cls } :: ps := by
    simp only [State.modEntry_pass, entries, he, List.map_cons, if_pos, PassEntry.map_of_other_ids _ ids]
  unfold State.serve
  rw [he] at classed ⊢
  rw [State.answerEntry_front (p := { p with cls := some cls }) (.okayRead x) classed ids]
  simp only [State.modEntry_pass, idle]
  rfl

/-- The answer of a served read behind an entry that has none yet. -/
theorem State.serve_behind {s : State} {e p : PassEntry} {ps : List PassEntry} (cls : PassClass) (x : Word)
    (entries : s.pass.entries = p :: ps) (idle : s.pass.offered = []) (ne : e.id ≠ p.id) (unanswered : p.response? = none) :
    s.serve e cls x =
      { s with pass := { s.pass with entries := p :: ps.map fun y =>
          if y.id = e.id then { y with cls := some cls, phase := .answered (.okayRead x) } else y } } := by
  have classed : (s.modEntry e.id fun y => { y with cls := some cls }).pass.entries =
      p :: ps.map fun y => if y.id = e.id then { y with cls := some cls } else y := by
    simp only [State.modEntry_pass, entries, List.map_cons, if_neg (Ne.symm ne)]
  unfold State.serve
  rw [State.answerEntry_behind _ classed (Ne.symm ne) unanswered idle, List.map_map]
  refine congrArg (fun l => { s with pass := { s.pass with entries := p :: l } }) (List.map_congr_left fun y _ => ?_)
  by_cases h : y.id = e.id
  · simp [h]
  · simp [h]

/-- Settles O17: the read is served with the block's copy, and its answer leaves from the front or waits behind it. -/
theorem servedReadIsAnsweredFromTheCopy : Obligations.ServedReadIsAnsweredFromTheCopy := by
  intro e p ps w x s h hk on hw copy entries ids idle
  refine ⟨_, State.exec_grant_served h (State.served_of_copy hk on hw copy), ?_⟩
  have frame := (s.passGranted.serve e (s.classify e.request) x).disableProgress_frame
  refine ⟨fun front => ?_, fun behind unanswered => ?_, frame.mport, by rw [frame.arb]; rfl, frame.channels,
    frame.cells, State.onlyDisableAdvances_of_eq rfl rfl, frame.freeCounter, frame.pending⟩
  · rw [frame.out, frame.pass, State.serve_front (s := s.passGranted) _ x entries ids idle front]
    exact ⟨rfl, rfl⟩
  · rw [frame.out, frame.pass, State.serve_behind (s := s.passGranted) _ x entries idle behind unanswered]
    exact ⟨rfl, rfl⟩

end Sys2Proof.Machine
end

section
/-! PROOFS. The occurrences of a cell (R130, R131, R148) and the CELLHIT pair (R12, R127 to R129). -/

namespace Sys2Proof.Machine

/-! ## Entry into the queue -/

/-- Raising the post claim changes the post phase alone of the Event Unit (R151). -/
theorem State.raisePost_events_eq (s : State) :
    s.raisePost.events = { s.events with postPhase := s.raisePost.events.postPhase } := by
  unfold State.raisePost
  split <;> rfl

@[simp] theorem State.raisePost_cell (s : State) (k : CellId) : s.raisePost.cell k = s.cell k := by
  simp only [State.cell, State.raisePost_cells]

/-- A change of cell k alone. -/
theorem State.setCell_onlyCell (s : State) (k : CellId) (c : Cell) : s.OnlyCell k (s.setCell k c) :=
  ⟨rfl, rfl, rfl, fun _ hj => State.cell_setCell_other s c hj, ⟨[], s.events.postPhase, by simp⟩, rfl, rfl, rfl, rfl⟩

theorem State.OnlyCell.refl (s : State) (k : CellId) : s.OnlyCell k s :=
  ⟨rfl, rfl, rfl, fun _ _ => rfl, ⟨[], s.events.postPhase, by simp⟩, rfl, rfl, rfl, rfl⟩

theorem State.OnlyCell.trans {s t u : State} {k : CellId} (h : s.OnlyCell k t) (g : t.OnlyCell k u) : s.OnlyCell k u := by
  obtain ⟨pass, run, chans, others, ⟨more, phase, events⟩, mgmt, free, pending, out⟩ := h
  obtain ⟨pass', run', chans', others', ⟨more', phase', events'⟩, mgmt', free', pending', out'⟩ := g
  exact ⟨pass'.trans pass, run'.trans run, chans'.trans chans, fun j hj => (others' j hj).trans (others j hj),
    ⟨more ++ more', phase', by rw [events', events, List.append_assoc]⟩, by rw [mgmt', mgmt], free'.trans free,
    pending'.trans pending, out'.trans out⟩

theorem State.enterOccurrence_events (s : State) (k : CellId) (o : Occurrence) :
    (s.enterOccurrence k o).events =
      { s.events with
        queue := s.events.queue ++ [cellEvent k (s.cell k) o], postPhase := (s.enterOccurrence k o).events.postPhase } :=
  State.raisePost_events_eq _

theorem State.enterOccurrence_cell_self (s : State) (k : CellId) (o : Occurrence) :
    (s.enterOccurrence k o).cell k = { s.cell k with queuedMark := true } := by
  unfold State.enterOccurrence State.pushEvent
  rw [State.raisePost_cell, State.cell_modEvents, State.cell_modCell_self]

theorem State.enterOccurrence_onlyCell (s : State) (k : CellId) (o : Occurrence) :
    s.OnlyCell k (s.enterOccurrence k o) := by
  refine ⟨State.raisePost_pass _, State.raisePost_breakRun _, State.raisePost_channels _, fun j hj => ?_,
    ⟨_, _, s.enterOccurrence_events k o⟩, ?_, State.raisePost_freeCounter _, State.raisePost_pending _,
    State.raisePost_out _⟩
  · unfold State.enterOccurrence State.pushEvent
    rw [State.raisePost_cell, State.cell_modEvents, State.cell_modCell_other _ _ hj]
  · rw [show (s.enterOccurrence k o).mgmt = s.mgmt from State.raisePost_mgmt _]

/-! ## The occurrence by its cases (R131) -/

/-- An occurrence of cell k may enter the queue (R130, R131, R148). -/
def State.OccurrenceEnters (s : State) (k : CellId) : Prop :=
  (s.cell k).queuedMark = false ∧ s.events.count < 8 ∧ ¬ ∃ p, s.events.inPost = some p ∧ p.event.cell? = some k

theorem State.cellInPost_iff (s : State) (k : CellId) :
    s.cellInPost k = true ↔ ∃ p, s.events.inPost = some p ∧ p.event.cell? = some k := by
  unfold State.cellInPost
  cases h : s.events.inPost <;> simp

theorem State.occurrenceEnters_iff (s : State) (k : CellId) :
    (!(s.cell k).queuedMark && !s.cellInPost k && s.queueRoom) = true ↔ s.OccurrenceEnters k := by
  have room : s.queueRoom = true ↔ s.events.count < 8 := decide_eq_true_iff
  unfold State.OccurrenceEnters
  rw [← State.cellInPost_iff, ← room, Bool.and_eq_true, Bool.and_eq_true, Bool.not_eq_true', Bool.not_eq_true',
    Bool.not_eq_true, and_assoc]
  exact and_congr_right fun _ => and_comm

theorem State.cellOccurs_of_closed {s : State} (h : s.events.intake = .closed) (k : CellId) (o : OccKind) (d : Word) :
    s.cellOccurs k o d = s := if_pos (.inr h)

section
variable {s : State} {k : CellId} (cells : ¬ s.NoCells) (opened : s.events.intake = .opened)
include cells opened

theorem State.discards_nothing : ¬ (s.NoCells ∨ s.events.intake = .closed) := by
  rw [opened]
  rintro (h | h)
  · exact cells h
  · cases h

theorem State.cellOccurs_of_held {o : Occurrence} (held : (s.cell k).held = some o) (kind : OccKind) (d : Word) :
    s.cellOccurs k kind d = s.modCell k fun c => { c with held := some o.mergeOne } := by
  unfold State.cellOccurs
  rw [if_neg (State.discards_nothing cells opened), held]

theorem State.cellOccurs_of_enters (held : (s.cell k).held = none) (h : s.OccurrenceEnters k) (kind : OccKind) (d : Word) :
    s.cellOccurs k kind d = s.enterOccurrence k { kind := kind, detail := d, merge := 0#8 } := by
  unfold State.cellOccurs
  rw [if_neg (State.discards_nothing cells opened), held]
  exact if_pos ((s.occurrenceEnters_iff k).2 h)

theorem State.cellOccurs_of_waits (held : (s.cell k).held = none) (h : ¬ s.OccurrenceEnters k) (kind : OccKind)
    (d : Word) : s.cellOccurs k kind d =
      s.modCell k fun c => { c with held := some { kind := kind, detail := d, merge := 0#8 } } := by
  unfold State.cellOccurs
  rw [if_neg (State.discards_nothing cells opened), held]
  exact if_neg fun enters => h ((s.occurrenceEnters_iff k).1 enters)

end

/-- The event of an occurrence that nothing has merged into (R130). -/
theorem cellEvent_of_merge_zero (k : CellId) (c : Cell) (kind : OccKind) (d : Word) :
    cellEvent k c { kind := kind, detail := d, merge := 0#8 } =
      { kind := kind.event, source := BitVec.ofNat 4 k.val, word1 := c.address.setWidth 32, detailA := d,
        detailB := 0#32 } := by
  cases kind <;> rfl

/-- Settles O24: the held occurrence decides first, then the room for its event. -/
theorem cellOccurrenceEntersWaitsOrMerges : Obligations.CellOccurrenceEntersWaitsOrMerges := by
  intro k kind detail s
  refine ⟨fun gone => State.cellOccurs_of_noCells gone k kind detail, fun on notE1 => ?_⟩
  have cells : ¬ s.NoCells := not_or.2 ⟨on, notE1⟩
  refine ⟨fun closed => State.cellOccurs_of_closed closed k kind detail,
    fun o opened held => State.cellOccurs_of_held cells opened held kind detail, fun opened held enters => ?_,
    fun opened held waits => State.cellOccurs_of_waits cells opened held waits kind detail⟩
  rw [State.cellOccurs_of_enters cells opened held enters kind detail]
  refine ⟨?_, s.enterOccurrence_cell_self k _, s.enterOccurrence_onlyCell k _, State.raisePost_mgmt _,
    State.raisePost_mport _⟩
  rw [State.enterOccurrence_events, cellEvent_of_merge_zero]

/-! ## What an occurrence and a fetch leave alone -/

/-- Cell k's marks and held occurrence may differ, and the tail of the queue with the post phase and the UPKEEP list. -/
structure CellMarked (k : CellId) (s t : State) : Prop where
  only : s.OnlyCell k t
  mgmt : t.mgmt = s.mgmt
  mport : t.mport = s.mport
  cstate : (t.cell k).cstate = (s.cell k).cstate

theorem CellMarked.refl (k : CellId) (s : State) : CellMarked k s s := ⟨.refl s k, rfl, rfl, rfl⟩

theorem CellMarked.trans {k : CellId} {s t u : State} (h : CellMarked k s t) (g : CellMarked k t u) : CellMarked k s u :=
  ⟨h.only.trans g.only, g.mgmt.trans h.mgmt, g.mport.trans h.mport, g.cstate.trans h.cstate⟩

theorem CellMarked.of_modCell {k : CellId} {s : State} {f : Cell → Cell}
    (h : (f (s.cell k)).cstate = (s.cell k).cstate) : CellMarked k s (s.modCell k f) :=
  ⟨s.setCell_onlyCell k _, rfl, rfl, by rw [State.cell_modCell_self, h]⟩

/-- All that an occurrence can do to the part. -/
theorem State.cellOccurs_cases (s : State) (k : CellId) (kind : OccKind) (d : Word) :
    s.cellOccurs k kind d = s ∨ (∃ o, s.cellOccurs k kind d = s.modCell k fun c => { c with held := some o }) ∨
    ∃ o, s.cellOccurs k kind d = s.enterOccurrence k o := by
  unfold State.cellOccurs
  split
  · exact .inl rfl
  · split
    · exact .inr (.inl ⟨_, rfl⟩)
    · dsimp only
      split
      · exact .inr (.inr ⟨_, rfl⟩)
      · exact .inr (.inl ⟨_, rfl⟩)

theorem State.cellOccurs_marked (s : State) (k : CellId) (kind : OccKind) (d : Word) :
    CellMarked k s (s.cellOccurs k kind d) := by
  rcases s.cellOccurs_cases k kind d with h | ⟨o, h⟩ | ⟨o, h⟩
  · rw [h]
    exact .refl k s
  · rw [h]
    exact .of_modCell rfl
  · rw [h]
    exact ⟨s.enterOccurrence_onlyCell k o, State.raisePost_mgmt _, State.raisePost_mport _, by
      rw [State.enterOccurrence_cell_self]⟩

/-- An occurrence does not touch the at-limit mark. -/
theorem State.cellOccurs_atLimit (s : State) (k : CellId) (kind : OccKind) (d : Word) :
    ((s.cellOccurs k kind d).cell k).atLimit = (s.cell k).atLimit := by
  rcases s.cellOccurs_cases k kind d with h | ⟨o, h⟩ | ⟨o, h⟩
  · rw [h]
  · rw [h, State.cell_modCell_self]
  · rw [h, State.enterOccurrence_cell_self]

theorem State.markAtLimit_marked (s : State) (k : CellId) (b : Bool) : CellMarked k s (s.markAtLimit k b) := by
  unfold State.markAtLimit
  split
  · exact .refl k s
  · exact .of_modCell rfl

theorem State.markAtLimit_atLimit {s : State} (cells : ¬ s.NoCells) (k : CellId) (b : Bool) :
    ((s.markAtLimit k b).cell k).atLimit = b := by
  unfold State.markAtLimit
  rw [if_neg cells, State.cell_modCell_self]

/-- A fetch sets the mark by its row of the table, and an occurrence may follow (R128). -/
theorem State.fetched_cases (s : State) (k : CellId) (f : CellFields) (v : Word) :
    s.fetched k f v = s.markAtLimit k (decide ((stepValue f v.toNat).2 = some .limit)) ∨
    ∃ kind d, s.fetched k f v =
      (s.markAtLimit k (decide ((stepValue f v.toNat).2 = some .limit))).cellOccurs k kind d := by
  unfold State.fetched
  split
  · rename_i row
    rw [row, decide_eq_true rfl]
    dsimp only
    split
    · exact .inr ⟨_, _, rfl⟩
    · exact .inl rfl
  · rename_i row
    rw [row, decide_eq_false nofun]
    dsimp only
    split
    · exact .inr ⟨_, _, rfl⟩
    · exact .inl rfl
  · rename_i notLimit _
    rw [decide_eq_false notLimit]
    exact .inl rfl

theorem State.fetched_marked (s : State) (k : CellId) (f : CellFields) (v : Word) : CellMarked k s (s.fetched k f v) := by
  have mark := s.markAtLimit_marked k (decide ((stepValue f v.toNat).2 = some .limit))
  rcases s.fetched_cases k f v with h | ⟨kind, d, h⟩
  · rw [h]
    exact mark
  · rw [h]
    exact mark.trans (State.cellOccurs_marked _ k kind d)

theorem State.fetched_atLimit {s : State} (cells : ¬ s.NoCells) (k : CellId) (f : CellFields) (v : Word) :
    ((s.fetched k f v).cell k).atLimit = decide ((stepValue f v.toNat).2 = some .limit) := by
  rcases s.fetched_cases k f v with h | ⟨kind, d, h⟩
  · rw [h, State.markAtLimit_atLimit cells]
  · rw [h, State.cellOccurs_atLimit, State.markAtLimit_atLimit cells]

/-! ## The grant of a CELLHIT pair -/

theorem Cell.isLive_of_live {c : Cell} {f : CellFields} (h : c.cstate = .live f) : c.isLive = true := by
  unfold Cell.isLive
  rw [h]

theorem Cell.isRegistered_of_isLive {c : Cell} (h : c.isLive = true) : c.isRegistered = true := by
  unfold Cell.isLive at h
  split at h
  · rename_i live
    unfold Cell.isRegistered
    rw [live]
  · cases h

/-- Where addresses are distinct, the Classifier finds the LIVE cell of an address (R6). -/
theorem State.liveCellAt_of_live {s : State} {k : CellId} (distinct : s.CellsDistinct) (live : (s.cell k).isLive = true) :
    s.liveCellAt (s.cell k).address = some k := by
  obtain ⟨j, hj⟩ := Option.isSome_iff_exists.1 ((s.liveCellAt_isSome_iff _).2 ⟨k, live, rfl⟩)
  have found := List.find?_some hj
  rw [Bool.and_eq_true, beq_iff_eq] at found
  by_cases same : j = k
  · rw [hj, same]
  · exact absurd found.2
      (distinct j k same (Cell.isRegistered_of_isLive found.1) (Cell.isRegistered_of_isLive live))

theorem State.liveCell_of_live {s : State} {k : CellId} {f : CellFields} (distinct : s.CellsDistinct)
    (live : (s.cell k).cstate = .live f) : s.liveCell? (s.cell k).address = some (k, f) := by
  unfold State.liveCell?
  rw [State.liveCellAt_of_live distinct (Cell.isLive_of_live live)]
  simp only [live]

theorem State.served_of_cellhit {s : State} {r : Request} (h : s.classify r = .cellhit) : s.served? r = none := by
  unfold State.served?
  split
  · rfl
  · rw [h]

theorem State.exec_grant_cellhit {s : State} {e : PassEntry} {k : CellId} {f : CellFields} (h : s.Grants (.pass e))
    (hc : s.classify e.request = .cellhit) (live : s.liveCell? e.request.addr = some (k, f)) :
    exec .grantDecision s = .next (s.passGranted.grantCellhit e k f).disableProgress := by
  have performed : s.passGranted.grantPass e = s.passGranted.grantCellhit e k f := by
    unfold State.grantPass
    rw [show s.passGranted.served? e.request = none from State.served_of_cellhit hc,
      show s.passGranted.classify e.request = .cellhit from hc,
      show s.passGranted.liveCell? e.request.addr = some (k, f) from live]
    rfl
  rw [State.exec_grantDecision h, performed]

/-! ## The response of a CELLHIT pair -/

theorem State.exec_cellhitReadResponse {s : State} {rest : List InFlight} {id : Nat} {f : Fetch} {g : Group}
    (r : MemResponse) (h : s.Awaits (.passCell id f.cell) rest) (lock : s.mport.lock = some g) (fetch : g.fetch = some f) :
    exec (.cellhitReadResponse r) s =
      .next (State.cellhitResponse { s with mport := { s.mport with inflight := rest } } id f r) := by
  obtain ⟨e, inflight, owner, orphan⟩ := h
  have waits : State.fetch? { s with mport := { s.mport with inflight := rest } } = some f := by
    unfold State.fetch?
    rw [lock]
    exact fetch
  refine congrArg Host.Outcome.next ((State.respond_of_row _ inflight (InFlight.row_of_passCell orphan owner)).trans ?_)
  rw [owner, waits]

/-- What an OKAY fetch releases stands under the lock, the M-port else as it was. -/
theorem State.release_fetched (s : State) (k : CellId) (f : CellFields) (v : Word) (src : GroupSource)
    (accs : List Access) : (s.fetched k f v).release src accs =
      { s.fetched k f v with
        mport := { s.mport with lock := some { source := src, todo := accs, fetch := none } } } := by
  unfold State.release
  rw [State.fetched_mport]

theorem State.cellhitResponse_okay {s : State} (id : Nat) (f : Fetch) (v : Word) :
    s.cellhitResponse id f (.okay v) =
      State.answerEntry
        { s.fetched f.cell f.fields v with
          mport := { s.mport with lock := some { source := .pass id, fetch := none, todo :=
            [{ owner := .cellWriteBack f.cell, kind := .write, addr := f.addr, lanes := 0xF#4,
               data := BitVec.ofInt 32 (stepValue f.fields v.toNat).1 }] } } } id (.okayRead v) :=
  congrArg (fun t : State => t.answerEntry id (.okayRead v)) (s.release_fetched _ _ _ _ _)

theorem State.cellhitResponse_error {s : State} {id : Nat} {f : Fetch} (held : s.heldBy (.pass id) = true) :
    s.cellhitResponse id f .error =
      (State.cellOccurs { s with mport := { s.mport with lock := none } } f.cell .fault
        ((s.cell f.cell).address.setWidth 32)).answerEntry id .error := by
  unfold State.cellhitResponse State.endGroup
  rw [if_pos held]
  rfl

/-- The two responses of a CELLHIT read, wherever its entry stands. -/
theorem State.exec_cellhit_anywhere {s : State} {id : Nat} {rest : List InFlight} {f : Fetch}
    (h : s.Awaits (.passCell id f.cell) rest)
    (lock : s.mport.lock = some { source := .pass id, todo := [], fetch := some f }) :
    (∀ v, exec (.cellhitReadResponse (.okay v)) s = .next
      (State.answerEntry
        { State.fetched { s with mport := { s.mport with inflight := rest } } f.cell f.fields v with
          mport :=
            { inflight := rest
              lock := some { source := .pass id, fetch := none, todo :=
                [{ owner := .cellWriteBack f.cell, kind := .write, addr := f.addr, lanes := 0xF#4,
                   data := BitVec.ofInt 32 (stepValue f.fields v.toNat).1 }] } } } id (.okayRead v))) ∧
    exec (.cellhitReadResponse .error) s = .next
      ((State.cellOccurs { s with mport := { inflight := rest, lock := none } } f.cell .fault
        ((s.cell f.cell).address.setWidth 32)).answerEntry id .error) := by
  refine ⟨fun v => ?_, ?_⟩
  · rw [State.exec_cellhitReadResponse _ h lock rfl, State.cellhitResponse_okay]
  · rw [State.exec_cellhitReadResponse _ h lock rfl, State.cellhitResponse_error]
    · rfl
    · unfold State.heldBy
      simp [lock]

theorem dropAnswered_of_unanswered {ps : List PassEntry} (h : ∀ x ∈ ps, x.response? = none) : dropAnswered ps = ps := by
  cases ps with
  | nil => rfl
  | cons x xs =>
    unfold dropAnswered
    rw [h x (List.mem_cons_self ..)]
    rfl

theorem frontResponses_of_unanswered {ps : List PassEntry} (h : ∀ x ∈ ps, x.response? = none) :
    frontResponses ps = [] := by
  cases ps with
  | nil => rfl
  | cons x xs =>
    unfold frontResponses
    rw [h x (List.mem_cons_self ..)]

/-- The answer of the front entry, with no answered entry behind it and none offered, after an operation that left the Pass
Queue and the messages alone. -/
theorem State.answerEntry_alone {s u : State} {p : PassEntry} {ps : List PassEntry} (r : PassResponse)
    (pass : u.pass = s.pass) (out : u.out = s.out) (entries : s.pass.entries = p :: ps) (idle : s.pass.offered = [])
    (behind : ∀ x ∈ ps, x.id ≠ p.id ∧ x.response? = none) :
    u.answerEntry p.id r = { u with pass := { s.pass with entries := ps }, out := s.out ++ [.response r] } := by
  have unanswered : ∀ x ∈ ps, x.response? = none := fun x hx => (behind x hx).2
  rw [← pass] at entries idle ⊢
  rw [← out, State.answerEntry_front r entries fun x hx => (behind x hx).1, dropAnswered_of_unanswered unanswered,
    frontResponses_of_unanswered unanswered, idle, PassQueue.acceptOffered_nil (q := { u.pass with entries := ps }) idle]
  rfl

/-- Only cell k, the queue's tail and the claims have changed, but for the M-port, the Pass Queue and the messages. -/
theorem CellMarked.onlyCell_of_mport {s t u : State} {k : CellId} {m : MPort} (h : CellMarked k { s with mport := m } u)
    (ht : t = { u with mport := t.mport, pass := t.pass, out := t.out }) :
    s.OnlyCell k { t with pass := s.pass, out := s.out } := by
  obtain ⟨-, run, chans, others, events, mgmt, free, pending, -⟩ := h.only
  rw [ht]
  exact ⟨rfl, run, chans, others, events, mgmt, free, pending, rfl⟩

/-- Settles O18: the grant's lock waits for the fetch, and the response answers the entry and releases or frees the lock. -/
theorem cellhitPairReadsAndWritesBack : Obligations.CellhitPairReadsAndWritesBack := by
  refine ⟨fun e k f s h hc live addr distinct => ?_, fun r rest p ps f s waits lock entries idle behind => ?_,
    fun id rest f s waits lock => State.exec_cellhit_anywhere waits lock⟩
  · have found := State.liveCell_of_live distinct live
    rw [addr] at found
    have frame := (s.passGranted.grantCellhit e k f).disableProgress_frame
    refine ⟨_, State.exec_grant_cellhit h hc found, ?_, ?_, ?_, frame.pass, by rw [frame.arb]; rfl, frame.channels,
      frame.cells, State.onlyDisableAdvances_of_eq rfl rfl, frame.freeCounter, frame.pending⟩
    · rw [frame.out, ← addr]
      rfl
    · rw [frame.mport, ← addr]
      rfl
    · rw [frame.mport, ← addr]
      rfl
  · intro s' freed
    obtain ⟨okay, error⟩ := State.exec_cellhit_anywhere waits lock
    cases r with
    | okay v =>
      have marked := s'.fetched_marked f.cell f.fields v
      obtain ⟨pass, -, -, -, -, -, -, -, out⟩ := marked.only
      refine ⟨_, (okay v).trans (congrArg _ (State.answerEntry_alone _ pass out entries idle behind)), rfl, rfl,
        marked.onlyCell_of_mport rfl, marked.mgmt, fun w hw => ?_, nofun⟩
      cases hw
      exact ⟨rfl, rfl, marked.cstate, fun cells => State.fetched_atLimit (s := s') cells f.cell f.fields v, rfl⟩
    | error =>
      have marked := freed.cellOccurs_marked f.cell .fault ((s.cell f.cell).address.setWidth 32)
      obtain ⟨pass, -, -, -, -, -, -, -, out⟩ := marked.only
      exact ⟨_, error.trans (congrArg _ (State.answerEntry_alone _ pass out entries idle behind)), rfl,
        congrArg MPort.inflight marked.mport, marked.onlyCell_of_mport rfl, marked.mgmt, nofun,
        fun _ => ⟨rfl, rfl, congrArg MPort.lock marked.mport, marked.cstate, State.cellOccurs_atLimit freed ..⟩⟩

end Sys2Proof.Machine
end

section
/-! PROOFS. SOFT_RESET at a boundary and power-on reset (R18, R19, R85, R107, R134, R147, R174, R183, R184). -/

namespace Sys2Proof.Machine

/-! ## The ports at SOFT_RESET (R107) -/

/-- An outstanding request is answered CANCELLED, and only the channel and the messages change. -/
theorem State.cancelPort_cases (s : State) (n : ChanId) :
    ((s.chan n).port = .idle ∧ s.cancelPort n = s) ∨
    ((s.chan n).port ≠ .idle ∧ s.cancelPort n = s.closePort n .cancelled) := by
  unfold State.cancelPort
  split
  · rename_i idle
    exact .inl ⟨idle, rfl⟩
  · rename_i busy
    exact .inr ⟨busy, rfl⟩

/-- The answers to the outstanding requests of some channels, in their order. -/
def State.cancelAnswers (s : State) (l : List ChanId) : List PortMessage :=
  (l.filter fun n => (s.chan n).port != .idle).map fun n => .answer n .cancelled

theorem State.cancelPort_out (s : State) (n : ChanId) : (s.cancelPort n).out = s.out ++ s.cancelAnswers [n] := by
  unfold State.cancelAnswers
  rcases s.cancelPort_cases n with ⟨idle, h⟩ | ⟨busy, h⟩
  · simp [h, idle]
  · simp [h, busy, State.closePort, State.answer]

theorem State.cancelAnswers_congr {s t : State} {l : List ChanId} (h : ∀ n ∈ l, t.chan n = s.chan n) :
    t.cancelAnswers l = s.cancelAnswers l := by
  unfold State.cancelAnswers
  rw [List.filter_congr fun n hn => by rw [h n hn]]

theorem State.cancelAnswers_cons (s : State) (n : ChanId) (l : List ChanId) :
    s.cancelAnswers (n :: l) = s.cancelAnswers [n] ++ s.cancelAnswers l := by
  unfold State.cancelAnswers
  rw [← List.map_append, ← List.filter_append, List.singleton_append]

/-- The ports answered one after the other: each channel once. -/
theorem State.cancelPorts_out (s : State) {l : List ChanId} (once : l.Nodup) :
    (l.foldl (fun s n => s.cancelPort n) s).out = s.out ++ s.cancelAnswers l := by
  induction l generalizing s with
  | nil => exact (List.append_nil _).symm
  | cons n l ih =>
    obtain ⟨fresh, once⟩ := List.nodup_cons.1 once
    have others : ∀ m ∈ l, (s.cancelPort n).chan m = s.chan m := fun m hm =>
      (s.cancelPort_step n).others m fun same => fresh (same ▸ hm)
    rw [List.foldl_cons, ih _ once, State.cancelPort_out, State.cancelAnswers_congr others, s.cancelAnswers_cons n l,
      List.append_assoc]

/-- What answering the ports leaves alone. -/
theorem State.cancelPorts_frame (s : State) (l : List ChanId) :
    (l.foldl (fun s n => s.cancelPort n) s).pass = s.pass ∧ (l.foldl (fun s n => s.cancelPort n) s).mport = s.mport ∧
    (l.foldl (fun s n => s.cancelPort n) s).mgmt = s.mgmt := by
  induction l generalizing s with
  | nil => exact ⟨rfl, rfl, rfl⟩
  | cons n l ih =>
    obtain ⟨pass, mport, mgmt⟩ := ih (s.cancelPort n)
    have step := s.cancelPort_step n
    exact ⟨pass.trans step.pass, mport.trans step.mport, mgmt.trans step.mgmt⟩

/-! ## SOFT_RESET taken (R183) -/

theorem chanIds_eq_finRange : chanIds = List.finRange 8 := by decide

theorem State.takeSoftReset_out (s : State) : s.takeSoftReset.out = s.out ++ s.cancelAnswers (List.finRange 8) := by
  have once : chanIds.Nodup := by decide
  unfold State.takeSoftReset
  rw [← chanIds_eq_finRange]
  generalize chanIds = l at once ⊢
  exact s.cancelPorts_out once

theorem State.takeSoftReset_pass (s : State) : s.takeSoftReset.pass = s.pass := by
  unfold State.takeSoftReset
  generalize chanIds = l
  exact (s.cancelPorts_frame l).1

/-- What no passing request owns is orphaned (R19). -/
theorem State.takeSoftReset_mport (s : State) : s.takeSoftReset.mport =
    { inflight := s.mport.inflight.map fun e => if e.owner.isPass then e else { e with orphan := true },
      lock := s.mport.lock } := by
  have orphaned : ∀ e : InFlight, (if !e.owner.isPass then { e with orphan := true } else e) =
      if e.owner.isPass then e else { e with orphan := true } := fun e => by
    cases e.owner.isPass <;> rfl
  unfold State.takeSoftReset
  dsimp only
  rw [State.orphan_mport, (s.cancelPorts_frame chanIds).2.1, funext orphaned]

theorem State.takeSoftReset_mgmt (s : State) : s.takeSoftReset.mgmt = s.mgmt.softReset := by
  unfold State.takeSoftReset
  dsimp only
  rw [State.orphan_mgmt, (s.cancelPorts_frame chanIds).2.2]

theorem State.exec_softResetTaken (s : State) :
    exec .softResetTaken s = .next (if s.mgmt.softWaiting && s.atBoundary then s.takeSoftReset else s) := rfl

/-- The row's guard: a SOFT_RESET waits and the lock is free. -/
theorem State.softResetActs_iff (s : State) :
    (s.mgmt.softWaiting && s.atBoundary) = true ↔ s.mgmt.softWaiting = true ∧ s.mport.lock = none := by
  unfold State.atBoundary
  rw [Bool.and_eq_true, Option.isNone_iff_eq_none]

/-! ## Power-on reset (R184) -/

/-- Offered requests join in order while there is room. -/
theorem PassQueue.acceptOffered_requests (q : PassQueue) (l : List Request) :
    (q.acceptOffered l).entries.map (·.request) =
      q.entries.map (·.request) ++ l.take (8 - q.entries.length) := by
  induction l generalizing q with
  | nil => simp [PassQueue.acceptOffered]
  | cons r l ih =>
    by_cases room : q.entries.length < 8
    · have left : 8 - q.entries.length = (8 - (q.accept r).entries.length) + 1 := by
        simp only [PassQueue.accept, List.length_append, List.length_singleton]
        omega
      rw [PassQueue.acceptOffered_of_room r l room, ih, left, List.take_succ_cons]
      simp [PassQueue.accept]
    · rw [PassQueue.acceptOffered_of_full _ (Nat.not_lt.1 room), Nat.sub_eq_zero_of_le (Nat.not_lt.1 room)]
      simp

/-- An accepted request waits. -/
theorem PassQueue.acceptOffered_waiting {q : PassQueue} (l : List Request) (h : ∀ e ∈ q.entries, e.phase = .waiting) :
    ∀ e ∈ (q.acceptOffered l).entries, e.phase = .waiting := by
  induction l generalizing q with
  | nil => exact h
  | cons r l ih =>
    by_cases room : q.entries.length < 8
    · rw [PassQueue.acceptOffered_of_room r l room]
      refine ih fun e he => ?_
      rcases List.mem_append.1 he with he | he
      · exact h e he
      · rw [List.mem_singleton.1 he]
    · rw [PassQueue.acceptOffered_of_full _ (Nat.not_lt.1 room)]
      exact h

/-- Settles O60: the ports are answered in channel order, and every block but those kept takes its reset values. -/
theorem resetsTakeTheResetValues : Obligations.ResetsTakeTheResetValues := by
  intro s
  refine ⟨fun waits free => ⟨s.takeSoftReset, ?_, s.takeSoftReset_pass, ?_, ?_, ?_, ?_, ?_, ?_, s.takeSoftReset_out⟩,
    fun h => ?_, ?_⟩
  · rw [State.exec_softResetTaken, if_pos (s.softResetActs_iff.2 ⟨waits, free⟩)]
  · rw [State.takeSoftReset_mport, free]
  · rfl
  · rfl
  · rfl
  · rfl
  · rw [State.takeSoftReset_mgmt]
    rfl
  · have idle : ¬ (s.mgmt.softWaiting && s.atBoundary) = true := fun acts => by
      obtain ⟨waits, free⟩ := s.softResetActs_iff.1 acts
      rcases h with h | h
      · rw [h] at waits
        cases waits
      · exact h free
    rw [State.exec_softResetTaken, if_neg idle]
  · exact ⟨s.powerOn, rfl, rfl, rfl, rfl, rfl, rfl, rfl, rfl, congrArg State.reset.pass.acceptOffered,
      PassQueue.acceptOffered_requests _ _, PassQueue.acceptOffered_waiting _ (List.forall_mem_nil _)⟩

end Sys2Proof.Machine
end

section
/-! PROOFS. The transition at the completion of a break group (R29, R63, R74, R75, R78, R80, R81, R83, R110, R116). -/

namespace Sys2Proof.Machine

/-! ## The parts of channel n after a change of its controller or its line -/

@[simp] theorem State.chan_modCtl_self (s : State) (n : ChanId) (f : Controller → Controller) :
    (s.modCtl n f).chan n = { s.chan n with ctl := f (s.chan n).ctl } := s.chan_modChan_self n _

theorem Channel.modLine_of_valid {c : Channel} {v : ValidLine} (h : c.line = .valid v) (f : ValidLine → ValidLine) :
    c.modLine f = { c with line := .valid (f v) } := by
  unfold Channel.modLine
  rw [h]

@[simp] theorem Channel.modLine_ctl (c : Channel) (f : ValidLine → ValidLine) : (c.modLine f).ctl = c.ctl := by
  unfold Channel.modLine
  split <;> rfl

@[simp] theorem Channel.modLine_port (c : Channel) (f : ValidLine → ValidLine) : (c.modLine f).port = c.port := by
  unfold Channel.modLine
  split <;> rfl

@[simp] theorem Channel.modLine_walker (c : Channel) (f : ValidLine → ValidLine) : (c.modLine f).walker = c.walker := by
  unfold Channel.modLine
  split <;> rfl

/-- A change of the line that leaves word w. -/
theorem Channel.modLine_word (c : Channel) {f : ValidLine → ValidLine} {w : RecWord}
    (h : ∀ v, (f v).words.get w = v.words.get w) : (c.modLine f).word w = c.word w := by
  unfold Channel.modLine Channel.word
  cases hc : c.line with
  | valid v => exact h v
  | invalid => simp only [hc]
  | filling p k => simp only [hc]

theorem Channel.cookie_eq_word (c : Channel) : c.cookie = c.word .cookie := by
  unfold Channel.cookie Channel.word
  cases c.line <;> rfl

theorem Channel.word_of_valid {c : Channel} {v : ValidLine} (h : c.line = .valid v) (w : RecWord) :
    c.word w = v.words.get w := by
  unfold Channel.word
  rw [h]

@[simp] theorem State.modStatus_ctl (s : State) (n : ChanId) (f : Controller → Controller) :
    ((s.modStatus n f).chan n).ctl = f (s.chan n).ctl := by
  simp only [State.modStatus, State.chan_modChan_self, Channel.modCtl, Channel.sync, Channel.modLine_ctl]

@[simp] theorem State.modStatus_port (s : State) (n : ChanId) (f : Controller → Controller) :
    ((s.modStatus n f).chan n).port = (s.chan n).port := by
  simp only [State.modStatus, State.chan_modChan_self, Channel.modCtl, Channel.sync, Channel.modLine_port]

@[simp] theorem State.modStatus_walker (s : State) (n : ChanId) (f : Controller → Controller) :
    ((s.modStatus n f).chan n).walker = (s.chan n).walker := by
  simp only [State.modStatus, State.chan_modChan_self, Channel.modCtl, Channel.sync, Channel.modLine_walker]

theorem State.modStatus_line {s : State} {n : ChanId} {v : ValidLine} (h : (s.chan n).line = .valid v)
    (f : Controller → Controller) :
    ((s.modStatus n f).chan n).line = .valid (v.put .status (f (s.chan n).ctl).statusWord) := by
  rw [State.modStatus, State.chan_modChan_self, Channel.modCtl, Channel.sync,
    Channel.modLine_of_valid (c := { s.chan n with ctl := f (s.chan n).ctl }) h]

@[simp] theorem State.modStatus_events (s : State) (n : ChanId) (f : Controller → Controller) :
    (s.modStatus n f).events = s.events := rfl

@[simp] theorem State.setState_ctl (s : State) (n : ChanId) (st : ChanState) :
    ((s.setState n st).chan n).ctl = { (s.chan n).ctl with state := st } := s.modStatus_ctl n _

/-- STATUS is dirty in the line that shows it (R45). -/
theorem ValidLine.put_dirty_any (v : ValidLine) (w : RecWord) (x : Word) : (v.put w x).dirty.any = true := by
  cases w <;> simp [ValidLine.put, Record.set, Record.any]

theorem Record.get_set_status {α : Type} (r : Record α) {w : RecWord} (x : α) (h : w ≠ .status) :
    (r.set .status x).get w = r.get w := by
  cases w with
  | status => exact absurd rfl h
  | _ => rfl

/-! ## What entering a state keeps of the record -/

/-- Channel n's START_COUNT and the words of its record but STATUS, which follows the controller, stand. -/
structure RecordKept (n : ChanId) (s t : State) : Prop where
  startCount : (t.chan n).ctl.startCount = (s.chan n).ctl.startCount
  words : ∀ w, w ≠ .status → (t.chan n).word w = (s.chan n).word w

theorem RecordKept.trans {n : ChanId} {s t u : State} (h : RecordKept n s t) (k : RecordKept n t u) :
    RecordKept n s u :=
  ⟨k.startCount.trans h.startCount, fun w hw => (k.words w hw).trans (h.words w hw)⟩

/-- A change of the part that leaves START_COUNT and the line of channel n. -/
theorem RecordKept.of_line {n : ChanId} {s t : State}
    (count : (t.chan n).ctl.startCount = (s.chan n).ctl.startCount) (line : (t.chan n).line = (s.chan n).line) :
    RecordKept n s t := ⟨count, fun _ _ => by simp only [Channel.word, line]⟩

theorem RecordKept.refl (n : ChanId) (s : State) : RecordKept n s s := .of_line rfl rfl

/-- A change of a VALID line's marks, or of what its writeback is doing. -/
theorem RecordKept.of_words {n : ChanId} {s t : State} {v v' : ValidLine} (ctl : (t.chan n).ctl = (s.chan n).ctl)
    (hs : (s.chan n).line = .valid v) (ht : (t.chan n).line = .valid v') (words : v'.words = v.words) :
    RecordKept n s t :=
  ⟨by rw [ctl], fun w _ => by rw [Channel.word_of_valid hs, Channel.word_of_valid ht, words]⟩

theorem RecordKept.segments {n : ChanId} {s t : State} (h : RecordKept n s t) :
    (t.chan n).segments16 = (s.chan n).segments16 := congrArg segmentsOf (h.words .segments (by decide))

theorem RecordKept.chain {n : ChanId} {s t : State} (h : RecordKept n s t) :
    (t.chan n).chain = (s.chan n).chain := congrArg addrOf (h.words .chain (by decide))

theorem RecordKept.cookie {n : ChanId} {s t : State} (h : RecordKept n s t) :
    (t.chan n).cookie = (s.chan n).cookie := by
  rw [Channel.cookie_eq_word, Channel.cookie_eq_word, h.words .cookie (by decide)]

theorem State.modStatus_kept (s : State) (n : ChanId) (f : Controller → Controller)
    (h : ∀ k, (f k).startCount = k.startCount := by intro _; rfl) : RecordKept n s (s.modStatus n f) where
  startCount := by rw [State.modStatus_ctl, h]
  words := fun w hw => by
    simp only [State.modStatus, State.chan_modChan_self, Channel.modCtl, Channel.sync]
    exact Channel.modLine_word _ fun v => Record.get_set_status _ _ hw

/-! ## The writeback trigger (R54, R55) -/

/-- What a trigger does by the phase of the line's writeback. -/
theorem State.triggerWriteback_cases {s : State} {n : ChanId} {v : ValidLine} (h : (s.chan n).line = .valid v)
    (w : WbServes) :
    (v.wbPhase = .none ∧ v.dirty.any = true ∧ s.triggerWriteback n w =
      (s.modChan n fun c => { c with line := .valid { v with wbPhase := .claimed, serves := w } }).raise (.writeback n)) ∨
    (v.wbPhase = .none ∧ v.dirty.any = false ∧ s.triggerWriteback n w = s) ∨
    (v.wbPhase = .claimed ∧ s.triggerWriteback n w =
      s.modChan n fun c => { c with line := .valid { v with serves := v.serves.join w } }) ∨
    ∃ o f, v.wbPhase = .granted o f ∧ s.triggerWriteback n w =
      s.modChan n fun c => { c with line := .valid { v with requested := some ((v.requested.getD .plain).join w) } } := by
  unfold State.triggerWriteback
  rw [h]
  cases phase : v.wbPhase with
  | none =>
    cases dirty : v.dirty.any with
    | true => exact .inl ⟨rfl, rfl, by simp only [phase, dirty, if_true]⟩
    | false => exact .inr (.inl ⟨rfl, rfl, by simp [phase, dirty]⟩)
  | claimed => exact .inr (.inr (.inl ⟨rfl, by simp only [phase]⟩))
  | granted o f => exact .inr (.inr (.inr ⟨o, f, rfl, by simp only [phase]⟩))

/-- No writeback is triggered of a line that is not VALID (R54). -/
theorem State.triggerWriteback_of_not_valid {s : State} {n : ChanId} (h : ∀ v, (s.chan n).line ≠ .valid v)
    (w : WbServes) : s.triggerWriteback n w = s := by
  unfold State.triggerWriteback
  split
  · rename_i v hv
    exact absurd hv (h v)
  · rfl

/-- A trigger changes the writeback phase of the line, and what its writeback serves, alone of channel n. -/
theorem State.triggerWriteback_chan {s : State} {n : ChanId} {v : ValidLine} (h : (s.chan n).line = .valid v)
    (w : WbServes) : ∃ v', (s.triggerWriteback n w).chan n = { s.chan n with line := .valid v' } ∧ v'.words = v.words := by
  obtain ⟨-, -, eq⟩ | ⟨-, -, eq⟩ | ⟨-, eq⟩ | ⟨-, -, -, eq⟩ := State.triggerWriteback_cases h w
  · exact ⟨{ v with wbPhase := .claimed, serves := w }, by rw [eq, State.chan_raise, State.chan_modChan_self], rfl⟩
  · exact ⟨v, by rw [eq, ← h], rfl⟩
  · exact ⟨{ v with serves := v.serves.join w }, by rw [eq, State.chan_modChan_self], rfl⟩
  · exact ⟨{ v with requested := some ((v.requested.getD .plain).join w) }, by rw [eq, State.chan_modChan_self], rfl⟩

@[simp] theorem State.triggerWriteback_ctl (s : State) (n : ChanId) (w : WbServes) :
    ((s.triggerWriteback n w).chan n).ctl = (s.chan n).ctl := by
  by_cases h : ∃ v, (s.chan n).line = .valid v
  · obtain ⟨v, hv⟩ := h
    obtain ⟨v', eq, -⟩ := State.triggerWriteback_chan hv w
    rw [eq]
  · rw [State.triggerWriteback_of_not_valid (not_exists.1 h)]

@[simp] theorem State.triggerWriteback_events (s : State) (n : ChanId) (w : WbServes) :
    (s.triggerWriteback n w).events = s.events := by
  by_cases h : ∃ v, (s.chan n).line = .valid v
  · obtain ⟨v, hv⟩ := h
    obtain ⟨-, -, eq⟩ | ⟨-, -, eq⟩ | ⟨-, eq⟩ | ⟨-, -, -, eq⟩ := State.triggerWriteback_cases hv w <;> rw [eq] <;> rfl
  · rw [State.triggerWriteback_of_not_valid (not_exists.1 h)]

theorem State.triggerWriteback_kept (s : State) (n : ChanId) (w : WbServes) :
    RecordKept n s (s.triggerWriteback n w) := by
  by_cases h : ∃ v, (s.chan n).line = .valid v
  · obtain ⟨v, hv⟩ := h
    obtain ⟨v', eq, words⟩ := State.triggerWriteback_chan hv w
    exact .of_words (by rw [eq]) hv (by rw [eq]) words
  · rw [State.triggerWriteback_of_not_valid (not_exists.1 h)]
    exact .refl n s

/-- A trigger while some word of the line is dirty claims the writeback, joins it or requests one (R54, R55). -/
theorem State.triggerWriteback_triggered {s : State} {n : ChanId}
    (dirty : ∀ v, (s.chan n).line = .valid v → v.dirty.any = true) (w : WbServes) :
    s.WritebackTriggered (s.triggerWriteback n w) n := by
  intro v h
  obtain ⟨phase, -, eq⟩ | ⟨-, clean, -⟩ | ⟨phase, eq⟩ | ⟨o, f, phase, eq⟩ := State.triggerWriteback_cases h w
  · refine ⟨{ v with wbPhase := .claimed, serves := w }, by rw [eq, State.chan_raise, State.chan_modChan_self], ?_⟩
    rw [phase, eq]
    exact ⟨rfl, List.mem_append_right _ (List.mem_singleton_self _)⟩
  · exact absurd (dirty v h) (by rw [clean]; decide)
  · refine ⟨{ v with serves := v.serves.join w }, by rw [eq, State.chan_modChan_self], ?_⟩
    rw [phase]
  · refine ⟨{ v with requested := some ((v.requested.getD .plain).join w) }, by rw [eq, State.chan_modChan_self], ?_⟩
    rw [phase]
    exact ⟨rfl, rfl⟩

theorem WbServes.join_consequence (old : WbServes) {new : WbServes} (h : new.consequence ≠ .nothing) :
    (old.join new).consequence = new.consequence := if_neg h

/-- A trigger while some word of the line is dirty makes the writeback serve its consequence (R55). -/
theorem State.triggerWriteback_serves {s : State} {n : ChanId}
    (dirty : ∀ v, (s.chan n).line = .valid v → v.dirty.any = true) {w : WbServes} (h : w.consequence ≠ .nothing) :
    (s.triggerWriteback n w).WritebackServes n w.consequence := by
  intro v' hv'
  by_cases valid : ∃ v, (s.chan n).line = .valid v
  · obtain ⟨v, hv⟩ := valid
    obtain ⟨-, -, eq⟩ | ⟨-, clean, -⟩ | ⟨phase, eq⟩ | ⟨o, f, phase, eq⟩ := State.triggerWriteback_cases hv w
    · rw [eq, State.chan_raise, State.chan_modChan_self] at hv'
      cases hv'
      exact .inl ⟨rfl, rfl⟩
    · exact absurd (dirty v hv) (by rw [clean]; decide)
    · rw [eq, State.chan_modChan_self] at hv'
      cases hv'
      exact .inl ⟨phase, WbServes.join_consequence _ h⟩
    · rw [eq, State.chan_modChan_self] at hv'
      cases hv'
      exact .inr ⟨o, f, _, phase, rfl, WbServes.join_consequence _ h⟩
  · rw [State.triggerWriteback_of_not_valid (not_exists.1 valid)] at hv'
    exact absurd ⟨v', hv'⟩ valid

/-- What a trigger means depends on the writeback phase alone of the line that it found. -/
theorem State.WritebackTriggered.of_phase {s u t : State} {n : ChanId} {v v' : ValidLine}
    (h : u.WritebackTriggered t n) (hs : (s.chan n).line = .valid v) (hu : (u.chan n).line = .valid v')
    (phase : v'.wbPhase = v.wbPhase) : s.WritebackTriggered t n := by
  intro x hx
  cases hs.symm.trans hx
  rw [← phase]
  exact h v' hu

/-! ## Channel events (R81, R148) -/

theorem State.queueRoom_iff (s : State) : s.queueRoom = true ↔ s.events.count < 8 := decide_eq_true_iff

@[simp] theorem State.pushEvent_chan (s : State) (ev : Event) (n : ChanId) : (s.pushEvent ev).chan n = s.chan n := by
  simp only [State.pushEvent, State.chan, State.raisePost_channels, State.modEvents_channels]

theorem State.pushEvent_queue (s : State) (ev : Event) : (s.pushEvent ev).events.queue = s.events.queue ++ [ev] := by
  unfold State.pushEvent
  rw [State.raisePost_events_eq]
  rfl

/-- The creation of a channel event (R81, R148): discarded, at the tail of the queue, or in the stalled slot. -/
theorem State.createEvent_created (s : State) (n : ChanId) (ev : Event) :
    s.EventCreated (s.createEvent n ev) n ev := by
  unfold State.EventCreated State.createEvent
  simp only [State.queueRoom_iff]
  split
  · exact ⟨rfl, rfl⟩
  · split
    · exact ⟨s.pushEvent_queue ev, by rw [State.pushEvent_chan]⟩
    · exact ⟨rfl, by rw [State.chan_modChan_self]⟩

/-- A channel event reaches the stalled slot alone of channel n. -/
theorem State.createEvent_chan (s : State) (n : ChanId) (ev : Event) :
    ∃ slot, (s.createEvent n ev).chan n = { s.chan n with ctl := { (s.chan n).ctl with stalled := slot } } := by
  unfold State.createEvent
  split
  · exact ⟨_, rfl⟩
  · split
    · exact ⟨_, s.pushEvent_chan ev n⟩
    · exact ⟨_, s.chan_modChan_self n _⟩

theorem State.createEvent_kept (s : State) (n : ChanId) (ev : Event) : RecordKept n s (s.createEvent n ev) := by
  obtain ⟨slot, eq⟩ := s.createEvent_chan n ev
  exact .of_line (by rw [eq]) (by rw [eq])

/-- An event's creation depends on the queue, Intake and the stalled slot alone. -/
theorem State.EventCreated.congr {s s' t t' : State} {n : ChanId} {ev : Event} (h : s.EventCreated t n ev)
    (es : s'.events = s.events) (ss : (s'.chan n).ctl.stalled = (s.chan n).ctl.stalled)
    (et : t'.events = t.events) (st : (t'.chan n).ctl.stalled = (t.chan n).ctl.stalled) : s'.EventCreated t' n ev := by
  unfold State.EventCreated at h ⊢
  rw [es, ss, et, st]
  exact h

/-! ## The entry to ENDING and to HALTED (R63, R80) -/

@[simp] theorem State.enterEnding_ctl (s : State) (n : ChanId) (e : EndingKind) :
    ((s.enterEnding n e).chan n).ctl = { (s.chan n).ctl with state := .ending, ending := some e } := by
  rw [State.enterEnding, State.triggerWriteback_ctl, State.modStatus_ctl]

theorem State.enterEnding_events (s : State) (n : ChanId) (e : EndingKind) :
    (s.enterEnding n e).events = s.events := by
  rw [State.enterEnding, State.triggerWriteback_events, State.modStatus_events]

theorem State.enterEnding_kept (s : State) (n : ChanId) (e : EndingKind) : RecordKept n s (s.enterEnding n e) :=
  (s.modStatus_kept n _).trans (State.triggerWriteback_kept _ n _)

/-- The entry to ENDING changes STATUS, so that its trigger finds a dirty word, and the final event waits for the
writeback (R80). -/
theorem State.enterEnding_finals {s : State} {n : ChanId} {v : ValidLine} (h : (s.chan n).line = .valid v)
    (e : EndingKind) :
    s.WritebackTriggered (s.enterEnding n e) n ∧ (s.enterEnding n e).WritebackServes n .finalEvent := by
  have line := State.modStatus_line h fun k => { k with state := .ending, ending := some e }
  have dirty : ∀ x, ((s.modStatus n fun k => { k with state := .ending, ending := some e }).chan n).line = .valid x →
      x.dirty.any = true := by
    intro x hx
    cases line.symm.trans hx
    exact v.put_dirty_any _ _
  exact ⟨(State.triggerWriteback_triggered dirty _).of_phase h line rfl,
    State.triggerWriteback_serves dirty (w := { consequence := .finalEvent, disable := false }) (by decide)⟩

/-- The HALTED event may stall the channel; the rest of the controller but the state stands. -/
theorem State.enterHalted_ctl (s : State) (n : ChanId) :
    ∃ slot, ((s.enterHalted n).chan n).ctl = { (s.chan n).ctl with state := .halted, stalled := slot } := by
  obtain ⟨slot, eq⟩ := (s.setState n .halted).createEvent_chan n
    ((s.setState n .halted).channelEvent n .halted (((s.setState n .halted).chan n).done24.setWidth 32)
      (((s.setState n .halted).chan n).count.setWidth 32))
  exact ⟨slot, by rw [State.enterHalted, State.triggerPlain, State.triggerWriteback_ctl, eq, State.setState_ctl]⟩

theorem State.enterHalted_state (s : State) (n : ChanId) : ((s.enterHalted n).chan n).ctl.state = .halted := by
  obtain ⟨slot, eq⟩ := s.enterHalted_ctl n
  rw [eq]

theorem State.setState_kept (s : State) (n : ChanId) (st : ChanState) : RecordKept n s (s.setState n st) :=
  s.modStatus_kept n _

theorem State.enterHalted_kept (s : State) (n : ChanId) : RecordKept n s (s.enterHalted n) :=
  ((s.setState_kept n _).trans (State.createEvent_kept _ n _)).trans (State.triggerWriteback_kept _ n _)

/-! ## The entry to FAULTED (R78) -/

/-- The entry to FAULTED before its event: the port answered, the link claim withdrawn, the controller changed. -/
def State.faultTaken (s : State) (n : ChanId) (f : PendingFault) : State :=
  (((s.failPort n f.code).dropLinkClaim n).modStatus n fun k =>
    { k with state := .faulted, lastFault := some f.code, abortRecorded := false, ending := none,
             pendingFault := none, heldCompletion := none }).modChan n Channel.forgetConsequence

@[simp] theorem State.closePort_chan (s : State) (n : ChanId) (a : Answer) :
    (s.closePort n a).chan n = { s.chan n with port := .idle } := by
  rw [State.closePort, State.answer, State.chan_send, State.chan_modChan_self]

theorem State.failPort_chan (s : State) (n : ChanId) (code : FaultCode) :
    ∃ p, (s.failPort n code).chan n = { s.chan n with port := p } := by
  unfold State.failPort
  split
  · exact ⟨_, s.closePort_chan n _⟩
  · exact ⟨_, s.closePort_chan n _⟩
  · exact ⟨_, rfl⟩

theorem State.failPort_events (s : State) (n : ChanId) (code : FaultCode) : (s.failPort n code).events = s.events := by
  unfold State.failPort
  split <;> rfl

theorem State.dropLinkClaim_chan (s : State) (n : ChanId) :
    ∃ w, (s.dropLinkClaim n).chan n = { s.chan n with walker := w } := by
  unfold State.dropLinkClaim
  split
  · exact ⟨_, by rw [State.chan_withdraw, State.chan_modChan_self]⟩
  · exact ⟨_, rfl⟩

theorem State.dropLinkClaim_events (s : State) (n : ChanId) : (s.dropLinkClaim n).events = s.events := by
  unfold State.dropLinkClaim
  split <;> rfl

/-- The port's answer and the withdrawn link claim leave the controller and the line. -/
theorem State.failPort_dropLinkClaim (s : State) (n : ChanId) (code : FaultCode) :
    (((s.failPort n code).dropLinkClaim n).chan n).ctl = (s.chan n).ctl ∧
    (((s.failPort n code).dropLinkClaim n).chan n).line = (s.chan n).line := by
  obtain ⟨w, drop⟩ := (s.failPort n code).dropLinkClaim_chan n
  obtain ⟨p, fail⟩ := s.failPort_chan n code
  rw [drop, fail]
  exact ⟨rfl, rfl⟩

theorem State.faultTaken_ctl (s : State) (n : ChanId) (f : PendingFault) :
    ((s.faultTaken n f).chan n).ctl =
      { (s.chan n).ctl with
        state := .faulted, lastFault := some f.code, abortRecorded := false, ending := none, pendingFault := none,
        heldCompletion := none } := by
  obtain ⟨ctl, -⟩ := s.failPort_dropLinkClaim n f.code
  rw [State.faultTaken, State.chan_modChan_self, Channel.forgetConsequence, Channel.modLine_ctl, State.modStatus_ctl, ctl]

theorem State.faultTaken_events (s : State) (n : ChanId) (f : PendingFault) :
    (s.faultTaken n f).events = s.events := by
  rw [State.faultTaken, State.modChan_events, State.modStatus_events, State.dropLinkClaim_events, State.failPort_events]

theorem State.forgetConsequence_kept (s : State) (n : ChanId) :
    RecordKept n s (s.modChan n Channel.forgetConsequence) where
  startCount := by rw [State.chan_modChan_self, Channel.forgetConsequence, Channel.modLine_ctl]
  words := fun w _ => by
    rw [State.chan_modChan_self]
    exact Channel.modLine_word _ fun _ => rfl

theorem State.faultTaken_kept (s : State) (n : ChanId) (f : PendingFault) : RecordKept n s (s.faultTaken n f) := by
  obtain ⟨ctl, line⟩ := s.failPort_dropLinkClaim n f.code
  have answered : RecordKept n s ((s.failPort n f.code).dropLinkClaim n) := .of_line (by rw [ctl]) line
  exact (answered.trans (State.modStatus_kept _ n _)).trans (State.forgetConsequence_kept _ n)

/-- The FAULT event as the entry makes it is the event of the state before. -/
theorem State.faultTaken_event (s : State) (n : ChanId) (f : PendingFault) :
    (s.faultTaken n f).channelEvent n .fault (faultDetail f.code ((s.faultTaken n f).chan n).ctl.startCount)
      (f.address.setWidth 32) = s.faultEvent n f.code f.address := by
  rw [State.channelEvent, (s.faultTaken_kept n f).cookie, (s.faultTaken_kept n f).startCount, State.faultEvent]

theorem State.enterFaulted_eq (s : State) (n : ChanId) (f : PendingFault) :
    s.enterFaulted n f =
      if f.noWriteback then (s.faultTaken n f).createEvent n (s.faultEvent n f.code f.address)
      else ((s.faultTaken n f).createEvent n (s.faultEvent n f.code f.address)).triggerPlain n := by
  rw [← s.faultTaken_event n f]
  rfl

/-- The entry to FAULTED leaves the controller, the record and the Event Unit as the FAULT event leaves them: its
writeback trigger changes none of the three. -/
theorem State.enterFaulted_leaves (s : State) (n : ChanId) (f : PendingFault) :
    let u := (s.faultTaken n f).createEvent n (s.faultEvent n f.code f.address)
    ((s.enterFaulted n f).chan n).ctl = (u.chan n).ctl ∧ (s.enterFaulted n f).events = u.events ∧
      RecordKept n u (s.enterFaulted n f) := by
  intro u
  rw [State.enterFaulted_eq]
  split
  · exact ⟨rfl, rfl, .refl n u⟩
  · exact ⟨u.triggerWriteback_ctl n _, u.triggerWriteback_events n _, u.triggerWriteback_kept n _⟩

theorem State.enterFaulted_kept (s : State) (n : ChanId) (f : PendingFault) : RecordKept n s (s.enterFaulted n f) := by
  obtain ⟨-, -, kept⟩ := s.enterFaulted_leaves n f
  exact ((s.faultTaken_kept n f).trans (State.createEvent_kept _ n _)).trans kept

/-- FAULTED with the fault's code, and the FAULT event created (R78). -/
theorem State.enterFaulted_faulted (s : State) (n : ChanId) (f : PendingFault) :
    ((s.enterFaulted n f).chan n).ctl.state = .faulted ∧
    ((s.enterFaulted n f).chan n).ctl.lastFault = some f.code ∧
    s.EventCreated (s.enterFaulted n f) n (s.faultEvent n f.code f.address) := by
  obtain ⟨ctl, events, -⟩ := s.enterFaulted_leaves n f
  obtain ⟨slot, eq⟩ := (s.faultTaken n f).createEvent_chan n (s.faultEvent n f.code f.address)
  refine ⟨?_, ?_, ?_⟩
  · rw [ctl, eq, State.faultTaken_ctl]
  · rw [ctl, eq, State.faultTaken_ctl]
  · exact ((s.faultTaken n f).createEvent_created n _).congr (s.faultTaken_events n f).symm
      (by rw [State.faultTaken_ctl]) events (by rw [ctl])

/-! ## The entry to LINKING (R110) -/

theorem State.faultArise_kept (s : State) (n : ChanId) (f : PendingFault) : RecordKept n s (s.faultArise n f) := by
  unfold State.faultArise
  simp only
  split
  · exact .refl n s
  · split
    · exact .of_line (by rw [State.pendFault, State.chan_modCtl_self]) (by rw [State.pendFault, State.chan_modCtl_self])
    · exact s.enterFaulted_kept n f

theorem State.enterLinking_kept (s : State) (n : ChanId) : RecordKept n s (s.enterLinking n) := by
  unfold State.enterLinking
  simp only
  split
  · exact (s.setState_kept n _).trans (State.faultArise_kept _ n _)
  · refine (s.setState_kept n .linking).trans (.of_line ?_ ?_)
    · rw [State.chan_raise, State.chan_modChan_self]
    · rw [State.chan_raise, State.chan_modChan_self]

/-- A segment outside the window: LINKING, with the link claim raised. -/
theorem State.enterLinking_of_outside {s : State} {n : ChanId}
    (h : (segmentAddrs (s.chan n).chain).any (fun a => s.inWindow a) = false) :
    ((s.enterLinking n).chan n).ctl.state = .linking ∧
    ((s.enterLinking n).chan n).walker.phase = .claimed (s.chan n).chain ∧
    { kind := .link n, age := 0 } ∈ (s.enterLinking n).arb.upkeep := by
  have chain := (s.setState_kept n .linking).chain
  have outside : ¬ (segmentAddrs ((s.setState n .linking).chan n).chain).any
      (fun a => (s.setState n .linking).inWindow a) = true := by
    rw [chain]
    exact Bool.eq_false_iff.1 h
  have eq : s.enterLinking n = ((s.setState n .linking).modChan n fun c =>
      { c with walker := { c.walker with phase := .claimed ((s.setState n .linking).chan n).chain } }).raise (.link n) :=
    if_neg outside
  rw [eq, State.chan_raise, State.chan_modChan_self, chain]
  exact ⟨by rw [State.setState_ctl], rfl, List.mem_append_right _ (List.mem_singleton_self _)⟩

/-- In LINKING no fill is in flight: only a granted break or a granted link can be (R78). -/
theorem Channel.opInFlight_of_linking {c c' : Channel} (h : c.opInFlight = false) (state : c'.ctl.state = .linking)
    (port : c'.port = c.port) (walker : c'.walker = c.walker) : c'.opInFlight = false := by
  have noFill : c'.fillInFlight = false := by
    rw [Channel.fillInFlight, state]
    rfl
  unfold Channel.opInFlight at h ⊢
  rw [noFill, port, walker, Bool.or_false]
  exact (Bool.or_eq_false_iff.1 h).1

/-- A fault of a channel with nothing in flight is taken at once (R78). -/
theorem State.faultArise_taken {s : State} {n : ChanId} (state : (s.chan n).ctl.state ≠ .faulted)
    (pends : (s.chan n).ctl.pendingFault = none) (idle : (s.chan n).opInFlight = false)
    (unstalled : (s.chan n).ctl.stalled = none) (f : PendingFault) : s.faultArise n f = s.enterFaulted n f := by
  unfold State.faultArise
  simp only
  rw [if_neg (by simp [state, pends]), if_neg (by simp [idle, Channel.isStalled, unstalled])]

/-- A segment that touches the window: WINDOW_TARGET, taken at once where nothing of the channel is in flight. -/
theorem State.enterLinking_of_inside {s : State} {n : ChanId}
    (h : (segmentAddrs (s.chan n).chain).any (fun a => s.inWindow a) = true)
    (pends : (s.chan n).ctl.pendingFault = none) (idle : ((s.setState n .linking).chan n).opInFlight = false)
    (unstalled : (s.chan n).ctl.stalled = none) :
    ((s.enterLinking n).chan n).ctl.state = .faulted ∧
    ((s.enterLinking n).chan n).ctl.lastFault = some .windowTarget := by
  have chain := (s.setState_kept n .linking).chain
  have inside : (segmentAddrs ((s.setState n .linking).chan n).chain).any
      (fun a => (s.setState n .linking).inWindow a) = true := by
    rw [chain]
    exact h
  have eq : s.enterLinking n = (s.setState n .linking).faultArise n
      (.of .windowTarget ((s.setState n .linking).chan n).chain) := if_pos inside
  rw [eq, State.faultArise_taken (by rw [State.setState_ctl]; exact ChanState.noConfusion)
    (by rw [State.setState_ctl]; exact pends) idle (by rw [State.setState_ctl]; exact unstalled)]
  obtain ⟨state, code, -⟩ := (s.setState n .linking).enterFaulted_faulted n
    (.of .windowTarget ((s.setState n .linking).chan n).chain)
  exact ⟨state, code⟩

/-! ## The end of an extent (R116) -/

theorem State.goToSegment_kept (s : State) (n : ChanId) : RecordKept n s (s.goToSegment n) := by
  unfold State.goToSegment
  split
  · exact s.enterEnding_kept n _
  · exact s.enterLinking_kept n

theorem State.segmentTransition_kept (s : State) (n : ChanId) (e : BreakEnd) :
    RecordKept n s (s.segmentTransition n e) := by
  unfold State.segmentTransition
  split
  · exact s.enterEnding_kept n _
  · split
    · exact s.enterHalted_kept n
    · exact s.goToSegment_kept n

theorem State.segmentTransition_of_terminal {s : State} {n : ChanId} {e : BreakEnd} (h : e.chainZero = true) :
    s.segmentTransition n e = s.enterEnding n .terminal := if_pos h

theorem State.segmentTransition_of_hold {s : State} {n : ChanId} {e : BreakEnd} (h : e.chainZero = false)
    (hold : (s.chan n).walker.flags.hold = true) : s.segmentTransition n e = s.enterHalted n := by
  unfold State.segmentTransition
  rw [if_neg (by rw [h]; decide), if_pos hold]

theorem State.segmentTransition_of_link {s : State} {n : ChanId} {e : BreakEnd} (h : e.chainZero = false)
    (hold : (s.chan n).walker.flags.hold = false) : s.segmentTransition n e = s.goToSegment n := by
  unfold State.segmentTransition
  rw [if_neg (by rw [h]; decide), if_neg (by rw [hold]; decide)]

/-- SEGMENT_DONE is due at this end of an extent (R116): it was not made before, and EV_END or EV_SEGMENT asks for it. -/
def State.SegmentDue (s : State) (n : ChanId) (e : BreakEnd) : Prop :=
  e.segmentDone = false ∧ ((s.chan n).walker.flags.evEnd = true ∨ e.evSegment = true)

/-- SEGMENTS as the end of an extent leaves it. -/
def ValidLine.segmentsAfter (v : ValidLine) (e : BreakEnd) : BitVec 16 :=
  segmentsOf v.words.segments + (if e.segmentDone then 0#16 else 1#16)

/-- The SEGMENT_DONE of channel n's line (R81, R116). -/
def ValidLine.segmentDoneEvent (v : ValidLine) (n : ChanId) (e : BreakEnd) : Event :=
  { kind := .segmentDone, source := BitVec.ofNat 4 n.val, word1 := v.words.cookie,
    detailA := (field 0 24 v.words.done).setWidth 32, detailB := (v.segmentsAfter e).setWidth 32 }

/-- Steps 1 and 2 of the segment-end handling, where they are not done yet (R116). -/
def State.afterExtent (s : State) (n : ChanId) (e : BreakEnd) : State :=
  if e.segmentDone then s else (s.raiseSegments n).segmentEvent n e

/-- The segment-end handling of a channel that is not stalled: step 3 follows the two others unless they stall it. -/
theorem State.segmentEnd_eq {s : State} {n : ChanId} (unstalled : (s.chan n).ctl.stalled = none) (e : BreakEnd) :
    s.segmentEnd n e =
      if ((s.afterExtent n e).chan n).isStalled then
        (s.afterExtent n e).modCtl n fun k =>
          { k with heldCompletion := some (.breakGroup { e with segmentDone := true }) }
      else (s.afterExtent n e).segmentTransition n e := by
  unfold State.segmentEnd State.afterExtent
  cases made : e.segmentDone with
  | true => simp [Channel.isStalled, unstalled]
  | false => rfl

theorem State.segmentEnd_of_unstalled {s : State} {n : ChanId} {e : BreakEnd}
    (unstalled : (s.chan n).ctl.stalled = none) (goes : ((s.afterExtent n e).chan n).ctl.stalled = none) :
    s.segmentEnd n e = (s.afterExtent n e).segmentTransition n e := by
  rw [State.segmentEnd_eq unstalled, if_neg (by simp [Channel.isStalled, goes])]

/-- The line with SEGMENTS one more (R116). -/
def ValidLine.raiseSegments (v : ValidLine) : ValidLine :=
  v.put .segments (setField 0 16 (segmentsOf v.words.segments + 1#16) v.words.segments)

theorem ValidLine.segmentsOf_raiseSegments {v : ValidLine} {e : BreakEnd} (made : e.segmentDone = false) :
    segmentsOf v.raiseSegments.words.segments = v.segmentsAfter e := by
  rw [ValidLine.segmentsAfter, made]
  exact field_setField 0 16 _ _ (by decide)

theorem State.raiseSegments_chan {s : State} {n : ChanId} {v : ValidLine} (h : (s.chan n).line = .valid v) :
    (s.raiseSegments n).chan n = { s.chan n with line := .valid v.raiseSegments } := by
  rw [State.raiseSegments, State.chan_modChan_self, Channel.modLine_of_valid h]
  rfl

theorem State.segmentEvent_of_asked {s : State} {n : ChanId} {e : BreakEnd}
    (h : (s.chan n).walker.flags.evEnd = true ∨ e.evSegment = true) :
    s.segmentEvent n e = s.createEvent n
      (s.channelEvent n .segmentDone ((s.chan n).done24.setWidth 32) ((s.chan n).segments16.setWidth 32)) :=
  if_pos (Bool.or_eq_true_iff.2 h)

theorem State.segmentEvent_of_not_asked {s : State} {n : ChanId} {e : BreakEnd}
    (h : ¬ ((s.chan n).walker.flags.evEnd = true ∨ e.evSegment = true)) : s.segmentEvent n e = s :=
  if_neg fun asked => h (Bool.or_eq_true_iff.1 asked)

/-- Steps 1 and 2 change the line's SEGMENTS and the stalled slot alone of channel n. -/
theorem State.afterExtent_chan {s : State} {n : ChanId} {v : ValidLine} (h : (s.chan n).line = .valid v) (e : BreakEnd) :
    ∃ v' slot, (s.afterExtent n e).chan n =
        { s.chan n with line := .valid v', ctl := { (s.chan n).ctl with stalled := slot } } ∧
      v'.wbPhase = v.wbPhase ∧ v'.words.chain = v.words.chain ∧ segmentsOf v'.words.segments = v.segmentsAfter e := by
  unfold State.afterExtent
  cases made : e.segmentDone with
  | true =>
    have stands : v.segmentsAfter e = segmentsOf v.words.segments := by
      rw [ValidLine.segmentsAfter, made]
      exact BitVec.add_zero _
    exact ⟨v, (s.chan n).ctl.stalled, by rw [if_pos rfl, ← h], rfl, rfl, stands.symm⟩
  | false =>
    have raised := State.raiseSegments_chan h
    have segments := ValidLine.segmentsOf_raiseSegments (v := v) made
    by_cases asked : ((s.raiseSegments n).chan n).walker.flags.evEnd = true ∨ e.evSegment = true
    · obtain ⟨slot, eq⟩ := (s.raiseSegments n).createEvent_chan n ((s.raiseSegments n).channelEvent n .segmentDone
        (((s.raiseSegments n).chan n).done24.setWidth 32) (((s.raiseSegments n).chan n).segments16.setWidth 32))
      exact ⟨v.raiseSegments, slot, by
        rw [if_neg (by decide), State.segmentEvent_of_asked asked, eq, raised], rfl, rfl, segments⟩
    · exact ⟨v.raiseSegments, (s.chan n).ctl.stalled, by
        rw [if_neg (by decide), State.segmentEvent_of_not_asked asked, raised], rfl, rfl, segments⟩

/-- The event of step 2 is the SEGMENT_DONE of the line with SEGMENTS raised. -/
theorem State.raiseSegments_event {s : State} {n : ChanId} {v : ValidLine} {e : BreakEnd}
    (h : (s.chan n).line = .valid v) (made : e.segmentDone = false) :
    (s.raiseSegments n).channelEvent n .segmentDone (((s.raiseSegments n).chan n).done24.setWidth 32)
      (((s.raiseSegments n).chan n).segments16.setWidth 32) = v.segmentDoneEvent n e := by
  rw [State.channelEvent, State.raiseSegments_chan h, ValidLine.segmentDoneEvent,
    ← ValidLine.segmentsOf_raiseSegments made]
  rfl

/-- Where SEGMENT_DONE is due, it is created (R81, R83, R116). -/
theorem State.afterExtent_of_due {s : State} {n : ChanId} {v : ValidLine} {e : BreakEnd}
    (h : (s.chan n).line = .valid v) (due : s.SegmentDue n e) :
    s.EventCreated (s.afterExtent n e) n (v.segmentDoneEvent n e) := by
  obtain ⟨made, asked⟩ := due
  have raised := State.raiseSegments_chan h
  have askedNow : ((s.raiseSegments n).chan n).walker.flags.evEnd = true ∨ e.evSegment = true := by
    rw [raised]
    exact asked
  have eq : s.afterExtent n e = (s.raiseSegments n).createEvent n (v.segmentDoneEvent n e) := by
    rw [State.afterExtent, made, if_neg (by decide), State.segmentEvent_of_asked askedNow,
      State.raiseSegments_event h made]
  rw [eq]
  exact ((s.raiseSegments n).createEvent_created n _).congr rfl (by rw [raised]) rfl rfl

/-- Where no SEGMENT_DONE is due, none is made. -/
theorem State.afterExtent_of_not_due {s : State} {n : ChanId} {v : ValidLine} {e : BreakEnd}
    (h : (s.chan n).line = .valid v) (due : ¬ s.SegmentDue n e) :
    (s.afterExtent n e).events = s.events ∧ ((s.afterExtent n e).chan n).ctl.stalled = (s.chan n).ctl.stalled := by
  unfold State.afterExtent
  split
  · exact ⟨rfl, rfl⟩
  · rename_i made
    have raised := State.raiseSegments_chan h
    have unasked : ¬ (((s.raiseSegments n).chan n).walker.flags.evEnd = true ∨ e.evSegment = true) := by
      rw [raised]
      exact fun asked => due ⟨Bool.eq_false_iff.2 made, asked⟩
    rw [State.segmentEvent_of_not_asked unasked]
    exact ⟨rfl, by rw [raised]⟩

theorem State.afterExtent_step (s : State) (n : ChanId) (e : BreakEnd) : ChannelStep n s (s.afterExtent n e) := by
  unfold State.afterExtent
  split
  · exact .refl n s
  · exact (s.raiseSegments_step n).trans (State.segmentEvent_step _ n e)

/-- The segment-end handling goes on to step 3 (R83): no SEGMENT_DONE is due, or it is discarded or finds room. -/
def State.ExtentGoesOn (s : State) (n : ChanId) (e : BreakEnd) : Prop :=
  ¬ s.SegmentDue n e ∨ s.events.intake = .closed ∨ s.events.count < 8

/-- Steps 1 and 2 that do not stall the channel change the line's SEGMENTS alone of it. -/
theorem State.afterExtent_chan_of_goesOn {s : State} {n : ChanId} {v : ValidLine} {e : BreakEnd}
    (h : (s.chan n).line = .valid v) (goes : s.ExtentGoesOn n e) :
    ∃ v', (s.afterExtent n e).chan n = { s.chan n with line := .valid v' } ∧
      v'.wbPhase = v.wbPhase ∧ v'.words.chain = v.words.chain := by
  obtain ⟨v', slot, eq, phase, chain, -⟩ := State.afterExtent_chan h e
  have stands : ((s.afterExtent n e).chan n).ctl.stalled = (s.chan n).ctl.stalled := by
    by_cases due : s.SegmentDue n e
    · have created := State.afterExtent_of_due h due
      unfold State.EventCreated at created
      split at created
      · exact created.2
      · rename_i opened
        rw [if_pos ((goes.resolve_left (not_not_intro due)).resolve_left opened)] at created
        exact created.2
    · exact (State.afterExtent_of_not_due h due).2
  rw [eq] at stands
  exact ⟨v', by rw [eq, show slot = (s.chan n).ctl.stalled from stands], phase, chain⟩

/-- Where neither row before it applies, step 3 goes by the CHAIN that the line then has. -/
theorem State.afterExtent_goes {s : State} {n : ChanId} {v : ValidLine} {e : BreakEnd}
    (h : (s.chan n).line = .valid v) (goes : s.ExtentGoesOn n e) (found : e.chainZero = false)
    (hold : (s.chan n).walker.flags.hold = false) :
    (s.afterExtent n e).segmentTransition n e = (s.afterExtent n e).goToSegment n ∧
      ((s.afterExtent n e).chan n).chain = addrOf v.words.chain := by
  obtain ⟨v', eq, -, chain⟩ := State.afterExtent_chan_of_goesOn h goes
  exact ⟨State.segmentTransition_of_link found (by rw [eq]; exact hold), by rw [eq, ← chain]; rfl⟩

theorem State.afterExtent_inWindow (s : State) (n : ChanId) (e : BreakEnd) (a : Addr) :
    (s.afterExtent n e).inWindow a = s.inWindow a := by
  have mgmt := (s.afterExtent_step n e).mgmt
  unfold State.inWindow State.windowWord State.windowLength State.ringSlots
  rw [mgmt]

/-- The segment-end handling changes no record word but SEGMENTS and STATUS, and SEGMENTS in its steps 1 and 2 alone. -/
theorem State.segmentEnd_kept {s : State} {n : ChanId} (unstalled : (s.chan n).ctl.stalled = none) (e : BreakEnd) :
    RecordKept n (s.afterExtent n e) (s.segmentEnd n e) := by
  rw [State.segmentEnd_eq unstalled]
  split
  · exact .of_line (by rw [State.chan_modCtl_self]) (by rw [State.chan_modCtl_self])
  · exact State.segmentTransition_kept _ n e

section
variable {s : State} {n : ChanId} {v : ValidLine} {e : BreakEnd} (h : (s.chan n).line = .valid v)
  (unstalled : (s.chan n).ctl.stalled = none)
include h unstalled

theorem State.segmentEnd_of_goesOn (goes : s.ExtentGoesOn n e) :
    s.segmentEnd n e = (s.afterExtent n e).segmentTransition n e := by
  obtain ⟨v', eq, -⟩ := State.afterExtent_chan_of_goesOn h goes
  exact State.segmentEnd_of_unstalled unstalled (by rw [eq]; exact unstalled)

theorem State.segmentEnd_segments (e : BreakEnd) : ((s.segmentEnd n e).chan n).segments16 = v.segmentsAfter e := by
  obtain ⟨v', slot, eq, -, -, segments⟩ := State.afterExtent_chan h e
  rw [(State.segmentEnd_kept unstalled e).segments, eq]
  exact segments

theorem State.segmentEnd_startCount (e : BreakEnd) :
    ((s.segmentEnd n e).chan n).ctl.startCount = (s.chan n).ctl.startCount := by
  obtain ⟨v', slot, eq, -⟩ := State.afterExtent_chan h e
  rw [(State.segmentEnd_kept unstalled e).startCount, eq]

/-- The chain ends: ENDING(TERMINAL), with the writeback that the final event waits for (R63, R80). -/
theorem State.segmentEnd_ends (goes : s.ExtentGoesOn n e)
    (ends : (s.afterExtent n e).segmentTransition n e = (s.afterExtent n e).enterEnding n .terminal) :
    ((s.segmentEnd n e).chan n).ctl.state = .ending ∧ ((s.segmentEnd n e).chan n).ctl.ending = some .terminal ∧
      s.WritebackTriggered (s.segmentEnd n e) n ∧ (s.segmentEnd n e).WritebackServes n .finalEvent := by
  obtain ⟨v', eq, phase, -⟩ := State.afterExtent_chan_of_goesOn h goes
  have line : ((s.afterExtent n e).chan n).line = .valid v' := by rw [eq]
  obtain ⟨triggered, serves⟩ := State.enterEnding_finals line .terminal
  rw [State.segmentEnd_of_goesOn h unstalled goes, ends, State.enterEnding_ctl]
  exact ⟨rfl, rfl, triggered.of_phase h line phase, serves⟩

/-- A CHAIN of 0 found at the completion ends the chain; with no SEGMENT_DONE entered, no event is. -/
theorem State.segmentEnd_queue_of_terminal (chainZero : e.chainZero = true)
    (unmade : ¬ s.SegmentDue n e ∨ s.events.intake = .closed) :
    (s.segmentEnd n e).events.queue = s.events.queue := by
  have goes : s.ExtentGoesOn n e := unmade.imp_right .inl
  rw [State.segmentEnd_of_goesOn h unstalled goes, State.segmentTransition_of_terminal chainZero, State.enterEnding_events]
  by_cases due : s.SegmentDue n e
  · have created := State.afterExtent_of_due h due
    rw [State.EventCreated, if_pos (unmade.resolve_left (not_not_intro due))] at created
    exact created.1
  · rw [(State.afterExtent_of_not_due h due).1]

theorem State.segmentEnd_of_hold (goes : s.ExtentGoesOn n e) (chain : e.chainZero = false)
    (hold : (s.chan n).walker.flags.hold = true) :
    ((s.segmentEnd n e).chan n).ctl.state = .halted := by
  obtain ⟨v', eq, -⟩ := State.afterExtent_chan_of_goesOn h goes
  rw [State.segmentEnd_of_goesOn h unstalled goes, State.segmentTransition_of_hold chain (by rw [eq]; exact hold)]
  exact State.enterHalted_state _ n

/-- The chain goes on: step 3 enters LINKING with the line's CHAIN (R110). -/
theorem State.segmentEnd_links (goes : s.ExtentGoesOn n e) (found : e.chainZero = false)
    (hold : (s.chan n).walker.flags.hold = false) (names : addrOf v.words.chain ≠ 0#26) :
    s.segmentEnd n e = (s.afterExtent n e).enterLinking n := by
  obtain ⟨eq, chain⟩ := State.afterExtent_goes h goes found hold
  rw [State.segmentEnd_of_goesOn h unstalled goes, eq, State.goToSegment_of_chain (by rw [chain]; exact names)]

/-- LINKING with its claim raised, or WINDOW_TARGET, by the addresses of the segment (R110). -/
theorem State.segmentEnd_linking (pends : (s.chan n).ctl.pendingFault = none)
    (idle : (s.chan n).opInFlight = false) (goes : s.ExtentGoesOn n e)
    (found : e.chainZero = false) (hold : (s.chan n).walker.flags.hold = false) (names : addrOf v.words.chain ≠ 0#26) :
    ((segmentAddrs (addrOf v.words.chain)).any (fun a => s.inWindow a) = false →
      ((s.segmentEnd n e).chan n).ctl.state = .linking ∧
      ((s.segmentEnd n e).chan n).walker.phase = .claimed (addrOf v.words.chain) ∧
      { kind := .link n, age := 0 } ∈ (s.segmentEnd n e).arb.upkeep) ∧
    ((segmentAddrs (addrOf v.words.chain)).any (fun a => s.inWindow a) = true →
      ((s.segmentEnd n e).chan n).ctl.state = .faulted ∧
      ((s.segmentEnd n e).chan n).ctl.lastFault = some .windowTarget) := by
  obtain ⟨v', eq, -⟩ := State.afterExtent_chan_of_goesOn h goes
  obtain ⟨-, chain⟩ := State.afterExtent_goes h goes found hold
  have idle' : (((s.afterExtent n e).setState n .linking).chan n).opInFlight = false :=
    Channel.opInFlight_of_linking idle (by rw [State.setState_ctl]) (by rw [State.setState, State.modStatus_port, eq])
      (by rw [State.setState, State.modStatus_walker, eq])
  rw [State.segmentEnd_links h unstalled goes found hold names, ← chain]
  simp only [← s.afterExtent_inWindow n e]
  refine ⟨fun outside => State.enterLinking_of_outside outside, fun inside =>
    State.enterLinking_of_inside inside ?_ idle' ?_⟩
  · rw [eq]
    exact pends
  · rw [eq]
    exact unstalled

/-- SEGMENT_DONE stands in the queue before anything that step 3 puts there. -/
theorem State.segmentEnd_queue_of_due (due : s.SegmentDue n e) (opened : s.events.intake = .opened)
    (room : s.events.count < 8) :
    ∃ more, (s.segmentEnd n e).events.queue = s.events.queue ++ v.segmentDoneEvent n e :: more := by
  have created := State.afterExtent_of_due h due
  rw [State.EventCreated, if_neg (by rw [opened]; decide), if_pos room] at created
  obtain ⟨more, phase, events, -⟩ := ((s.afterExtent n e).segmentTransition_step n e).events
  refine ⟨more, ?_⟩
  rw [State.segmentEnd_of_goesOn h unstalled (.inr (.inr room)), events, created.1]
  simp

/-- A SEGMENT_DONE with no room stalls the channel and holds the rest (R83). -/
theorem State.segmentEnd_of_stall (stalls : ¬ s.ExtentGoesOn n e) :
    ((s.segmentEnd n e).chan n).ctl.state = (s.chan n).ctl.state ∧
    ((s.segmentEnd n e).chan n).ctl.stalled = some (v.segmentDoneEvent n e) ∧
    (s.segmentEnd n e).events.queue = s.events.queue ∧
    ((s.segmentEnd n e).chan n).ctl.heldCompletion = some (.breakGroup { e with segmentDone := true }) := by
  obtain ⟨due, full⟩ := not_or.1 stalls
  obtain ⟨opened, full⟩ := not_or.1 full
  obtain ⟨queue, slot⟩ : (s.afterExtent n e).events.queue = s.events.queue ∧
      ((s.afterExtent n e).chan n).ctl.stalled = some (v.segmentDoneEvent n e) := by
    have created := State.afterExtent_of_due h (not_not.1 due)
    rwa [State.EventCreated, if_neg opened, if_neg full] at created
  obtain ⟨v', slot', eq, -⟩ := State.afterExtent_chan h e
  rw [State.segmentEnd_eq unstalled, if_pos (by rw [Channel.isStalled, slot]; rfl), State.chan_modCtl_self]
  exact ⟨by rw [eq], slot, queue, rfl⟩

end

/-! ## The rows of the transition (R74, R75) -/

theorem State.breakTransition_of_fault {s : State} {n : ChanId} {f : PendingFault}
    (h : (s.chan n).ctl.pendingFault = some f) (e : BreakEnd) : s.breakTransition n e = s.enterFaulted n f := by
  unfold State.breakTransition
  simp only [h]

/-- With no fault pending the other rows follow. -/
theorem State.breakTransition_of_no_fault {s : State} {n : ChanId} (h : (s.chan n).ctl.pendingFault = none)
    (e : BreakEnd) : s.breakTransition n e =
      if (s.chan n).ctl.abortRecorded then s.enterAborted n
      else if e.countZero then s.segmentEnd n e
      else if (s.chan n).ctl.state = .draining then s.enterHalted n
      else s.setState n .ready := by
  unfold State.breakTransition
  simp only [h]

/-- No transition at a completion changes START_COUNT. -/
theorem State.breakTransition_startCount {s : State} {n : ChanId} {v : ValidLine} (h : (s.chan n).line = .valid v)
    (unstalled : (s.chan n).ctl.stalled = none) (e : BreakEnd) :
    ((s.breakTransition n e).chan n).ctl.startCount = (s.chan n).ctl.startCount := by
  cases pends : (s.chan n).ctl.pendingFault with
  | some f =>
    rw [State.breakTransition_of_fault pends]
    exact (s.enterFaulted_kept n f).startCount
  | none =>
    rw [State.breakTransition_of_no_fault pends]
    split
    · exact (s.enterEnding_kept n _).startCount
    · split
      · exact State.segmentEnd_startCount h unstalled e
      · split
        · exact (s.enterHalted_kept n).startCount
        · exact (s.setState_kept n _).startCount

/-- What an operation of one channel leaves alone, in the words of the statements. -/
theorem ChannelStep.onlyChannel {n : ChanId} {s t : State} (h : ChannelStep n s t) : s.OnlyChannel n t := by
  obtain ⟨more, phase, events, -⟩ := h.events
  obtain ⟨sent, out⟩ := h.out
  exact ⟨h.pass, h.breakRun, h.others, h.cells, ⟨more, phase, events⟩, h.mgmt, h.freeCounter, h.pending, sent, out.symm⟩

/-- Settles O32: the rows of the transition in their order, with the end of an extent cut into its steps 1 and 2
(`State.afterExtent`) and its step 3. -/
theorem breakCompletionTable : Obligations.BreakCompletionTable := by
  intro n e v s line unstalled c t finals free due goesOn segments done
  have step : ChannelStep n s t := s.breakTransition_step n e
  have extent : free → e.countZero = true → t = s.segmentEnd n e := fun ⟨pends, abort⟩ zero => by
    rw [show t = _ from State.breakTransition_of_no_fault pends e, abort, zero]
    rfl
  have rest : free → e.countZero = false →
      t = if (s.chan n).ctl.state = .draining then s.enterHalted n else s.setState n .ready :=
    fun ⟨pends, abort⟩ nonzero => by
      rw [show t = _ from State.breakTransition_of_no_fault pends e, abort, nonzero]
      rfl
  refine ⟨fun f pends => ?_, fun pends abort => ?_, fun free zero => ?_, fun free nonzero draining => ?_,
    fun free nonzero moving => ?_, step.onlyChannel, step.mport, State.breakTransition_startCount line unstalled e⟩
  · rw [show t = _ from State.breakTransition_of_fault pends e]
    exact s.enterFaulted_faulted n f
  · have aborted : t = s.enterEnding n (.aborted (s.chan n).count) := by
      rw [show t = _ from State.breakTransition_of_no_fault pends e, abort]
      rfl
    have count : (s.chan n).count = countOf v.words.count := congrArg countOf (Channel.word_of_valid line .count)
    simp only [finals]
    rw [aborted, State.enterEnding_ctl, count]
    exact ⟨rfl, rfl, State.enterEnding_finals line _⟩
  · simp only [finals]
    rw [extent free zero]
    refine ⟨State.segmentEnd_segments line unstalled e, fun goes chainZero => ?_,
      State.segmentEnd_of_hold line unstalled, fun goes found hold names => ?_, fun goes found hold names idle => ?_,
      State.segmentEnd_queue_of_due line unstalled, State.segmentEnd_of_stall line unstalled⟩
    · obtain ⟨state, ending, finals⟩ :=
        State.segmentEnd_ends line unstalled goes (State.segmentTransition_of_terminal chainZero)
      exact ⟨state, ending, finals, State.segmentEnd_queue_of_terminal line unstalled chainZero⟩
    · obtain ⟨eq, chain⟩ := State.afterExtent_goes line goes found hold
      exact State.segmentEnd_ends line unstalled goes (eq.trans (State.goToSegment_of_none (chain.trans names)))
    · exact State.segmentEnd_linking line unstalled free.1 idle goes found hold names
  · rw [rest free nonzero, if_pos draining]
    exact s.enterHalted_state n
  · rw [rest free nonzero, if_neg moving, State.setState_ctl]

end Sys2Proof.Machine
end

section
/-! PROOFS. The reference tick and the timers' expiries (R57, R158, R159). -/

namespace Sys2Proof.Machine

/-! ## Channel n replaced -/

theorem mem_chanIds : ∀ n : ChanId, n ∈ chanIds := by decide

@[simp] theorem State.setChan_setChan (s : State) (n : ChanId) (c d : Channel) :
    (s.setChan n c).setChan n d = s.setChan n d := by
  simp [State.setChan]

@[simp] theorem State.setChan_self (s : State) (n : ChanId) : s.setChan n (s.chan n) = s := by
  simp [State.setChan, State.chan]

/-- A trigger writes the line of channel n, and of the rest of the part the UPKEEP list alone (R54). -/
theorem State.triggerWriteback_leaves (s : State) (n : ChanId) (w : WbServes) :
    (∃ l, (s.triggerWriteback n w).chan n = { s.chan n with line := l }) ∧
    (s.triggerWriteback n w).out = s.out := by
  by_cases h : ∃ v, (s.chan n).line = .valid v
  · obtain ⟨v, hv⟩ := h
    obtain ⟨v', eq, -⟩ := State.triggerWriteback_chan hv w
    refine ⟨⟨_, eq⟩, ?_⟩
    obtain ⟨-, -, eq⟩ | ⟨-, -, eq⟩ | ⟨-, eq⟩ | ⟨-, -, -, eq⟩ := State.triggerWriteback_cases hv w <;> rw [eq] <;> rfl
  · rw [State.triggerWriteback_of_not_valid (not_exists.1 h)]
    exact ⟨⟨_, rfl⟩, rfl⟩

/-- A trigger does nothing where no writeback is under way and no word is dirty (R55). -/
theorem State.triggerWriteback_of_clean {s : State} {n : ChanId} {v : ValidLine} (h : (s.chan n).line = .valid v)
    (phase : v.wbPhase = .none) (clean : v.dirty.any = false) (w : WbServes) : s.triggerWriteback n w = s := by
  unfold State.triggerWriteback
  simp [h, phase, clean]

/-! ## The tick (log 4) -/

theorem State.step_of_idle {s : State} (h : s.pending = []) : step s = .next s.tick := by
  unfold step
  rw [h]

theorem State.tick_chan (s : State) (n : ChanId) :
    s.tick.chan n = { s.chan n with quiet := (s.chan n).quiet.map (· - 1) } :=
  s.chan_mapChannels (fun c => { c with quiet := quietTick c.quiet }) n

theorem holdoffTick_eq (h : Option Nat) : holdoffTick h = h.map fun e => min (e + 1) 65535 := by
  have capped : (fun t => if t < 65535 then t + 1 else 65535) = fun e : Nat => min (e + 1) 65535 := by
    funext t
    split <;> omega
  rw [holdoffTick, capped]

theorem State.tick_pending {s : State} (h : s.pending = []) : s.tick.pending = s.tickExpiries := by
  change s.pending ++ s.tickExpiries = _
  rw [h, List.nil_append]

/-- A quiet timer's row comes at the tick that takes its last µs (R57). -/
theorem State.quietTimerExpiry_mem_tickExpiries (s : State) (n : ChanId) :
    Instr.quietTimerExpiry n ∈ s.tickExpiries ↔ (s.chan n).quiet = some 1 := by
  unfold State.tickExpiries
  split <;> simp [mem_chanIds, quietReachesZero]

/-- The holdoff timer's row comes at the tick at which it becomes expired (R158). -/
theorem State.holdoffExpiry_mem_tickExpiries (s : State) :
    Instr.holdoffExpiry ∈ s.tickExpiries ↔
      s.events.holdoffExpired = false ∧ s.tick.events.holdoffExpired = true := by
  have reached : s.events.holdoffReached = (!s.events.holdoffExpired && s.tick.events.holdoffExpired) := rfl
  unfold State.tickExpiries
  rw [reached]
  simp

theorem State.mem_tickExpiries {s : State} {c : Instr} (h : c ∈ s.tickExpiries) :
    c = .holdoffExpiry ∨ ∃ n, c = .quietTimerExpiry n := by
  rcases List.mem_append.1 h with h | h
  · obtain ⟨n, -, eq⟩ := List.mem_map.1 h
    exact .inr ⟨n, eq.symm⟩
  · split at h
    · exact .inl (List.mem_singleton.1 h)
    · cases h

/-! ## The quiet timer's expiry (R57) -/

/-- A timer that has counted down stops, and its channel's line is written back where a word is dirty (R54, R57). -/
theorem State.quietExpires_of_zero {s : State} {n : ChanId} (h : (s.chan n).quiet = some 0) :
    s.quietExpires n = (s.setChan n { s.chan n with quiet := none }).triggerPlain n := if_pos h

theorem State.quietExpires_of_running {s : State} {n : ChanId} (h : (s.chan n).quiet ≠ some 0) :
    s.quietExpires n = s := if_neg h

/-- Settles O41: the tick by its parts, and the expiry's trigger by the phase of the line's writeback. -/
theorem ticksAndTimerExpiries : Obligations.TicksAndTimerExpiries := by
  refine ⟨fun s idle => ⟨s.tick, State.step_of_idle idle, s.tick_chan, ?_, rfl, rfl, rfl, rfl, rfl, rfl, rfl, ?_, ?_, ?_⟩,
    fun n s => ⟨fun zero => ?_, fun running => congrArg _ (State.quietExpires_of_running running), rfl⟩⟩
  · rw [← holdoffTick_eq]
    rfl
  · rw [State.tick_pending idle]
    exact fun c => State.mem_tickExpiries
  · rw [State.tick_pending idle]
    exact s.quietTimerExpiry_mem_tickExpiries
  · rw [State.tick_pending idle]
    exact s.holdoffExpiry_mem_tickExpiries
  · have stopped : ∀ {v}, (s.chan n).line = .valid v →
        ((s.setChan n { s.chan n with quiet := none }).chan n).line = .valid v := fun h => by
      rw [State.chan_setChan_self]
      exact h
    obtain ⟨⟨l, chan⟩, out⟩ := (s.setChan n { s.chan n with quiet := none }).triggerWriteback_leaves n .plain
    rw [State.chan_setChan_self] at chan
    refine ⟨_, congrArg Host.Outcome.next (State.quietExpires_of_zero zero), ?_, fun v line dirty => ?_, fun v line phase clean =>
      State.triggerWriteback_of_clean (stopped line) phase clean .plain, ?_, ?_,
      State.triggerWriteback_events _ n .plain, out⟩
    · rw [State.triggerPlain, chan]
    · refine (State.triggerWriteback_triggered (fun x hx => ?_) .plain).of_phase line (stopped line) rfl
      cases (stopped line).symm.trans hx
      exact dirty
    · rw [State.triggerPlain, chan]
    · rw [State.triggerPlain, chan]

end Sys2Proof.Machine
end

section
/-! PROOFS. The grants of the UPKEEP claims (R46, R52, R111, R123, R132, R140, R142, R161). -/

namespace Sys2Proof.Machine

/-! ## A grant, and the group that it starts -/

/-- The state in which the group of a grant is performed: the arbiter alone has changed (R139 to R141). -/
def State.arbitrated (s : State) (g : Grant) : State := { s with arb := s.arb.afterGrant g }

theorem State.exec_grant {s : State} {g : Grant} (h : s.Grants g) :
    exec .grantDecision s = .next ((s.arbitrated g).perform g).disableProgress := by
  obtain ⟨free, chosen⟩ := h
  have decided : s.decision = (s.arbitrated g).perform g := by
    unfold State.decision
    rw [free, chosen]
    rfl
  exact congrArg (fun t : State => Host.Outcome.next t.disableProgress) decided

theorem State.chan_congr {s t : State} (h : t.channels = s.channels) (n : ChanId) : t.chan n = s.chan n := by
  rw [State.chan, h, State.chan]

theorem State.cell_congr {s t : State} (h : t.cells = s.cells) (k : CellId) : t.cell k = s.cell k := by
  rw [State.cell, h, State.cell]

/-- The group of `src` has started in u: its first access has left, the lock holds the rest and the fetch, and of what
remains the disable sequence may have advanced. -/
structure GroupIssued (u t : State) (src : GroupSource) (a : Access) (rest : List Access) (fetch : Option Fetch) :
    Prop where
  inflight : t.mport.inflight = u.mport.inflight ++
    [{ owner := a.owner, kind := a.kind, addr := a.addr, lanes := a.lanes, orphan := false }]
  lock : t.mport.lock =
    if rest.isEmpty && fetch.isNone then none else some { source := src, todo := rest, fetch := fetch }
  out : t.out = u.out ++ [a.message]
  channels : t.channels = u.channels
  cells : t.cells = u.cells
  pass : t.pass = u.pass
  arb : t.arb = u.arb
  only : u.OnlyDisableAdvances t

theorem State.startGroup_issued (u : State) (src : GroupSource) (a : Access) (rest : List Access)
    (fetch : Option Fetch) : GroupIssued u (u.startGroup src (a :: rest) fetch).disableProgress src a rest fetch := by
  have frame := (u.startGroup src (a :: rest) fetch).disableProgress_frame
  exact ⟨by rw [frame.mport]; rfl, by rw [frame.mport]; rfl, by rw [frame.out]; rfl, frame.channels, frame.cells,
    frame.pass, frame.arb, frame.only⟩

/-- A grant whose group has an access answers a state in which the group has started. -/
theorem State.exec_grant_group {s u : State} {g : Grant} {src : GroupSource} {a : Access} {rest : List Access}
    {fetch : Option Fetch} (h : s.Grants g)
    (performed : (s.arbitrated g).perform g = u.startGroup src (a :: rest) fetch) :
    ∃ t, exec .grantDecision s = .next t ∧ GroupIssued u t src a rest fetch :=
  ⟨_, by rw [State.exec_grant h, performed], u.startGroup_issued src a rest fetch⟩

section
variable {s u t : State} {src : GroupSource} {a : Access} {rest : List Access} {fetch : Option Fetch}

theorem GroupIssued.chan (h : GroupIssued u t src a rest fetch) (n : ChanId) : t.chan n = u.chan n :=
  State.chan_congr h.channels n

theorem GroupIssued.cell (h : GroupIssued u t src a rest fetch) (k : CellId) : t.cell k = u.cell k :=
  State.cell_congr h.cells k

/-- A group that waits for no fetch, in the words of the statements. -/
theorem GroupIssued.groupStarted (h : GroupIssued u t src a rest none) (mport : u.mport = s.mport)
    (out : u.out = s.out) : s.GroupStarted t src a rest := by
  refine ⟨by rw [h.inflight, mport], ?_, by rw [h.out, out]⟩
  rw [h.lock]
  cases rest <;> rfl

theorem GroupIssued.onlyDisableAdvances (h : GroupIssued u t src a rest fetch) (events : u.events = s.events)
    (mgmt : u.mgmt = s.mgmt) : s.OnlyDisableAdvances t := by
  have only := h.only
  unfold State.OnlyDisableAdvances at only ⊢
  rwa [events, mgmt] at only

end

/-! ## Lines and links -/

theorem State.grantFill_of_filling {s : State} {n : ChanId} {p : FillPhase} {w : CommandCode}
    (h : (s.chan n).line = .filling p w) :
    s.grantFill n = (s.setChan n { s.chan n with line := .filling (.granted [] .empty) w }).startGroup
      (.upkeep (.fill n)) (s.fillReads n) none := by
  unfold State.grantFill
  rw [h]
  rfl

theorem State.grantWriteback_of_valid {s : State} {n : ChanId} {v : ValidLine} (h : (s.chan n).line = .valid v) :
    s.grantWriteback n = (s.setChan n { s.chan n with
        line := .valid { v with dirty := .fill false, wbPhase := .granted (s.writebackWrites n v).length none } }).startGroup
      (.upkeep (.writeback n)) (s.writebackWrites n v) none := by
  unfold State.grantWriteback
  rw [h]
  rfl

theorem State.grantLink_of_claimed {s : State} {n : ChanId} {a : Addr} (h : (s.chan n).walker.phase = .claimed a) :
    s.grantLink n = (s.setChan n { s.chan n with
        walker := { (s.chan n).walker with phase := .granted a [] .empty } }).startGroup
      (.upkeep (.link n)) (linkReads n a) none := by
  unfold State.grantLink
  rw [h]
  rfl

/-- A writeback captures just the dirty words (R52). -/
theorem ValidLine.mem_dirtyWords (v : ValidLine) (i : RecWord) : i ∈ v.dirtyWords ↔ v.dirty.get i = true := by
  have listed : i ∈ recWords := by cases i <;> decide
  simp [ValidLine.dirtyWords, listed]

/-! ## Cells -/

/-- What claiming the work that a cell owes leaves alone (R122). -/
structure CellWorkFrame (k : CellId) (s t : State) : Prop where
  mport : t.mport = s.mport
  out : t.out = s.out
  pass : t.pass = s.pass
  events : t.events = s.events
  mgmt : t.mgmt = s.mgmt
  channels : t.channels = s.channels
  breakRun : t.arb.breakRun = s.arb.breakRun
  others : ∀ j, j ≠ k → t.cell j = s.cell j
  statusDue : (t.cell k).statusDue = (s.cell k).statusDue
  cstate : (s.cell k).loadDue = false → (t.cell k).cstate = (s.cell k).cstate

theorem State.cellWork_frame (s : State) (k : CellId) : CellWorkFrame k s (s.cellWork k) := by
  unfold State.cellWork
  split
  · exact ⟨rfl, rfl, rfl, rfl, rfl, rfl, rfl, fun _ _ => rfl, rfl, fun _ => rfl⟩
  · split
    · rename_i due
      refine ⟨rfl, rfl, rfl, rfl, rfl, rfl, rfl, fun j hj => ?_, ?_, fun no => ?_⟩
      · rw [State.cell_raise, State.cell_modCell_other s _ hj]
      · rw [State.cell_raise, State.cell_modCell_self]
      · rw [due] at no
        cases no
    · split
      · exact ⟨rfl, rfl, rfl, rfl, rfl, rfl, rfl, fun _ _ => rfl, rfl, fun _ => rfl⟩
      · exact ⟨rfl, rfl, rfl, rfl, rfl, rfl, rfl, fun _ _ => rfl, rfl, fun _ => rfl⟩

theorem State.grantCellLoad_of_loading {s : State} {k : CellId} {p : LoadPhase} (h : (s.cell k).cstate = .loading p) :
    s.grantCellLoad k =
      ((s.modCell k fun c => { c with cstate := .loading (.granted [] .empty) }).cellWork k).startGroup
        (.upkeep (.cellLoad k))
        [ .ofRead (.cellLoad k 0) (s.cellRecordAddr k 1), .ofRead (.cellLoad k 1) (s.cellRecordAddr k 2),
          .ofRead (.cellLoad k 2) (s.cellRecordAddr k 3) ] none := by
  unfold State.grantCellLoad
  rw [h]

theorem State.cellRecordAddr_eq (s : State) (k : CellId) (i : Nat) :
    s.cellRecordAddr k i = s.wordAddr (64 + i + 4 * k.val) :=
  congrArg s.wordAddr (by omega)

/-! ## The grants of O42 -/

section
variable {s : State}

/-- The fill's eight reads (R46). -/
theorem State.exec_grant_fill {n : ChanId} {w : CommandCode} (h : s.Grants (.upkeep (.fill n)))
    (line : (s.chan n).line = .filling .claimed w) :
    ∃ t, exec .grantDecision s = .next t ∧ (t.chan n).line = .filling (.granted [] .empty) w ∧
      s.GroupStarted t (.upkeep (.fill n)) (.ofRead (.fill n 0) (s.wordAddr (8 * n.val)))
        ([1, 2, 3, 4, 5, 6, 7].map fun i => .ofRead (.fill n i) (s.wordAddr (8 * n.val + i))) ∧
      t.arb.breakRun = s.arb.breakRun ∧ (∀ m, m ≠ n → t.chan m = s.chan m) ∧ t.cells = s.cells ∧ t.pass = s.pass ∧
      s.OnlyDisableAdvances t := by
  obtain ⟨t, run, issued⟩ := State.exec_grant_group h (State.grantFill_of_filling (n := n) line)
  refine ⟨t, run, ?_, issued.groupStarted rfl rfl, by rw [issued.arb]; rfl, fun m hm => ?_, issued.cells, issued.pass,
    issued.onlyDisableAdvances rfl rfl⟩
  · rw [issued.chan, State.chan_setChan_self]
  · rw [issued.chan, State.chan_setChan_other _ _ hm]
    rfl

/-- The link's four reads (R111). -/
theorem State.exec_grant_link {n : ChanId} {a : Addr} (h : s.Grants (.upkeep (.link n)))
    (phase : (s.chan n).walker.phase = .claimed a) :
    ∃ t, exec .grantDecision s = .next t ∧ (t.chan n).walker.phase = .granted a [] .empty ∧
      (t.chan n).line = (s.chan n).line ∧ (t.chan n).ctl = (s.chan n).ctl ∧
      s.GroupStarted t (.upkeep (.link n)) (.ofRead (.link n 0) a)
        [.ofRead (.link n 1) (a + 1#26), .ofRead (.link n 2) (a + 2#26), .ofRead (.link n 3) (a + 3#26)] ∧
      t.arb.breakRun = s.arb.breakRun ∧ (∀ m, m ≠ n → t.chan m = s.chan m) ∧ t.cells = s.cells ∧ t.pass = s.pass ∧
      s.OnlyDisableAdvances t := by
  obtain ⟨t, run, issued⟩ := State.exec_grant_group h (State.grantLink_of_claimed (n := n) phase)
  refine ⟨t, run, ?_, ?_, ?_, issued.groupStarted rfl rfl, by rw [issued.arb]; rfl, fun m hm => ?_, issued.cells,
    issued.pass, issued.onlyDisableAdvances rfl rfl⟩
  · rw [issued.chan, State.chan_setChan_self]
  · rw [issued.chan, State.chan_setChan_self]
    rfl
  · rw [issued.chan, State.chan_setChan_self]
    rfl
  · rw [issued.chan, State.chan_setChan_other _ _ hm]
    rfl

/-- The writes of the dirty words, whose marks are cleared (R52). -/
theorem State.exec_grant_writeback {n : ChanId} {v : ValidLine} {a : RecWord} {l : List RecWord}
    (h : s.Grants (.upkeep (.writeback n))) (line : (s.chan n).line = .valid v) (dirty : v.dirtyWords = a :: l) :
    let write := fun i => Access.ofWrite (.writeback n i) (s.wordAddr (8 * n.val + i.index)) (v.words.get i)
    ∃ t, exec .grantDecision s = .next t ∧
      (t.chan n).line = .valid { v with dirty := .fill false, wbPhase := .granted (l.length + 1) none } ∧
      s.GroupStarted t (.upkeep (.writeback n)) (write a) (l.map write) ∧
      (∀ i, i ∈ v.dirtyWords ↔ v.dirty.get i = true) ∧
      t.arb.breakRun = s.arb.breakRun ∧ (∀ m, m ≠ n → t.chan m = s.chan m) ∧ t.cells = s.cells ∧ t.pass = s.pass ∧
      s.OnlyDisableAdvances t := by
  intro write
  have writes : (s.arbitrated (.upkeep (.writeback n))).writebackWrites n v = write a :: l.map write := by
    unfold State.writebackWrites
    rw [dirty]
    rfl
  have performed := State.grantWriteback_of_valid (s := s.arbitrated (.upkeep (.writeback n))) (n := n) line
  rw [writes] at performed
  obtain ⟨t, run, issued⟩ := State.exec_grant_group h performed
  refine ⟨t, run, ?_, issued.groupStarted rfl rfl, v.mem_dirtyWords, by rw [issued.arb]; rfl, fun m hm => ?_,
    issued.cells, issued.pass, issued.onlyDisableAdvances rfl rfl⟩
  · rw [issued.chan, State.chan_setChan_self, List.length_cons, List.length_map]
  · rw [issued.chan, State.chan_setChan_other _ _ hm]
    rfl

/-- The load's three reads (R123); the work that the cell owes besides is claimed (R122). -/
theorem State.exec_grant_cellLoad {k : CellId} {p : LoadPhase} (h : s.Grants (.upkeep (.cellLoad k)))
    (loading : (s.cell k).cstate = .loading p) :
    ∃ t, exec .grantDecision s = .next t ∧ (t.cell k).cstate = .loading (.granted [] .empty) ∧
      s.GroupStarted t (.upkeep (.cellLoad k)) (.ofRead (.cellLoad k 0) (s.wordAddr (65 + 4 * k.val)))
        [.ofRead (.cellLoad k 1) (s.wordAddr (66 + 4 * k.val)), .ofRead (.cellLoad k 2) (s.wordAddr (67 + 4 * k.val))] ∧
      t.arb.breakRun = s.arb.breakRun ∧ (∀ j, j ≠ k → t.cell j = s.cell j) ∧ t.channels = s.channels ∧
      t.pass = s.pass ∧ s.OnlyDisableAdvances t := by
  have performed := State.grantCellLoad_of_loading (s := s.arbitrated (.upkeep (.cellLoad k))) (k := k) loading
  simp only [State.cellRecordAddr_eq] at performed
  obtain ⟨t, run, issued⟩ := State.exec_grant_group h performed
  have frame := State.cellWork_frame ((s.arbitrated (.upkeep (.cellLoad k))).modCell k fun c =>
    { c with cstate := .loading (.granted [] .empty) }) k
  have granted := State.cell_modCell_self (s.arbitrated (.upkeep (.cellLoad k))) k fun c =>
    { c with cstate := .loading (.granted [] .empty) }
  refine ⟨t, run, ?_, issued.groupStarted frame.mport frame.out, by rw [issued.arb, frame.breakRun]; rfl,
    fun j hj => ?_, issued.channels.trans frame.channels, issued.pass.trans frame.pass,
    issued.onlyDisableAdvances frame.events frame.mgmt⟩
  · rw [issued.cell, frame.cstate (by rw [granted]; rfl), granted]
  · rw [issued.cell, frame.others j hj, State.cell_modCell_other _ _ hj]
    rfl

/-- The status write with the entry's values (R132). -/
theorem State.exec_grant_cellStatus {k : CellId} (h : s.Grants (.upkeep (.cellStatus k))) :
    ∃ t, exec .grantDecision s = .next t ∧ (t.cell k).statusDue = false ∧
      s.GroupStarted t (.upkeep (.cellStatus k))
        (.ofWrite (.cellStatus k) (s.wordAddr (128 + k.val))
          (cellStatusBits (s.cell k).cstate (s.cell k).mergeCount (s.cell k).atLimit)) [] ∧
      t.arb.breakRun = s.arb.breakRun ∧ (∀ j, j ≠ k → t.cell j = s.cell j) ∧ t.channels = s.channels ∧
      t.pass = s.pass ∧ s.OnlyDisableAdvances t := by
  obtain ⟨t, run, issued⟩ := State.exec_grant_group (s := s) (g := .upkeep (.cellStatus k)) h rfl
  have frame := State.cellWork_frame ((s.arbitrated (.upkeep (.cellStatus k))).modCell k fun c =>
    { c with statusDue := false }) k
  refine ⟨t, run, ?_, issued.groupStarted frame.mport frame.out, by rw [issued.arb, frame.breakRun]; rfl,
    fun j hj => ?_, issued.channels.trans frame.channels, issued.pass.trans frame.pass,
    issued.onlyDisableAdvances frame.events frame.mgmt⟩
  · rw [issued.cell, frame.statusDue, State.cell_modCell_self]
  · rw [issued.cell, frame.others j hj, State.cell_modCell_other _ _ hj]
    rfl

/-- The recovery read (R161). -/
theorem State.exec_grant_recovery (h : s.Grants (.upkeep .recovery)) (claimed : s.events.recovery = .claimed) :
    ∃ t, exec .grantDecision s = .next t ∧ t.events.recovery = .granted ∧
      s.GroupStarted t (.upkeep .recovery) (.ofRead .recovery (s.wordAddr 145)) [] ∧
      t.arb.breakRun = s.arb.breakRun ∧ t.channels = s.channels ∧ t.cells = s.cells ∧ t.pass = s.pass := by
  have performed : (s.arbitrated (.upkeep .recovery)).perform (.upkeep .recovery) =
      ((s.arbitrated (.upkeep .recovery)).modEvents fun e => { e with recovery := .granted }).startGroup
        (.upkeep .recovery) [.ofRead .recovery (s.wordAddr 145)] none := if_pos claimed
  obtain ⟨t, run, issued⟩ := State.exec_grant_group h performed
  exact ⟨t, run, by rw [issued.only.1]; rfl, issued.groupStarted rfl rfl, by rw [issued.arb]; rfl, issued.channels,
    issued.cells, issued.pass⟩

end

/-- Settles O42: one rule per UPKEEP claim, each a group started by the owner's change at the grant. -/
theorem upkeepGrantIssuesItsGroup : Obligations.UpkeepGrantIssuesItsGroup := fun _ =>
  ⟨fun _ _ => State.exec_grant_fill, fun _ _ _ _ => State.exec_grant_writeback, fun _ _ => State.exec_grant_link,
    fun _ _ => State.exec_grant_cellLoad, fun _ => State.exec_grant_cellStatus, State.exec_grant_recovery⟩

end Sys2Proof.Machine
end

section
/-! PROOFS. The grants of the breaks that pass their checks (R57, R93 to R102, R140). -/

namespace Sys2Proof.Machine

/-! ## A fault that waits (R78) -/

theorem State.modCtl_of_eq {s : State} {n : ChanId} {f : Controller → Controller}
    (h : f (s.chan n).ctl = (s.chan n).ctl) : s.modCtl n f = s := by
  unfold State.modCtl State.modChan
  simp only [h]
  exact s.setChan_self n

/-- A fault of a channel with a group under way, or stalled, becomes the pending one, or leaves the one that pends. -/
theorem State.faultArise_pends {s : State} {n : ChanId} (state : (s.chan n).ctl.state ≠ .faulted)
    (waits : (s.chan n).opInFlight = true ∨ (s.chan n).ctl.stalled ≠ none) (f : PendingFault) :
    s.faultArise n f = s.modCtl n fun k => { k with pendingFault := some (k.pendingFault.getD f) } := by
  have waits : (s.chan n).opInFlight = true ∨ (s.chan n).isStalled = true :=
    waits.imp_right Option.isSome_iff_ne_none.2
  unfold State.faultArise
  simp only
  cases pends : (s.chan n).ctl.pendingFault with
  | some p =>
    rw [if_pos (.inr rfl), State.modCtl_of_eq]
    rw [pends, Option.getD_some, ← pends]
  | none =>
    rw [if_neg (by simp [state]), if_pos waits]
    rfl

/-! ## The channel of a granted break -/

/-- Channel c after the grant and the steps of a break whose line has become v': its state, the slot, the quiet timer, and
the fault of a step that leaves the address space. -/
def Channel.broken (c : Channel) (req : DeviceRequest) (interval : BitVec 12) (a : Addr) (v' : ValidLine) : Channel where
  ctl := { c.ctl with
    state := if c.ctl.state = .pending then .moving else c.ctl.state
    pendingFault := if c.strideLeaves req then some (c.ctl.pendingFault.getD (.of .addressRange c.lineAddress))
      else c.ctl.pendingFault }
  port := .granted req (c.progressAtGrant req a)
  line := .valid v'
  quiet := quietAtGrant c.track interval
  walker := c.walker

/-- Before the steps: a PENDING channel enters MOVING, and the line's STATUS follows (R62, R93). -/
theorem Channel.atGrant_of_valid {c : Channel} {v : ValidLine} (h : c.line = .valid v) (req : DeviceRequest)
    (interval : BitVec 12) :
    ∃ v₁, c.atGrant req interval =
        { c with
          ctl := { c.ctl with state := if c.ctl.state = .pending then .moving else c.ctl.state }
          port := .granted req .fresh
          line := .valid v₁
          quiet := quietAtGrant c.track interval } ∧
      (v₁ = v ∨ ∃ x, v₁ = v.put .status x) := by
  unfold Channel.atGrant
  by_cases pending : c.ctl.state = .pending
  · simp only [if_pos pending, Channel.modCtl, Channel.sync]
    exact ⟨_, Channel.modLine_of_valid (by exact h) _, .inr ⟨_, rfl⟩⟩
  · simp only [if_neg pending]
    exact ⟨v, h ▸ rfl, .inl rfl⟩

section
variable {c : Channel} {v : ValidLine} (h : c.line = .valid v) (req : DeviceRequest)
include h

theorem Channel.lineAddress_of_valid : c.lineAddress = addrOf v.words.address :=
  congrArg addrOf (Channel.word_of_valid h .address)

theorem Channel.strideSum_of_valid :
    c.strideSum = ((addrOf v.words.address).toNat : Int) + strideOf v.words.control := by
  rw [Channel.strideSum, Channel.lineAddress_of_valid h, Channel.word_of_valid h .control]
  rfl

theorem Channel.stepsAddress_iff : c.stepsAddress req = true ↔
    c.mode = .counted ∧ req.holdAddress = false ∧ strideOf v.words.control ≠ 0 := by
  rw [Channel.stepsAddress, Channel.word_of_valid h .control]
  simp [and_assoc, Record.get]

theorem Channel.strideInRange_iff : c.strideInRange = true ↔
    0 ≤ ((addrOf v.words.address).toNat : Int) + strideOf v.words.control ∧
      ((addrOf v.words.address).toNat : Int) + strideOf v.words.control ≤ 0x3FFFFFF := by
  rw [Channel.strideInRange, Channel.strideSum_of_valid h, decide_eq_true_iff]

/-- ADDRESS steps where the mode, the request and STRIDE say so and the sum stays in the address space (R96, R97). -/
theorem Channel.addressSteps_iff : c.addressSteps req = true ↔
    c.mode = .counted ∧ req.holdAddress = false ∧ strideOf v.words.control ≠ 0 ∧
      0 ≤ ((addrOf v.words.address).toNat : Int) + strideOf v.words.control ∧
      ((addrOf v.words.address).toNat : Int) + strideOf v.words.control ≤ 0x3FFFFFF := by
  rw [Channel.addressSteps, Bool.and_eq_true, Channel.stepsAddress_iff h, Channel.strideInRange_iff h]
  simp only [and_assoc]

/-- The step leaves the address space (R97). -/
theorem Channel.strideLeaves_iff : c.strideLeaves req = true ↔
    c.mode = .counted ∧ req.holdAddress = false ∧ strideOf v.words.control ≠ 0 ∧
      ¬ (0 ≤ ((addrOf v.words.address).toNat : Int) + strideOf v.words.control ∧
        ((addrOf v.words.address).toNat : Int) + strideOf v.words.control ≤ 0x3FFFFFF) := by
  rw [Channel.strideLeaves, Bool.and_eq_true, Bool.not_eq_true', ← Bool.not_eq_true, Channel.stepsAddress_iff h,
    Channel.strideInRange_iff h]
  simp only [and_assoc]

end

theorem Channel.writesAddress_iff (c : Channel) :
    c.writesAddress = true ↔ c.mode = .counted ∧ c.track = .strict := by
  simp [Channel.writesAddress]

theorem Track.not_strict_eq (t : Track) : (!(t == .strict)) = decide (t = .lazy) := by
  cases t <;> rfl

/-- The line after the steps of a break (R96 to R98), ADDRESS taking `a` where it steps. -/
def ValidLine.broken (v : ValidLine) (steps strict writesAddress : Bool) (a : Addr) : ValidLine :=
  let v := v.put .count (setField 0 24 (countOf v.words.count - 1#24) v.words.count)
  let v := v.put .done (setField 0 24 (field 0 24 v.words.done + 1#24) v.words.done)
  let v := if steps then v.put .address (setField 0 26 a v.words.address) else v
  { v with dirty :=
      { v.dirty with
        count := !strict
        status := true
        address := if writesAddress then false else v.dirty.address } }

/-- What the steps write into the line (R96 to R98). -/
theorem Channel.stepLine_of_valid {c : Channel} {v : ValidLine} (h : c.line = .valid v) (req : DeviceRequest) :
    ∃ v', c.stepLine req = { c with line := .valid v' } ∧ BreakSteps c req v v' := by
  refine ⟨v.broken (c.addressSteps req) (c.track == .strict) c.writesAddress (BitVec.ofInt 26 c.strideSum),
    Channel.modLine_of_valid h _, ?_⟩
  have steps_iff := Channel.addressSteps_iff h req
  have writes_iff := c.writesAddress_iff
  rw [Channel.strideSum_of_valid h]
  unfold BreakSteps
  simp only [← steps_iff, ← writes_iff]
  unfold ValidLine.broken
  cases steps : c.addressSteps req with
  | true =>
    refine ⟨rfl, rfl, fun _ => rfl, fun no => absurd rfl no, rfl, rfl, rfl, rfl, rfl, rfl, c.track.not_strict_eq,
      fun mode track => if_pos (writes_iff.2 ⟨mode, track⟩), fun no _ => ?_, fun _ no => absurd rfl no, rfl, rfl, rfl⟩
    exact if_neg no
  | false =>
    refine ⟨rfl, rfl, fun no => absurd no (by decide), fun _ => rfl, rfl, rfl, rfl, rfl, rfl, rfl, c.track.not_strict_eq,
      fun mode track => if_pos (writes_iff.2 ⟨mode, track⟩), fun _ no => absurd no (by decide), fun no _ => ?_, rfl, rfl, rfl⟩
    exact if_neg no

/-- The steps of a break read the latched setup and the record's words but STATUS. -/
theorem Channel.break_congr {c c₁ : Channel} (setup : c₁.ctl.setup = c.ctl.setup)
    (words : ∀ w, w ≠ .status → c₁.word w = c.word w) (req : DeviceRequest) (a : Addr) :
    c₁.strideLeaves req = c.strideLeaves req ∧ c₁.lineAddress = c.lineAddress ∧
      c₁.progressAtGrant req a = c.progressAtGrant req a := by
  have mode : c₁.mode = c.mode := by rw [Channel.mode, setup, Channel.mode]
  have track : c₁.track = c.track := by rw [Channel.track, setup, Channel.track]
  have address : c₁.lineAddress = c.lineAddress := congrArg addrOf (words .address (by decide))
  have steps : c₁.stepsAddress req = c.stepsAddress req := by
    rw [Channel.stepsAddress, mode, words .control (by decide), Channel.stepsAddress]
  have range : c₁.strideInRange = c.strideInRange := by
    rw [Channel.strideInRange, Channel.strideSum, address, words .control (by decide)]
    rfl
  refine ⟨by rw [Channel.strideLeaves, steps, range, Channel.strideLeaves], address, ?_⟩
  rw [Channel.progressAtGrant, Channel.addressSteps, Channel.writesAddress, steps, range, mode, track,
    words .count (by decide), words .address (by decide), words .done (by decide)]
  rfl

/-! ## The grant up to its group -/

/-- The steps of a break (R93 steps 4 and 5): the line steps, the slot keeps the
values before, and a step that leaves the address space pends its fault. -/
theorem State.stepBreak_of_valid {s : State} {n : ChanId} {req : DeviceRequest} {v : ValidLine}
    (line : (s.chan n).line = .valid v) (state : (s.chan n).ctl.state ≠ .faulted) :
    ∃ v', BreakSteps (s.chan n) req v v' ∧ ∀ a, s.stepBreak n req a = s.setChan n
      { s.chan n with
        ctl := { (s.chan n).ctl with
          pendingFault :=
            if (s.chan n).strideLeaves req then
              some ((s.chan n).ctl.pendingFault.getD (.of .addressRange (s.chan n).lineAddress))
            else (s.chan n).ctl.pendingFault }
        port := .granted req ((s.chan n).progressAtGrant req a)
        line := .valid v' } := by
  obtain ⟨v', eq, steps⟩ := Channel.stepLine_of_valid line req
  refine ⟨v', steps, fun a => ?_⟩
  have stepped : (s.modChan n fun c =>
      { c.stepLine req with port := .granted req ((s.chan n).progressAtGrant req a) }) =
      s.setChan n { s.chan n with port := .granted req ((s.chan n).progressAtGrant req a), line := .valid v' } := by
    simp only [State.modChan, eq]
  unfold State.stepBreak
  simp only [stepped]
  split
  · rw [State.faultArise_pends (by rw [State.chan_setChan_self]; exact state)
      (.inl (by rw [State.chan_setChan_self]; rfl))]
    unfold State.modCtl State.modChan
    rw [State.chan_setChan_self, State.setChan_setChan]
  · rfl

/-- A granted break that passes its checks: the device's answer has left, and channel n alone has changed, by
`Channel.broken`. -/
theorem State.stepBreak_atGrant {s : State} {n : ChanId} {req : DeviceRequest} {v : ValidLine}
    (line : (s.chan n).line = .valid v)
    (state : (s.chan n).ctl.state = .pending ∨ (s.chan n).ctl.state = .draining) :
    ∃ v', BreakSteps (s.chan n) req v v' ∧ ∀ a,
      ((s.modChan n fun c => c.atGrant req s.mgmt.quietInterval).answer n .granted).stepBreak n req a =
        (s.answer n .granted).setChan n ((s.chan n).broken req s.mgmt.quietInterval a v') := by
  obtain ⟨v₁, eq, status⟩ := Channel.atGrant_of_valid line req s.mgmt.quietInterval
  have chan : ((s.modChan n fun c => c.atGrant req s.mgmt.quietInterval).answer n .granted).chan n =
      (s.chan n).atGrant req s.mgmt.quietInterval :=
    s.chan_modChan_self n fun c => c.atGrant req s.mgmt.quietInterval
  rw [eq] at chan
  have valid := congrArg Channel.line chan
  have going : (((s.modChan n fun c => c.atGrant req s.mgmt.quietInterval).answer n .granted).chan n).ctl.state ≠
      .faulted := by
    rw [chan]
    rcases state with state | state <;> simp [state]
  obtain ⟨v', steps, stepped⟩ := State.stepBreak_of_valid (req := req) valid going
  simp only [chan] at steps stepped
  refine ⟨v', ?_, fun a => (stepped a).trans ?_⟩
  · rcases status with rfl | ⟨x, rfl⟩ <;> exact steps
  · have set : ∀ c, (((s.modChan n fun c => c.atGrant req s.mgmt.quietInterval).answer n .granted).setChan n c) =
        (s.answer n .granted).setChan n c := fun c =>
      congrArg (fun u : State => u.answer n .granted) (s.setChan_setChan n _ c)
    rw [set]
    refine congrArg _ ?_
    have words : ∀ w, w ≠ .status → v₁.words.get w = (s.chan n).word w := fun w hw => by
      rw [Channel.word_of_valid line]
      rcases status with rfl | ⟨x, rfl⟩
      · rfl
      · exact Record.get_set_status _ _ hw
    obtain ⟨leaves, address, slot⟩ := Channel.break_congr (c := s.chan n)
      (c₁ := (s.chan n).atGrant req s.mgmt.quietInterval)
      (by rw [eq]) (fun w hw => by rw [eq]; exact words w hw) req a
    rw [eq] at leaves address slot
    rw [leaves, address, slot]
    rfl

section
variable {s : State} {n : ChanId} {req : DeviceRequest} {v : ValidLine} (accepted : (s.chan n).port = .accepted req)
  (line : (s.chan n).line = .valid v) (count : countOf v.words.count ≠ 0#24)
include accepted line count

/-- A break with COUNT above 0 goes on by its mode (R93 to R95). -/
theorem State.grantBreak_by_mode :
    let u := (s.modChan n fun c => c.atGrant req s.mgmt.quietInterval).answer n .granted
    ((s.chan n).mode ≠ .cell → s.grantBreak n =
      u.grantDirect n req (if (s.chan n).mode = .direct then req.address else addrOf v.words.address)) ∧
    ((s.chan n).mode = .cell → s.grantBreak n = u.grantCell n req (Fin.ofNat 16 v.words.address.toNat)) := by
  intro u
  obtain ⟨v₁, eq, status⟩ := Channel.atGrant_of_valid line req s.mgmt.quietInterval
  have chan : u.chan n = (s.chan n).atGrant req s.mgmt.quietInterval :=
    s.chan_modChan_self n fun c => c.atGrant req s.mgmt.quietInterval
  have words : ∀ w, w ≠ .status → (u.chan n).word w = v.words.get w := fun w hw => by
    rw [chan, eq]
    rcases status with rfl | ⟨x, rfl⟩
    · rfl
    · exact Record.get_set_status _ _ hw
  have mode : (u.chan n).mode = (s.chan n).mode := by
    rw [chan, eq]
    rfl
  have some : (u.chan n).count ≠ 0#24 := by
    rw [Channel.count, words .count (by decide)]
    exact count
  have go : s.grantBreak n = match (u.chan n).mode with
      | .counted => u.grantDirect n req (u.chan n).lineAddress
      | .direct => u.grantDirect n req req.address
      | .cell => u.grantCell n req (u.chan n).cellIndex := by
    unfold State.grantBreak
    rw [accepted]
    exact if_neg some
  rw [go, mode, Channel.lineAddress, Channel.cellIndex, words .address (by decide)]
  cases (s.chan n).mode with
  | cell => exact ⟨fun no => absurd rfl no, fun _ => rfl⟩
  | counted => exact ⟨fun _ => rfl, fun no => nomatch no⟩
  | direct => exact ⟨fun _ => rfl, fun no => nomatch no⟩

end

theorem breakRunAfter_brk (n : ChanId) (run : Nat) : breakRunAfter (.brk n) run = min (run + 1) 15 := by
  change (if run < 15 then run + 1 else 15) = _
  split <;> omega

/-- A break whose checks pass: its group starts on the state that `Channel.broken` describes. -/
structure BreakIssued (s t : State) (n : ChanId) (req : DeviceRequest) (v' : ValidLine) (dataAddr : Addr) (a : Access)
    (rest : List Access) (fetch : Option Fetch) : Prop where
  inflight : t.mport.inflight = s.mport.inflight ++
    [{ owner := a.owner, kind := a.kind, addr := a.addr, lanes := a.lanes, orphan := false }]
  lock : t.mport.lock =
    if rest.isEmpty && fetch.isNone then none else some { source := .brk n, todo := rest, fetch := fetch }
  out : t.out = s.out ++ [.answer n .granted, a.message]
  chan : t.chan n = (s.chan n).broken req s.mgmt.quietInterval dataAddr v'
  others : ∀ m, m ≠ n → t.chan m = s.chan m
  cells : t.cells = s.cells
  pass : t.pass = s.pass
  breakRun : t.arb.breakRun = min (s.arb.breakRun + 1) 15
  only : s.OnlyDisableAdvances t

theorem State.exec_grant_broken {s : State} {n : ChanId} {req : DeviceRequest} {v' : ValidLine} {dataAddr : Addr}
    {a : Access} {rest : List Access} {fetch : Option Fetch} (h : s.Grants (.brk n))
    (performed : (s.arbitrated (.brk n)).grantBreak n =
      (((s.arbitrated (.brk n)).answer n .granted).setChan n
        ((s.chan n).broken req s.mgmt.quietInterval dataAddr v')).startGroup (.brk n) (a :: rest) fetch) :
    ∃ t, exec .grantDecision s = .next t ∧ BreakIssued s t n req v' dataAddr a rest fetch := by
  obtain ⟨t, run, issued⟩ := State.exec_grant_group h performed
  refine ⟨t, run, issued.inflight, issued.lock, issued.out.trans (by simp [State.answer, State.arbitrated]), ?_,
    fun m hm => ?_, issued.cells, issued.pass, ?_, issued.onlyDisableAdvances rfl rfl⟩
  · rw [issued.chan, State.chan_setChan_self]
  · rw [issued.chan, State.chan_setChan_other _ _ hm]
    rfl
  · rw [issued.arb]
    exact breakRunAfter_brk n _

section
variable {s t : State} {n : ChanId} {req : DeviceRequest} {v v' : ValidLine} {dataAddr : Addr} {a : Access}
  {rest : List Access} {fetch : Option Fetch}

/-- The record writes of a STRICT group carry the line's stepped values (R98, R99). -/
theorem State.strictWrites_of_valid (line : (s.chan n).line = .valid v) :
    s.strictWrites n = if (s.chan n).track = .strict then
      .ofWrite (.brk n .countWrite) (s.recordAddr n .count) v.words.count ::
        (if (s.chan n).mode = .counted then
          [.ofWrite (.brk n .addressWrite) (s.recordAddr n .address) v.words.address] else [])
      else [] := by
  unfold State.strictWrites
  simp only [Channel.word_of_valid line]
  rfl

/-- The grant of a COUNTED or DIRECT break whose data address is outside the window (R93, R95, R98). -/
theorem State.exec_grant_direct (h : s.Grants (.brk n)) (accepted : (s.chan n).port = .accepted req)
    (line : (s.chan n).line = .valid v) (state : (s.chan n).ctl.state = .pending ∨ (s.chan n).ctl.state = .draining)
    (count : countOf v.words.count ≠ 0#24) (mode : (s.chan n).mode ≠ .cell)
    (addr : dataAddr = if (s.chan n).mode = .direct then req.address else addrOf v.words.address)
    (outside : s.inWindow dataAddr = false) :
    ∃ t v', exec .grantDecision s = .next t ∧ BreakSteps (s.chan n) req v v' ∧
      BreakIssued s t n req v' dataAddr (dataAccess n req req.direction dataAddr)
        (if (s.chan n).track = .strict then
          .ofWrite (.brk n .countWrite) (s.recordAddr n .count) v'.words.count ::
            (if (s.chan n).mode = .counted then
              [.ofWrite (.brk n .addressWrite) (s.recordAddr n .address) v'.words.address] else [])
          else []) none := by
  obtain ⟨v', steps, stepped⟩ := State.stepBreak_atGrant (s := s.arbitrated (.brk n)) (req := req) line state
  have performed := (State.grantBreak_by_mode (s := s.arbitrated (.brk n)) accepted line count).1 mode
  rw [State.grantDirect, show (s.arbitrated (.brk n)).chan n = s.chan n from rfl, ← addr, if_neg] at performed
  · simp only [stepped] at performed
    rw [State.strictWrites_of_valid (v := v') (by rw [State.chan_setChan_self]; rfl), State.chan_setChan_self] at performed
    obtain ⟨t, run, issued⟩ := State.exec_grant_broken h performed
    exact ⟨t, v', run, steps, issued⟩
  · exact Bool.eq_false_iff.1 outside

theorem State.grantCell_of_live {k : CellId} {f : CellFields} (live : (s.cell k).cstate = .live f) :
    s.grantCell n req k = (s.stepBreak n req (s.cell k).address).startGroup (.brk n)
      [.ofRead (.brk n .cellRead) (s.cell k).address]
      (some { cell := k, addr := (s.cell k).address, fields := f }) := by
  unfold State.grantCell
  rw [live]

/-- The grant of a CELL break whose cell is LIVE (R93, R95, R100). -/
theorem State.exec_grant_cell {f : CellFields} {k : CellId} (h : s.Grants (.brk n))
    (accepted : (s.chan n).port = .accepted req) (line : (s.chan n).line = .valid v)
    (state : (s.chan n).ctl.state = .pending ∨ (s.chan n).ctl.state = .draining)
    (count : countOf v.words.count ≠ 0#24) (mode : (s.chan n).mode = .cell)
    (named : k = Fin.ofNat 16 v.words.address.toNat) (live : (s.cell k).cstate = .live f) :
    ∃ t v', exec .grantDecision s = .next t ∧ BreakSteps (s.chan n) req v v' ∧
      BreakIssued s t n req v' (s.cell k).address (.ofRead (.brk n .cellRead) (s.cell k).address) []
        (some { cell := k, addr := (s.cell k).address, fields := f }) := by
  obtain ⟨v', steps, stepped⟩ := State.stepBreak_atGrant (s := s.arbitrated (.brk n)) (req := req) line state
  have performed := (State.grantBreak_by_mode (s := s.arbitrated (.brk n)) accepted line count).2 mode
  rw [← named, State.grantCell_of_live (f := f) (by exact live), stepped] at performed
  obtain ⟨t, run, issued⟩ := State.exec_grant_broken h performed
  exact ⟨t, v', run, steps, issued⟩

end

/-! ## What a granted break leaves, in the words of the statements -/

section
variable {c : Channel} {v : ValidLine} (line : c.line = .valid v) (req : DeviceRequest) (interval : BitVec 12)
  (a : Addr) (v' : ValidLine)

theorem Channel.broken_state (state : c.ctl.state = .pending ∨ c.ctl.state = .draining) :
    (c.broken req interval a v').ctl.state = if c.ctl.state = .pending then .moving else .draining := by
  rcases state with state | state <;> simp [Channel.broken, state]

include line

/-- The slot keeps COUNT, ADDRESS and DONE as they were (R96, R102). -/
theorem Channel.broken_slot :
    ∃ g, (c.broken req interval a v').port = .granted req g ∧ g.result = .outstanding ∧ g.stepped = true ∧
      g.dataAddr = a ∧ g.prevCount = v.words.count ∧ g.prevAddress = v.words.address ∧ g.prevDone = v.words.done ∧
      g.countReplaced = false ∧ g.addressReplaced = false ∧
      g.addressTouched = (c.addressSteps req || c.writesAddress) :=
  ⟨_, rfl, rfl, rfl, rfl, Channel.word_of_valid line _, Channel.word_of_valid line _, Channel.word_of_valid line _,
    rfl, rfl, rfl⟩

end

/-- Settles O26: the checks pass, the line steps, and the group starts with the data access. -/
theorem breakGrantStepsAndIssuesTheData : Obligations.BreakGrantStepsAndIssuesTheData := by
  intro n req v s h accepted line state count mode c a sum leaves outside
  obtain ⟨t, v', run, steps, issued⟩ := State.exec_grant_direct (dataAddr := a) h accepted line state count mode rfl outside
  have leaves_iff : c.strideLeaves req = true ↔ leaves := Channel.strideLeaves_iff line req
  obtain ⟨g, port, result, stepped, dataAddr, prevCount, prevAddress, prevDone, countReplaced, addressReplaced,
    touched⟩ := Channel.broken_slot line req s.mgmt.quietInterval a v'
  refine ⟨t, v', run, by rw [issued.chan]; rfl, steps, ?_, ?_, ?_,
    ⟨g, by rw [issued.chan, port], result, dataAddr, stepped, prevCount, prevAddress, prevDone, countReplaced,
      addressReplaced, ?_⟩, by rw [issued.chan, Channel.broken_state _ _ _ _ state], by rw [issued.chan]; rfl,
    fun stays => ?_, fun goes => ?_, issued.breakRun, issued.others, issued.cells, issued.pass, issued.only⟩
  · rw [issued.out]
    cases req.direction <;> rfl
  · rw [issued.inflight]
    cases req.direction <;> rfl
  · rw [issued.lock]
    by_cases strict : (s.chan n).track = .strict
    · rw [if_pos strict, if_pos strict]
      rfl
    · rw [if_neg strict, if_neg strict]
      rfl
  · rw [touched, Bool.or_eq_true, Channel.addressSteps_iff line, Channel.writesAddress_iff]
    tauto
  · rw [issued.chan]
    exact if_neg (leaves_iff.not.2 stays)
  · rw [issued.chan]
    exact (if_pos (leaves_iff.2 goes)).trans (by rw [Channel.lineAddress_of_valid line]; rfl)

/-- Settles O28: the cell is LIVE, the line steps, and the group starts with the cell read, for which the lock waits. -/
theorem cellBreakGrantIssuesTheCellRead : Obligations.CellBreakGrantIssuesTheCellRead := by
  intro n req v f s h accepted line state count mode c k live
  obtain ⟨t, v', run, steps, issued⟩ := State.exec_grant_cell h accepted line state count mode rfl live
  obtain ⟨g, port, result, stepped, dataAddr, prevCount, prevAddress, prevDone, countReplaced, addressReplaced,
    touched⟩ := Channel.broken_slot line req s.mgmt.quietInterval (s.cell k).address v'
  have notCounted : ¬ c.mode = .counted := by
    rw [show c.mode = .cell from mode]
    decide
  refine ⟨t, v', run, by rw [issued.chan]; rfl, steps, issued.out, issued.inflight, issued.lock,
    ⟨g, by rw [issued.chan, port], result, stepped, dataAddr, prevCount, prevAddress, prevDone, countReplaced,
      addressReplaced, ?_⟩, by rw [issued.chan]; rfl, issued.breakRun,
    by rw [issued.chan, Channel.broken_state _ _ _ _ state], ?_, issued.others, issued.cells, issued.pass, issued.only⟩
  · rw [touched, Bool.or_eq_false_iff, ← Bool.not_eq_true, ← Bool.not_eq_true, Channel.addressSteps_iff line,
      Channel.writesAddress_iff]
    exact ⟨fun both => notCounted both.1, fun both => notCounted both.1⟩
  · rw [issued.chan]
    exact if_neg fun leaves => notCounted ((Channel.strideLeaves_iff line req).1 leaves).1

end Sys2Proof.Machine
end

section
/-! PROOFS. Passing writes of record words at their grant, by the state of the line (R42, R44, R47, R48, R52, R64 to R66,
R102, R112). -/

namespace Sys2Proof.Machine

/-! ## Settle where nothing waits (R65) -/

theorem State.takeUntaken_of_nothing {s : State} {n : ChanId}
    (h : (s.chan n).untaken = 0#3 ∨ (s.chan n).canTake = false) : s.takeUntaken n = s := by
  unfold State.takeUntaken
  refine if_neg fun takes => ?_
  rcases h with h | h
  · exact takes.2 h
  · rw [h] at takes
    cases takes.1

theorem State.considerHeld_of_noHeld {s : State} {n : ChanId} (h : (s.chan n).NoHeld) : s.considerHeld n = s := by
  unfold State.considerHeld
  simp only
  split
  · rename_i req port
    exact absurd port (h req)
  · rfl

/-- No command can be taken and no request is held. -/
theorem State.settle_of_nothing {s : State} {n : ChanId}
    (h : (s.chan n).untaken = 0#3 ∨ (s.chan n).canTake = false) (held : (s.chan n).NoHeld) : s.settle n = s := by
  rw [State.settle, State.takeUntaken_of_nothing h, State.considerHeld_of_noHeld held]

/-! ## A waiting writeback whose words are clean (R52) -/

theorem State.withdrawClean_of_clean {s : State} {n : ChanId} {v : ValidLine} (h : (s.chan n).line = .valid v)
    (claimed : v.wbPhase = .claimed) (clean : v.dirty.any = false) :
    s.withdrawClean n = (s.withdraw fun k => k == .writeback n).endWriteback n none := by
  unfold State.withdrawClean
  rw [h]
  exact if_pos ⟨claimed, clean⟩

theorem State.withdrawClean_of_rest {s : State} {n : ChanId} {v : ValidLine} (h : (s.chan n).line = .valid v)
    (rest : v.wbPhase ≠ .claimed ∨ v.dirty.any = true) : s.withdrawClean n = s := by
  unfold State.withdrawClean
  rw [h]
  refine if_neg fun both => ?_
  rcases rest with rest | rest
  · exact rest both.1
  · rw [rest] at both
    cases both.2

/-! ## What a write does to the parts of a channel -/

theorem carriesCommand_iff (l : Lanes) (d : Word) :
    carriesCommand l d = true ↔ l.getLsbD 1 = true ∧ commandOf d ≠ 0#3 := by
  simp [carriesCommand]

theorem markAfterWrite_eq (l : Lanes) (was : Bool) : markAfterWrite l was = (was && l != 0xF#4) := by
  unfold markAfterWrite allLanes
  split <;> simp [*]

/-- The words that a passing write can change: COUNT, ADDRESS, CHAIN and COOKIE (R42). -/
def RecWord.shared (w : RecWord) : Prop := w = .count ∨ w = .address ∨ w = .chain ∨ w = .cookie

/-- A write joins the overlay of its own word (R112). -/
theorem LinkOverlay.merge_eq (o : LinkOverlay) (w : RecWord) (l : Lanes) (d : Word) :
    o.merge w l d =
      { count := if w = .count then o.count.merge l d else o.count
        address := if w = .address then o.address.merge l d else o.address
        chain := if w = .chain then o.chain.merge l d else o.chain } := by
  cases w <;> rfl

/-- A write joins the overlay of its own word, or sets its written-since mark (R48). -/
theorem FillOverlay.merge_eq (o : FillOverlay) (w : RecWord) (l : Lanes) (d : Word) :
    o.merge w l d =
      { count := if w = .count then o.count.merge l d else o.count
        address := if w = .address then o.address.merge l d else o.address
        control := if w = .control then o.control.merge l d else o.control
        chain := if w = .chain then o.chain.merge l d else o.chain
        cookie := if w = .cookie then o.cookie.merge l d else o.cookie
        status := o.status || w == .status
        done := o.done || w == .done
        segments := o.segments || w == .segments } := by
  cases w <;> simp [FillOverlay.merge]

/-- A write with some lane enabled is noted in the slot of a granted break (R102; log 16). -/
theorem Port.noteWrite_granted (r : DeviceRequest) (g : BreakProgress) (w : RecWord) (l : Lanes) :
    (Port.granted r g).noteWrite w l = .granted r
      { g with countReplaced := g.countReplaced || (w == .count && l != 0#4)
               addressReplaced := g.addressReplaced || (w == .address && l != 0#4) } := by
  unfold Port.noteWrite
  by_cases none : l = 0#4
  · simp [none]
  · cases w <;> simp [none, beq_eq_decide]

theorem Walker.overlayWrite_of_not_shared (wk : Walker) {w : RecWord} (h : ¬ w.shared) (l : Lanes) (d : Word) :
    wk.overlayWrite w l d = wk := by
  simp only [RecWord.shared, not_or] at h
  obtain ⟨count, address, chain, -⟩ := h
  unfold Walker.overlayWrite
  split
  · rename_i phase
    rw [LinkOverlay.merge_eq, if_neg count, if_neg address, if_neg chain, ← phase]
  · rfl

theorem Port.noteWrite_of_not_shared (p : Port) {w : RecWord} (h : ¬ w.shared) (l : Lanes) : p.noteWrite w l = p := by
  simp only [RecWord.shared, not_or] at h
  obtain ⟨count, address, -⟩ := h
  cases p with
  | granted r g => simp [Port.noteWrite_granted, beq_eq_decide, count, address]
  | _ => rfl

/-- The line after a passing write of a word other than CONTROL: a shared word takes the lanes (R42), another keeps its
value and is marked dirty (R44). -/
def ValidLine.written (v : ValidLine) (w : RecWord) (l : Lanes) (d : Word) : ValidLine :=
  if w = .count ∨ w = .address ∨ w = .chain ∨ w = .cookie then v.writeWord w l d else v.mark w

theorem ValidLine.written_eq (v : ValidLine) (w : RecWord) (l : Lanes) (d : Word) :
    v.written w l d =
      { v with
        words := if w = .count ∨ w = .address ∨ w = .chain ∨ w = .cookie then v.words.set w (lay l d (v.words.get w))
          else v.words
        dirty := v.dirty.set w (if w = .count ∨ w = .address ∨ w = .chain ∨ w = .cookie
          then (v.dirty.get w && l != 0xF#4) else true) } := by
  unfold ValidLine.written
  split
  · rw [ValidLine.writeWord, markAfterWrite_eq]
  · rfl

/-- A passing write of a word other than CONTROL, with the overlay of a granted link and the slot of a granted break. -/
theorem State.writeValid_of_valid {s : State} {n : ChanId} {v : ValidLine} {w : RecWord}
    (h : (s.chan n).line = .valid v) (hw : w ≠ .control) (l : Lanes) (d : Word) :
    s.writeValid n w l d = s.setChan n
      { s.chan n with line := .valid (v.written w l d), walker := (s.chan n).walker.overlayWrite w l d
                      port := (s.chan n).port.noteWrite w l } := by
  have shared : ∀ u : RecWord, u = .count ∨ u = .address ∨ u = .chain ∨ u = .cookie →
      s.modChan n (fun c => c.writeWord u l d) = s.setChan n
        { s.chan n with line := .valid (v.written u l d), walker := (s.chan n).walker.overlayWrite u l d
                        port := (s.chan n).port.noteWrite u l } := fun u hu => by
    simp only [State.modChan, Channel.writeWord, Channel.modLine_of_valid h, ValidLine.written, if_pos hu]
  have marked : ∀ u : RecWord, ¬ u.shared → s.modChan n (fun c => c.modLine fun v => v.mark u) = s.setChan n
        { s.chan n with line := .valid (v.written u l d), walker := (s.chan n).walker.overlayWrite u l d
                        port := (s.chan n).port.noteWrite u l } := fun u hu => by
    rw [Walker.overlayWrite_of_not_shared _ hu, Port.noteWrite_of_not_shared _ hu, ValidLine.written,
      if_neg (by exact hu), State.modChan, Channel.modLine_of_valid h]
  cases w with
  | control => exact absurd rfl hw
  | count => exact shared .count (by decide)
  | address => exact shared .address (by decide)
  | chain => exact shared .chain (by decide)
  | cookie => exact shared .cookie (by decide)
  | status => exact marked .status (by simp [RecWord.shared])
  | done => exact marked .done (by simp [RecWord.shared])
  | segments => exact marked .segments (by simp [RecWord.shared])

/-! ## The lines that are not VALID (R47, R48, R66) -/

theorem State.recordWrite_of_filling {s : State} {n : ChanId} {p : FillPhase} {waiting : CommandCode}
    (h : (s.chan n).line = .filling p waiting) (w : RecWord) (l : Lanes) (d : Word) :
    s.recordWrite n w l d =
      s.setChan n { s.chan n with line := .filling (p.write w l d) (waitingAfterWrite waiting w l d) } := by
  unfold State.recordWrite
  rw [h]
  rfl

theorem State.recordWrite_of_invalid {s : State} {n : ChanId} (h : (s.chan n).line = .invalid) (w : RecWord) (l : Lanes)
    (d : Word) :
    s.recordWrite n w l d = if w = .control ∧ carriesCommand l d = true
      then (s.setChan n { s.chan n with ctl := { (s.chan n).ctl with mailbox := commandOf d } }).settle n else s := by
  unfold State.recordWrite
  rw [h]
  simp only [State.offerCommand, Channel.placeCommand, State.modChan, h]

theorem State.recordWrite_of_valid {s : State} {n : ChanId} {v : ValidLine} (h : (s.chan n).line = .valid v)
    (w : RecWord) (l : Lanes) (d : Word) :
    s.recordWrite n w l d = (s.writeValid n w l d).withdrawClean n := by
  unfold State.recordWrite
  rw [h]

/-- Settles O20: one rule per state of the line, each the write's effect on the channel's parts. -/
theorem recordWriteByLineState : Obligations.RecordWriteByLineState := by
  intro n w l d s carries withLine joined overlay walker port
  have carries_iff : (w = .control ∧ carriesCommand l d = true) ↔ carries := and_congr_right' (carriesCommand_iff l d)
  have waits : ∀ waiting, waitingAfterWrite waiting w l d = if carries then commandOf d else waiting := fun waiting => by
    unfold waitingAfterWrite
    simp only [carries_iff]
  have walker_eq : (s.chan n).walker.overlayWrite w l d = walker := by
    unfold Walker.overlayWrite
    simp only [LinkOverlay.merge_eq]
    rfl
  have port_eq : (s.chan n).port.noteWrite w l = port := by
    cases h : (s.chan n).port with
    | granted r g => simp only [Port.noteWrite_granted, port, h]
    | _ => simp only [port, h, Port.noteWrite]
  refine ⟨?_, fun waiting line => ?_, ?_, fun line not => ?_, fun line does => ?_, fun line does no held => ?_⟩
  · intro v line hw shared mark v' c
    have written : s.writeValid n w l d = s.setChan n c := by
      rw [State.writeValid_of_valid line hw, walker_eq, port_eq, ValidLine.written_eq]
    have line' : ((s.setChan n c).chan n).line = .valid v' := by rw [State.chan_setChan_self]
    rw [State.recordWrite_of_valid line, written]
    exact ⟨fun rest => State.withdrawClean_of_rest line' rest, fun claimed clean =>
      State.withdrawClean_of_clean line' claimed clean⟩
  · rw [State.recordWrite_of_filling line, waits]
    rfl
  · intro ws o waiting line o'
    rw [State.recordWrite_of_filling line, waits, FillPhase.write, FillOverlay.merge_eq]
    rfl
  · rw [State.recordWrite_of_invalid line, if_neg (carries_iff.not.2 not)]
  · rw [State.recordWrite_of_invalid line, if_pos (carries_iff.2 does)]
  · rw [State.recordWrite_of_invalid line, if_pos (carries_iff.2 does), State.settle_of_nothing]
    · exact .inr (by rw [State.chan_setChan_self]; exact no)
    · rw [State.chan_setChan_self]
      exact held

end Sys2Proof.Machine
end

section
/-! PROOFS. Refusals (R76, R81), the line and the port of a channel that is FAULTED (R78), and the command that a row places
(R64, R66). -/

namespace Sys2Proof.Machine

/-! ## Refusals -/

/-- The COMMAND_REFUSED of channel n (R81). -/
def State.refusalEvent (s : State) (n : ChanId) (code : CommandCode) (r : RefusalReason) : Event :=
  { kind := .commandRefused, source := BitVec.ofNat 4 n.val, word1 := (s.chan n).cookie,
    detailA := refusedDetail code r, detailB := (s.chan n).ctl.startCount.setWidth 32 }

theorem State.setRefusal_kept (s : State) (n : ChanId) (r : RefusalReason) : RecordKept n s (s.setRefusal n r) :=
  s.modStatus_kept n _

@[simp] theorem State.setRefusal_ctl (s : State) (n : ChanId) (r : RefusalReason) :
    ((s.setRefusal n r).chan n).ctl = { (s.chan n).ctl with lastRefusal := some r } := s.modStatus_ctl n _

/-- A refusal is a change of LAST_REFUSAL, then its event (R81). -/
theorem State.refuse_eq (s : State) (n : ChanId) (code : CommandCode) (r : RefusalReason) :
    s.refuse n code r = (s.setRefusal n r).createEvent n (s.refusalEvent n code r) := by
  have kept := s.setRefusal_kept n r
  unfold State.refuse State.channelEvent State.refusalEvent
  simp only [kept.cookie, kept.startCount]

theorem State.refuse_created (s : State) (n : ChanId) (code : CommandCode) (r : RefusalReason) :
    s.EventCreated (s.refuse n code r) n (s.refusalEvent n code r) := by
  rw [State.refuse_eq]
  exact ((s.setRefusal n r).createEvent_created n _).congr rfl (by rw [State.setRefusal_ctl]) rfl rfl

/-- A refusal changes LAST_REFUSAL, STATUS and the stalled slot of channel n. -/
theorem State.refuse_chan (s : State) (n : ChanId) (code : CommandCode) (r : RefusalReason) :
    ∃ slot, (s.refuse n code r).chan n =
      { (s.setRefusal n r).chan n with ctl := { (s.chan n).ctl with lastRefusal := some r, stalled := slot } } := by
  obtain ⟨slot, eq⟩ := (s.setRefusal n r).createEvent_chan n (s.refusalEvent n code r)
  exact ⟨slot, by rw [State.refuse_eq, eq, State.setRefusal_ctl]⟩

theorem State.setRefusal_line {s : State} {n : ChanId} {v : ValidLine} (h : (s.chan n).line = .valid v)
    (r : RefusalReason) :
    ((s.setRefusal n r).chan n).line =
      .valid (v.put .status { (s.chan n).ctl with lastRefusal := some r : Controller }.statusWord) :=
  State.modStatus_line h _

/-! ## The entry to FAULTED -/

/-- A trigger leaves the words and the marks of a VALID line. -/
theorem State.triggerWriteback_line {s : State} {n : ChanId} {v : ValidLine} (h : (s.chan n).line = .valid v)
    (w : WbServes) :
    ∃ v', ((s.triggerWriteback n w).chan n).line = .valid v' ∧ v'.words = v.words ∧ v'.dirty = v.dirty := by
  obtain ⟨-, -, eq⟩ | ⟨-, -, eq⟩ | ⟨-, eq⟩ | ⟨-, -, -, eq⟩ := State.triggerWriteback_cases h w
  · exact ⟨{ v with wbPhase := .claimed, serves := w }, by rw [eq, State.chan_raise, State.chan_modChan_self], rfl, rfl⟩
  · exact ⟨v, by rw [eq, h], rfl, rfl⟩
  · exact ⟨{ v with serves := v.serves.join w }, by rw [eq, State.chan_modChan_self], rfl, rfl⟩
  · exact ⟨{ v with requested := some ((v.requested.getD .plain).join w) }, by rw [eq, State.chan_modChan_self], rfl, rfl⟩

theorem State.faultTaken_line {s : State} {n : ChanId} {v : ValidLine} (h : (s.chan n).line = .valid v)
    (f : PendingFault) :
    ∃ x, ((s.faultTaken n f).chan n).line = .valid { v.put .status x with
      serves := v.serves.afterFault, requested := v.requested.map WbServes.afterFault } := by
  obtain ⟨-, line⟩ := s.failPort_dropLinkClaim n f.code
  rw [State.faultTaken, State.chan_modChan_self, Channel.forgetConsequence,
    Channel.modLine_of_valid (State.modStatus_line (line.trans h) _)]
  exact ⟨_, rfl⟩

/-- The entry to FAULTED leaves the line's words but STATUS, which is dirty, and its marks; one by a writeback failure leaves
the writeback phase too (R54, R78). -/
theorem State.enterFaulted_line {s : State} {n : ChanId} {v : ValidLine} (h : (s.chan n).line = .valid v)
    (f : PendingFault) :
    ∃ v', ((s.enterFaulted n f).chan n).line = .valid v' ∧ v'.words = { v.words with status := v'.words.status } ∧
      v'.dirty = { v.dirty with status := true } ∧ (f.noWriteback = true → v'.wbPhase = v.wbPhase) := by
  obtain ⟨x, taken⟩ := State.faultTaken_line h f
  obtain ⟨slot, eq⟩ := (s.faultTaken n f).createEvent_chan n (s.faultEvent n f.code f.address)
  have line : (((s.faultTaken n f).createEvent n (s.faultEvent n f.code f.address)).chan n).line = .valid
      { v.put .status x with serves := v.serves.afterFault, requested := v.requested.map WbServes.afterFault } := by
    rw [eq, taken]
  rw [State.enterFaulted_eq]
  split
  · exact ⟨_, line, rfl, rfl, fun _ => rfl⟩
  · rename_i writes
    obtain ⟨v', line', words, dirty⟩ := State.triggerWriteback_line line .plain
    exact ⟨v', line', by rw [words]; rfl, by rw [dirty]; rfl, fun no => absurd no writes⟩

theorem State.failPort_noHeld (s : State) (n : ChanId) (code : FaultCode) : ((s.failPort n code).chan n).NoHeld := by
  intro req
  unfold State.failPort
  split
  · rw [State.closePort_chan]
    nofun
  · rw [State.closePort_chan]
    nofun
  · rename_i not
    exact not req

/-- The entry to FAULTED answers the request of the port, so that none stays held (R78). -/
theorem State.enterFaulted_noHeld (s : State) (n : ChanId) (f : PendingFault) :
    ((s.enterFaulted n f).chan n).NoHeld := by
  obtain ⟨w, drop⟩ := (s.failPort n f.code).dropLinkClaim_chan n
  have taken : ((s.faultTaken n f).chan n).port = ((s.failPort n f.code).chan n).port := by
    rw [State.faultTaken, State.chan_modChan_self, Channel.forgetConsequence, Channel.modLine_port, State.modStatus_port,
      drop]
  obtain ⟨slot, eq⟩ := (s.faultTaken n f).createEvent_chan n (s.faultEvent n f.code f.address)
  have port : ((s.enterFaulted n f).chan n).port = ((s.failPort n f.code).chan n).port := by
    rw [State.enterFaulted_eq]
    split
    · rw [eq, taken]
    · obtain ⟨⟨l, trigger⟩, -⟩ := ((s.faultTaken n f).createEvent n
        (s.faultEvent n f.code f.address)).triggerWriteback_leaves n .plain
      rw [State.triggerPlain, trigger, eq, taken]
  unfold Channel.NoHeld
  rw [port]
  exact s.failPort_noHeld n f.code

/-! ## Commands that are placed (R64, R66) -/

/-- A command is placed where it stands already, and then taken: the mark of CONTROL alone is set, as the taking does
(R45, R64). -/
theorem Channel.emptyMailbox_placeCommand {c : Channel} :
    (c.placeCommand c.untaken).emptyMailbox = c.emptyMailbox := by
  obtain ⟨ctl, port, line, quiet, walker⟩ := c
  cases line with
  | invalid => rfl
  | filling p waiting => rfl
  | valid v =>
    have stands : setCommand (commandOf v.words.control) v.words.control = v.words.control := setField_field 12 3 _
    simp only [Channel.placeCommand, Channel.untaken, Channel.emptyMailbox, stands]
    rfl

theorem Channel.untaken_placeCommand (c : Channel) (code : CommandCode) : (c.placeCommand code).untaken = code := by
  obtain ⟨ctl, port, line, quiet, walker⟩ := c
  cases line with
  | valid v => exact field_setField 12 3 code v.words.control (by decide)
  | _ => rfl

theorem Channel.canTake_placeCommand (c : Channel) (code : CommandCode) : (c.placeCommand code).canTake = c.canTake := by
  obtain ⟨ctl, port, line, quiet, walker⟩ := c
  cases line <;> rfl

theorem State.takeUntaken_of_command {s : State} {n : ChanId} (takes : (s.chan n).canTake = true)
    (command : (s.chan n).untaken ≠ 0#3) :
    s.takeUntaken n = (s.modChan n Channel.emptyMailbox).obey n (s.chan n).untaken := if_pos ⟨takes, command⟩

/-- A command that stands already as the untaken one is taken as it stands. -/
theorem State.offerCommand_of_untaken {s : State} {n : ChanId} (takes : (s.chan n).canTake = true)
    (command : (s.chan n).untaken ≠ 0#3) : s.offerCommand n (s.chan n).untaken = s.settle n := by
  have chan := s.chan_modChan_self n fun c => c.placeCommand (s.chan n).untaken
  have placed : (s.modChan n fun c => c.placeCommand (s.chan n).untaken).takeUntaken n = s.takeUntaken n := by
    rw [State.takeUntaken_of_command takes command, State.takeUntaken_of_command, chan, Channel.untaken_placeCommand]
    · congr 1
      simp only [State.modChan, State.chan_setChan_self, State.setChan_setChan, Channel.emptyMailbox_placeCommand]
    · rw [chan, Channel.canTake_placeCommand, takes]
    · rw [chan, Channel.untaken_placeCommand]
      exact command
  rw [State.offerCommand, State.settle, placed, State.settle]

end Sys2Proof.Machine
end

section
/-! PROOFS. Passing writes of CONTROL on a VALID line, with the setup lock and the STRIDE check (R43, R64, R65, R76 to
R78). -/

namespace Sys2Proof.Machine

/-! ## The word that a write of CONTROL leaves (R43) -/

/-- M with the line's setup fields where they are locked. -/
def controlMerged (prior : Word) (l : Lanes) (d : Word) (locked : Bool) : Word :=
  if locked then setField 0 6 (setupBits prior) (lay l d prior) else lay l d prior

theorem controlAfterWrite_eq (prior : Word) (l : Lanes) (d : Word) (locked : Bool) :
    controlAfterWrite prior l d locked =
      setCommand (if carriesCommand l d then commandOf d else commandOf prior) (controlMerged prior l d locked) := rfl

section
variable (prior : Word) (l : Lanes) (d : Word) (locked : Bool)

theorem setupBits_controlAfterWrite : setupBits (controlAfterWrite prior l d locked) =
    if locked then setupBits prior else setupBits (lay l d prior) := by
  rw [controlAfterWrite_eq, setupBits, setCommand, field_setField_apart _ _ _ _ _ _ (.inl (by decide))]
  unfold controlMerged
  split
  · exact field_setField 0 6 _ _ (by decide)
  · rfl

/-- STRIDE, EV_SEGMENT and the spare bits are taken as written. -/
theorem getLsbD_controlAfterWrite {i : Nat} (h : 6 ≤ i ∧ i ≤ 11 ∨ 15 ≤ i) :
    (controlAfterWrite prior l d locked).getLsbD i = (lay l d prior).getLsbD i := by
  rw [controlAfterWrite_eq, setCommand, getLsbD_setField, if_neg (by omega)]
  unfold controlMerged
  split
  · rw [getLsbD_setField, if_neg (by omega)]
  · rfl

theorem commandOf_controlAfterWrite : commandOf (controlAfterWrite prior l d locked) =
    if carriesCommand l d then commandOf d else commandOf prior :=
  field_setField 12 3 _ _ (by decide)

theorem strideValid_controlAfterWrite :
    strideValid (controlAfterWrite prior l d locked) = strideValid (lay l d prior) := by
  have stride : field 6 5 (controlAfterWrite prior l d locked) = field 6 5 (lay l d prior) := by
    apply BitVec.eq_of_getLsbD_eq
    intro i hi
    rw [getLsbD_field, getLsbD_field, getLsbD_controlAfterWrite _ _ _ _ (.inl (by omega))]
  rw [strideValid, strideOf, stride]
  rfl

end

/-- The code that a write carries, 0 where it carries none. -/
def writtenCode (l : Lanes) (d : Word) : CommandCode := if carriesCommand l d then commandOf d else 0#3

theorem writtenCode_eq (l : Lanes) (d : Word) :
    writtenCode l d = if l.getLsbD 1 = true then commandOf d else 0#3 := by
  unfold writtenCode carriesCommand
  cases l.getLsbD 1 with
  | false => rfl
  | true => by_cases none : commandOf d = 0#3 <;> simp [none]

/-! ## The lock, the fault and the states that they are checked in (R76, R77) -/

theorem ChanState.locksSetup_iff (st : ChanState) : st.locksSetup = true ↔
    st ∈ [ChanState.loading, .ready, .pending, .moving, .linking, .draining, .ending] := by
  cases st <;> simp [ChanState.locksSetup]

theorem ChanState.strideChecked_iff (st : ChanState) : st.strideChecked = true ↔
    st ∈ [ChanState.ready, .pending, .moving, .draining, .linking] := by
  cases st <;> simp [ChanState.strideChecked]

theorem Channel.setupLocked_iff {c : Channel} {v : ValidLine} (h : c.line = .valid v) (l : Lanes) (d : Word) :
    c.setupLocked l d = true ↔
      c.ctl.state ∈ [ChanState.loading, .ready, .pending, .moving, .linking, .draining, .ending] ∧
        setupBits (lay l d v.words.control) ≠ setupBits v.words.control := by
  rw [Channel.setupLocked, Channel.word_of_valid h, Bool.and_eq_true, ChanState.locksSetup_iff]
  simp [Record.get]

/-- The line's write, before the refusal, the fault and the command. -/
def State.controlWritten (s : State) (n : ChanId) (v : ValidLine) (l : Lanes) (d : Word) (locked : Bool) : State :=
  s.setChan n { s.chan n with line := .valid (v.writeControl l d locked) }

/-- A write of CONTROL is the line's write, the refusal of a locked setup, the STRIDE check, then settle, and a waiting
writeback whose words are clean ends (R43, R52, R65, R76, R77). -/
theorem State.recordWrite_control {s : State} {n : ChanId} {v : ValidLine} (h : (s.chan n).line = .valid v) (l : Lanes)
    (d : Word) :
    s.recordWrite n .control l d =
      ((((if (s.chan n).setupLocked l d then (s.controlWritten n v l d true).refuseSetup n (writtenCode l d)
        else s.controlWritten n v l d false).checkStride n).settle n).withdrawClean n) := by
  rw [State.recordWrite_of_valid h]
  have written : ∀ locked, s.modChan n (fun c => c.modLine fun v => v.writeControl l d locked) =
      s.controlWritten n v l d locked := fun locked => by
    rw [State.modChan, Channel.modLine_of_valid h]
    rfl
  simp only [State.writeValid, State.writeControl, written, writtenCode]
  cases (s.chan n).setupLocked l d with
  | true => simp only [if_true]
  | false => simp only [Bool.false_eq_true, if_false]

/-- Channel n of x has s's state, and the CONTROL that a write of it leaves. -/
structure ControlKept (s x : State) (n : ChanId) (v : ValidLine) (l : Lanes) (d : Word) : Prop where
  state : (x.chan n).ctl.state = (s.chan n).ctl.state
  control : ∃ locked, (x.chan n).word .control = (v.writeControl l d locked).words.control

theorem State.controlWritten_kept (s : State) (n : ChanId) (v : ValidLine) (l : Lanes) (d : Word) (locked : Bool) :
    ControlKept s (s.controlWritten n v l d locked) n v l d :=
  ⟨by rw [State.controlWritten, State.chan_setChan_self], locked, by rw [State.controlWritten, State.chan_setChan_self]; rfl⟩

theorem ControlKept.setRefusal {s x : State} {n : ChanId} {v : ValidLine} {l : Lanes} {d : Word}
    (h : ControlKept s x n v l d) (r : RefusalReason) : ControlKept s (x.setRefusal n r) n v l d :=
  ⟨by rw [State.setRefusal_ctl]; exact h.state, h.control.imp fun _ eq => by
    rw [(x.setRefusal_kept n r).words .control (by decide), eq]⟩

theorem ControlKept.refuse {s x : State} {n : ChanId} {v : ValidLine} {l : Lanes} {d : Word}
    (h : ControlKept s x n v l d) (code : CommandCode) (r : RefusalReason) :
    ControlKept s (x.refuse n code r) n v l d := by
  obtain ⟨slot, eq⟩ := x.refuse_chan n code r
  refine ⟨by rw [eq]; exact h.state, (h.setRefusal r).control.imp fun _ control => ?_⟩
  rw [eq]
  exact control

/-- The STRIDE check after the write (R77): the written STRIDE decides, in the states that check it. -/
theorem ControlKept.checkStride {s x : State} {n : ChanId} {v : ValidLine} {l : Lanes} {d : Word}
    (h : ControlKept s x n v l d) :
    let faults := (s.chan n).ctl.state ∈ [ChanState.ready, .pending, .moving, .draining, .linking] ∧
      strideValid (lay l d v.words.control) = false
    (¬ faults → x.checkStride n = x) ∧ (faults → x.checkStride n = x.faultArise n (.of .badSetup 0#26)) := by
  intro faults
  obtain ⟨locked, control⟩ := h.control
  have stride : strideValid ((x.chan n).word .control) = strideValid (lay l d v.words.control) := by
    rw [control]
    exact strideValid_controlAfterWrite v.words.control l d locked
  have checks : ((x.chan n).ctl.state.strideChecked && !strideValid ((x.chan n).word .control)) = true ↔ faults := by
    rw [stride, h.state, Bool.and_eq_true, ChanState.strideChecked_iff, Bool.not_eq_true']
  exact ⟨fun no => if_neg (checks.not.2 no), fun yes => if_pos (checks.2 yes)⟩

/-- The rest of a write whose word, and refusal, have made x: the fault of a forbidden STRIDE, settle, and the end of a
waiting writeback whose words are clean. -/
def State.ControlGoesOn (x : State) (n : ChanId) (faults : Prop) (t : State) : Prop :=
  (¬ faults → t = (x.settle n).withdrawClean n) ∧
  (faults → t = ((x.faultArise n (.of .badSetup 0#26)).settle n).withdrawClean n)

theorem ControlKept.goesOn {s x : State} {n : ChanId} {v : ValidLine} {l : Lanes} {d : Word}
    (h : ControlKept s x n v l d) :
    x.ControlGoesOn n ((s.chan n).ctl.state ∈ [ChanState.ready, .pending, .moving, .draining, .linking] ∧
      strideValid (lay l d v.words.control) = false) (((x.checkStride n).settle n).withdrawClean n) := by
  obtain ⟨passes, faults⟩ := h.checkStride
  exact ⟨fun no => by rw [passes no], fun yes => by rw [faults yes]⟩

/-! ## The statement's parts -/

/-- The word and its mark (R43). -/
theorem ValidLine.writeControl_spec (v : ValidLine) (l : Lanes) (d : Word) (locked : Bool) :
    let prior := v.words.control
    let m := lay l d prior
    let v' := v.writeControl l d locked
    let r := v'.words.control
    setupBits r = (if locked then setupBits prior else setupBits m) ∧
    (∀ i, 6 ≤ i → i ≤ 11 → r.getLsbD i = m.getLsbD i) ∧ (∀ i, 15 ≤ i → i ≤ 31 → r.getLsbD i = m.getLsbD i) ∧
    commandOf r = (if l.getLsbD 1 = true ∧ commandOf d ≠ 0#3 then commandOf d else commandOf prior) ∧
    (v'.dirty.control = false ↔ (v.dirty.control = false ∨ l = 0xF#4) ∧ r = m) ∧
    v' = { v with words := { v.words with control := r }, dirty := { v.dirty with control := v'.dirty.control } } := by
  intro prior m v' r
  have mark : v'.dirty.control = !((!v.dirty.control || l == allLanes) && (r == m)) := rfl
  refine ⟨setupBits_controlAfterWrite prior l d locked,
    fun i lo hi => getLsbD_controlAfterWrite prior l d locked (.inl ⟨lo, hi⟩),
    fun i lo _ => getLsbD_controlAfterWrite prior l d locked (.inr lo), ?_, ?_, rfl⟩
  · rw [show commandOf r = _ from commandOf_controlAfterWrite prior l d locked]
    simp only [carriesCommand_iff]
  · rw [mark]
    cases v.dirty.control <;> simp [allLanes]

theorem State.refuseSetup_cases (s : State) (n : ChanId) (code : CommandCode) :
    ((s.chan n).ctl.stalled = none ∧ s.refuseSetup n code = s.refuse n code .setupLocked) ∨
    ((s.chan n).ctl.stalled ≠ none ∧ s.refuseSetup n code = s.setRefusal n .setupLocked) := by
  unfold State.refuseSetup Channel.isStalled
  cases (s.chan n).ctl.stalled with
  | none => exact .inl ⟨rfl, rfl⟩
  | some ev => exact .inr ⟨nofun, rfl⟩

theorem State.modStatus_chan {s : State} {n : ChanId} {v : ValidLine} (h : (s.chan n).line = .valid v)
    (f : Controller → Controller) :
    (s.modStatus n f).chan n =
      { s.chan n with ctl := f (s.chan n).ctl, line := .valid (v.put .status (f (s.chan n).ctl).statusWord) } := by
  rw [State.modStatus, State.chan_modChan_self, Channel.modCtl, Channel.sync,
    Channel.modLine_of_valid (c := { s.chan n with ctl := f (s.chan n).ctl }) h]

/-- A setup refusal changes LAST_REFUSAL, STATUS and the stalled slot of channel n (R76). -/
theorem State.refuseSetup_chan {s : State} {n : ChanId} {v : ValidLine} (h : (s.chan n).line = .valid v)
    (code : CommandCode) :
    ∃ slot x, (s.refuseSetup n code).chan n =
      { s.chan n with
        ctl := { (s.chan n).ctl with lastRefusal := some .setupLocked, stalled := slot }
        line := .valid (v.put .status x) } := by
  have set := State.modStatus_chan h fun k => { k with lastRefusal := some .setupLocked }
  obtain ⟨-, eq⟩ | ⟨-, eq⟩ := s.refuseSetup_cases n code
  · obtain ⟨slot, chan⟩ := s.refuse_chan n code .setupLocked
    exact ⟨slot, _, by rw [eq, chan, State.setRefusal, set]⟩
  · exact ⟨(s.chan n).ctl.stalled, _, by rw [eq, State.setRefusal, set]⟩

theorem ValidLine.put_status_words (v : ValidLine) (x : Word) :
    (v.put .status x).words = { v.words with status := x } := rfl

theorem Channel.untaken_of_valid {c : Channel} {v : ValidLine} (h : c.line = .valid v) :
    c.untaken = commandOf v.words.control := by
  unfold Channel.untaken
  rw [h]

section
variable {s : State} {n : ChanId} {v : ValidLine} {l : Lanes} {d : Word}

theorem State.controlWritten_chan (locked : Bool) : (s.controlWritten n v l d locked).chan n =
    { s.chan n with line := .valid (v.writeControl l d locked) } := s.chan_setChan_self n _

/-- No untaken command stands after a write that carries none over a CONTROL that holds none (R43). -/
theorem commandOf_writeControl (locked : Bool) (code : writtenCode l d = 0#3) (prior : commandOf v.words.control = 0#3) :
    commandOf (v.writeControl l d locked).words.control = 0#3 := by
  change commandOf (controlAfterWrite v.words.control l d locked) = 0#3
  rw [commandOf_controlAfterWrite, prior]
  exact code

/-- A setup-locked write that carries no command, of a line that holds none, is refused and changes nothing else of the
part (R76). -/
theorem State.recordWrite_of_locked (line : (s.chan n).line = .valid v) (locked : (s.chan n).setupLocked l d = true)
    (code : writtenCode l d = 0#3) (prior : commandOf v.words.control = 0#3) (held : (s.chan n).NoHeld)
    (stride : strideValid (lay l d v.words.control) = true) :
    s.recordWrite n .control l d = (s.controlWritten n v l d true).refuseSetup n 0#3 := by
  have written : ((s.controlWritten n v l d true).chan n).line = .valid (v.writeControl l d true) := by
    rw [State.controlWritten_chan]
  obtain ⟨slot, x, chan⟩ := State.refuseSetup_chan written 0#3
  rw [State.controlWritten_chan] at chan
  have kept : ControlKept s ((s.controlWritten n v l d true).refuseSetup n 0#3) n v l d :=
    ⟨by rw [chan], true, by rw [chan]; rfl⟩
  rw [State.recordWrite_control line, if_pos locked, code,
    kept.checkStride.1 (fun faults => absurd (stride.symm.trans faults.2) (by decide)), State.settle_of_nothing]
  · exact State.withdrawClean_of_rest (congrArg Channel.line chan)
      (.inr (ValidLine.put_dirty_any (v.writeControl l d true) .status x))
  · have none := commandOf_writeControl (v := v) true code prior
    rw [Channel.untaken_of_valid (congrArg Channel.line chan), ValidLine.put_status_words]
    exact .inl none
  · rw [chan]
    exact held

/-- What that refusal leaves. -/
theorem State.lockedWrite_spec
    (differs : setupBits (lay l d v.words.control) ≠ setupBits v.words.control) :
    let t := (s.controlWritten n v l d true).refuseSetup n 0#3
    (∃ v', (t.chan n).line = .valid v' ∧ setupBits v'.words.control = setupBits v.words.control ∧
      v'.dirty.control = true) ∧
    (t.chan n).ctl.state = (s.chan n).ctl.state ∧ (t.chan n).ctl.lastRefusal = some .setupLocked ∧
    ((s.chan n).ctl.stalled = none →
      s.EventCreated t n
        { kind := .commandRefused, source := BitVec.ofNat 4 n.val, word1 := v.words.cookie,
          detailA := refusedDetail 0#3 .setupLocked, detailB := (s.chan n).ctl.startCount.setWidth 32 }) ∧
    (∀ ev, (s.chan n).ctl.stalled = some ev →
      t.events.queue = s.events.queue ∧ (t.chan n).ctl.stalled = some ev) := by
  intro t
  obtain ⟨bits, -, -, -, clean, -⟩ := v.writeControl_spec l d true
  have written : ((s.controlWritten n v l d true).chan n).line = .valid (v.writeControl l d true) := by
    rw [State.controlWritten_chan]
  obtain ⟨slot, x, chan⟩ := State.refuseSetup_chan written 0#3
  rw [State.controlWritten_chan] at chan
  have dirty : (v.writeControl l d true).dirty.control = true := by
    rw [← Bool.not_eq_false, clean]
    rintro ⟨-, same⟩
    rw [same, if_pos rfl] at bits
    exact differs bits
  refine ⟨⟨_, congrArg Channel.line chan, bits, dirty⟩, by rw [chan], by rw [chan], fun none => ?_, fun ev some => ?_⟩
  · obtain ⟨-, eq⟩ | ⟨stalled, -⟩ := (s.controlWritten n v l d true).refuseSetup_cases n 0#3
    · have event : (s.controlWritten n v l d true).refusalEvent n 0#3 .setupLocked =
          { kind := .commandRefused, source := BitVec.ofNat 4 n.val, word1 := v.words.cookie,
            detailA := refusedDetail 0#3 .setupLocked, detailB := (s.chan n).ctl.startCount.setWidth 32 } := by
        rw [State.refusalEvent, State.controlWritten_chan]
        rfl
      rw [← event, show t = _ from eq]
      exact (State.refuse_created _ n 0#3 .setupLocked).congr rfl (by rw [State.controlWritten_chan]) rfl rfl
    · rw [State.controlWritten_chan] at stalled
      exact absurd none stalled
  · obtain ⟨stalled, -⟩ | ⟨-, eq⟩ := (s.controlWritten n v l d true).refuseSetup_cases n 0#3
    · rw [State.controlWritten_chan] at stalled
      exact nomatch stalled.symm.trans some
    · rw [show t = _ from eq, State.setRefusal_ctl, State.controlWritten_chan]
      exact ⟨rfl, some⟩

/-! ## A forbidden STRIDE of an unlocked write (R77, R78) -/

/-- In the states that check STRIDE no fill is in flight, so the write does not change what is under way (R78). -/
theorem State.controlWritten_opInFlight (state : (s.chan n).ctl.state.strideChecked = true) (locked : Bool) :
    ((s.controlWritten n v l d locked).chan n).opInFlight = (s.chan n).opInFlight := by
  have noFill : ∀ c : Channel, c.ctl.state = (s.chan n).ctl.state → c.fillInFlight = false := fun c same => by
    unfold Channel.fillInFlight
    rw [same]
    revert state
    cases (s.chan n).ctl.state <;> simp [ChanState.strideChecked]
  rw [State.controlWritten_chan]
  unfold Channel.opInFlight
  rw [noFill (s.chan n) rfl, noFill { s.chan n with line := .valid (v.writeControl l d locked) } rfl]

/-- With no command to take and no request held, settle does nothing after the write (R65). -/
theorem State.controlWritten_waits (locked : Bool)
    (rests : writtenCode l d = 0#3 ∧ commandOf v.words.control = 0#3 ∨ (s.chan n).canTake = false) :
    ((s.controlWritten n v l d locked).chan n).untaken = 0#3 ∨
      ((s.controlWritten n v l d locked).chan n).canTake = false := by
  rw [State.controlWritten_chan]
  exact rests.imp (fun none => commandOf_writeControl locked none.1 none.2) id

/-- A write whose setup is not locked, and whose STRIDE stands, is the line's write alone. -/
theorem State.controlWritten_settled
    (phase : v.wbPhase ≠ .claimed ∨ (v.writeControl l d false).dirty.any = true) (held : (s.chan n).NoHeld)
    (rests : writtenCode l d = 0#3 ∧ commandOf v.words.control = 0#3 ∨ (s.chan n).canTake = false) :
    ((s.controlWritten n v l d false).settle n).withdrawClean n = s.controlWritten n v l d false := by
  have chan := State.controlWritten_chan (s := s) (n := n) (v := v) (l := l) (d := d) false
  rw [State.settle_of_nothing (State.controlWritten_waits false rests) (by rw [chan]; exact held)]
  exact State.withdrawClean_of_rest (congrArg Channel.line chan) phase

/-- The fault of a forbidden STRIDE pends while a group runs or the channel is stalled (R78). -/
theorem State.strideFault_pends (state : (s.chan n).ctl.state.strideChecked = true)
    (phase : v.wbPhase ≠ .claimed ∨ (v.writeControl l d false).dirty.any = true) (held : (s.chan n).NoHeld)
    (rests : writtenCode l d = 0#3 ∧ commandOf v.words.control = 0#3 ∨ (s.chan n).canTake = false)
    (waits : (s.chan n).opInFlight = true ∨ (s.chan n).ctl.stalled ≠ none) (f : PendingFault) :
    (((s.controlWritten n v l d false).faultArise n f).settle n).withdrawClean n =
      (s.controlWritten n v l d false).modCtl n fun k => { k with pendingFault := some (k.pendingFault.getD f) } := by
  have chan := State.controlWritten_chan (s := s) (n := n) (v := v) (l := l) (d := d) false
  have going : ((s.controlWritten n v l d false).chan n).ctl.state ≠ .faulted := by
    rw [chan]
    exact fun faulted => by rw [show (s.chan n).ctl.state = _ from faulted] at state; cases state
  have nothing := State.controlWritten_waits (s := s) (n := n) (v := v) false rests
  rw [State.faultArise_pends going, State.settle_of_nothing, State.withdrawClean_of_rest (v := v.writeControl l d false)]
  · rw [State.chan_modCtl_self, chan]
  · exact phase
  · rw [State.chan_modCtl_self]
    exact nothing
  · rw [State.chan_modCtl_self, chan]
    exact held
  · rw [State.controlWritten_opInFlight state, chan]
    exact waits

/-- The fault of a forbidden STRIDE is taken at once where nothing is under way and nothing else waits (R77, R78). -/
theorem State.strideFault_taken (state : (s.chan n).ctl.state.strideChecked = true)
    (code : writtenCode l d = 0#3) (prior : commandOf v.words.control = 0#3) (idle : (s.chan n).opInFlight = false)
    (unstalled : (s.chan n).ctl.stalled = none) (pends : (s.chan n).ctl.pendingFault = none) (f : PendingFault) :
    (((s.controlWritten n v l d false).faultArise n f).settle n).withdrawClean n =
      (s.controlWritten n v l d false).enterFaulted n f := by
  have chan := State.controlWritten_chan (s := s) (n := n) (v := v) (l := l) (d := d) false
  have going : ((s.controlWritten n v l d false).chan n).ctl.state ≠ .faulted := by
    rw [chan]
    exact fun faulted => by rw [show (s.chan n).ctl.state = _ from faulted] at state; cases state
  obtain ⟨v', line, words, dirty, -⟩ :=
    State.enterFaulted_line (s := s.controlWritten n v l d false) (n := n) (congrArg Channel.line chan) f
  have none : commandOf v'.words.control = 0#3 := by
    have none := commandOf_writeControl (v := v) false code prior
    rw [words]
    exact none
  rw [State.faultArise_taken going (by rw [chan]; exact pends)
      ((State.controlWritten_opInFlight state false).trans idle) (by rw [chan]; exact unstalled),
    State.settle_of_nothing (.inl ((Channel.untaken_of_valid line).trans none)) (State.enterFaulted_noHeld _ n f)]
  exact State.withdrawClean_of_rest line (.inr (by rw [dirty]; simp [Record.any]))

end

/-- A command that reaches its controller as a row is taken as settle takes it, where it stands untaken already (R64). -/
theorem State.command_of_untaken {s : State} {n : ChanId} (takes : s.Takes n) {code : CommandCode}
    (h : (s.chan n).untaken = code) (command : code ≠ 0#3) : s.command n code = s.settle n := by
  obtain ⟨reaches, can⟩ := takes
  rw [State.command, if_pos reaches, ← h, State.offerCommand_of_untaken can (by rw [h]; exact command)]

/-- Settles O21: the word by its fields, the write as the line's write with the refusal, the fault and settle behind it. -/
theorem controlWriteAndItsSetupLock : Obligations.ControlWriteAndItsSetupLock := by
  refine ⟨ValidLine.writeControl_spec, ?_, ?_, fun n s => ⟨?_, fun nothing held => State.settle_of_nothing nothing held⟩⟩
  · intro n l d v s line state locks noCode noCommand held stride t
    have code : writtenCode l d = 0#3 := by
      rw [writtenCode_eq]
      rcases noCode with no | no
      · rw [if_neg (by rw [no]; decide)]
      · rw [no]
        exact ite_self _
    have eq : t = _ := State.recordWrite_of_locked line ((Channel.setupLocked_iff line l d).2 ⟨state, locks⟩) code
      noCommand held stride
    obtain ⟨left, kept, refusal, created, stalled⟩ := State.lockedWrite_spec (s := s) (n := n) locks
    have step := s.recordWrite_step n .control l d
    rw [← eq] at left kept refusal created stalled
    exact ⟨left, kept, refusal, created, stalled, step.onlyChannel, step.mport⟩
  · intro n l d v s line c code locks faults fault written t goesOn rests
    have locks_iff : c.setupLocked l d = true ↔ locks := Channel.setupLocked_iff line l d
    have chan : ∀ locked, (s.controlWritten n v l d locked).chan n = _ := State.controlWritten_chan
    have kept := s.controlWritten_kept n v l d
    have eq : t = _ := State.recordWrite_control line l d
    have code_eq : writtenCode l d = code := writtenCode_eq l d
    have checked : faults → c.ctl.state.strideChecked = true := fun both => c.ctl.state.strideChecked_iff.2 both.1
    have unlocked : ¬ locks → goesOn (s.controlWritten n v l d false) := fun no => by
      rw [if_neg (locks_iff.not.2 no)] at eq
      change State.ControlGoesOn _ n faults t
      rw [eq]
      exact (kept false).goesOn
    refine ⟨unlocked, fun yes none => ?_, fun yes some => ?_, fun no stands ⟨phase, held, rest⟩ => ?_,
      fun no forbidden ⟨phase, held, rest⟩ => ?_⟩
    · rw [if_pos (locks_iff.2 yes), code_eq] at eq
      obtain ⟨-, refuses⟩ | ⟨stalled, -⟩ := (s.controlWritten n v l d true).refuseSetup_cases n code
      · change State.ControlGoesOn ((s.controlWritten n v l d true).refuse n code .setupLocked) n faults t
        rw [eq, refuses]
        exact ((kept true).refuse code .setupLocked).goesOn
      · rw [chan] at stalled
        exact absurd none stalled
    · rw [if_pos (locks_iff.2 yes), code_eq] at eq
      obtain ⟨unstalled, -⟩ | ⟨-, refuses⟩ := (s.controlWritten n v l d true).refuseSetup_cases n code
      · rw [chan] at unstalled
        exact absurd unstalled some
      · change State.ControlGoesOn ((s.controlWritten n v l d true).setRefusal n .setupLocked) n faults t
        rw [eq, refuses]
        exact ((kept true).setRefusal .setupLocked).goesOn
    · rw [← code_eq] at rest
      exact ((unlocked no).1 stands).trans (State.controlWritten_settled phase held rest)
    · rw [← code_eq] at rest
      refine ⟨fun waits => ((unlocked no).2 forbidden).trans
        (State.strideFault_pends (checked forbidden) phase held rest waits fault), fun idle none pends prior no_code => ?_⟩
      have taken : t = (s.controlWritten n v l d false).enterFaulted n fault := ((unlocked no).2 forbidden).trans
        (State.strideFault_taken (checked forbidden) (code_eq.trans no_code) prior idle none pends fault)
      obtain ⟨state, code, created⟩ := (s.controlWritten n v l d false).enterFaulted_faulted n fault
      have event : (s.controlWritten n v l d false).faultEvent n .badSetup 0#26 = s.faultEvent n .badSetup 0#26 := by
        simp only [State.faultEvent, chan, Channel.cookie, line]
        rfl
      have step := s.recordWrite_step n .control l d
      refine ⟨by rw [taken, state], by rw [taken, code], ?_, step.onlyChannel⟩
      rw [taken, ← event]
      exact created.congr rfl (by rw [chan]) rfl rfl
  · intro p hp takes stands
    have row : p.2 ≠ 0#3 ∧ exec p.1 s = .next (s.command n p.2) := by
      simp only [List.mem_cons, List.not_mem_nil, or_false] at hp
      rcases hp with rfl | rfl | rfl | rfl | rfl | rfl | rfl <;> exact ⟨by simp, rfl⟩
    rw [row.2, State.command_of_untaken takes stands row.1]

end Sys2Proof.Machine
end

section
/-! PROOFS. The responses of a writeback, and what its end makes of its consequence and of its failure (R53, R55, R59, R65,
R73, R80, R164 to R166, R181). -/

namespace Sys2Proof.Machine

/-! ## The response -/

theorem InFlight.row_of_writeback {e : InFlight} {n : ChanId} {i : RecWord} (o : e.orphan = false)
    (h : e.owner = .writeback n i) : e.row = .writebackWrite := by
  unfold InFlight.row
  rw [if_neg (by rw [o]; decide), h]

/-- The state in which the response of the oldest access is taken: the access has left the in-flight list (R15). -/
def State.answered (s : State) (rest : List InFlight) : State := { s with mport := { s.mport with inflight := rest } }

theorem State.exec_writebackWriteResponse {s : State} {n : ChanId} {i : RecWord} {rest : List InFlight} (r : MemResponse)
    (h : s.Awaits (.writeback n i) rest) :
    exec (.writebackWriteResponse r) s = .next ((s.answered rest).writebackResponse n i r).disableProgress := by
  obtain ⟨e, inflight, owner, orphan⟩ := h
  refine congrArg Host.Outcome.next ?_
  rw [State.respond_of_row _ inflight (InFlight.row_of_writeback orphan owner), owner]
  rfl

section
variable (s : State) (n : ChanId) (i : RecWord) (v : ValidLine) (failed : Option RecWord) (r : MemResponse)

/-- The failed words' first, after the response (R53, R164, R181). -/
theorem State.firstFailed_eq : s.firstFailed failed i r =
    if r = .error ∧ s.mgmt.sequence ≠ some .d1 then some (failed.getD i) else failed := rfl

/-- The line's marks after the response: a word that failed is dirty again (R53). -/
def ValidLine.marksAfter : Record Bool := if r = .error then v.dirty.set i true else v.dirty

/-- The line at the end of its writeback. -/
def ValidLine.ended : ValidLine :=
  { v with dirty := v.marksAfter i r, wbPhase := .none, serves := .plain, requested := none }

/-- The part at the end of the writeback, before its consequence. -/
def State.ended : State := s.setChan n { s.chan n with line := .valid (v.ended i r) }

end

/-- What the end of a writeback of line v makes of what waited for it, x being the part with the writeback over (R53, R55). -/
def State.writebackOutcome (x : State) (n : ChanId) (v : ValidLine) (failed : Option RecWord) : State :=
  if v.serves.consequence = .clear then x.clearDone n
  else match failed with
    | some w => (x.claimRequested n v.requested).writebackFailed n v.serves w
    | none =>
      if v.serves.consequence = .reload then x.startFill n (x.chan n).untaken
      else (x.claimRequested n v.requested).writebackDone n v.serves

theorem State.endWriteback_of_valid {s : State} {n : ChanId} {v : ValidLine} (h : (s.chan n).line = .valid v)
    (failed : Option RecWord) :
    s.endWriteback n failed =
      ((s.setChan n { s.chan n with line := .valid v.endWriteback }).writebackOutcome n v failed).settle n := by
  unfold State.endWriteback
  rw [h]
  simp only [State.modChan, Channel.modLine_of_valid h]
  rfl

section
variable {s : State} {n : ChanId} {i : RecWord} {v : ValidLine} {left : Nat} {failed : Option RecWord}
  (line : (s.chan n).line = .valid v) (phase : v.wbPhase = .granted left failed) (r : MemResponse)
include line phase

/-- A response before the last leaves its mark, the count and the failed word (R53). -/
theorem State.writebackResponse_before (more : 1 < left) : s.writebackResponse n i r = s.setChan n
    { s.chan n with
      line := .valid
        { v with dirty := v.marksAfter i r, wbPhase := .granted (left - 1) (s.firstFailed failed i r) } } := by
  unfold State.writebackResponse
  simp only [line, phase]
  rw [if_neg (by omega), State.modChan, Channel.modLine_of_valid line]
  rfl

/-- The last response ends the writeback (R53): what waited for it follows, then settle (R65). -/
theorem State.writebackResponse_last (last : left = 1) : s.writebackResponse n i r =
    ((s.ended n i v r).writebackOutcome n v (s.firstFailed failed i r)).settle n := by
  unfold State.writebackResponse
  simp only [line, phase]
  rw [if_pos (by omega), State.modChan, Channel.modLine_of_valid line]
  refine (State.endWriteback_of_valid (congrArg Channel.line (s.chan_setChan_self n _)) _).trans ?_
  rw [State.setChan_setChan, State.chan_setChan_self]
  rfl

end

/-! ## The outcome by what waited (R53, R55) -/

section
variable {x : State} {n : ChanId} {v : ValidLine} {failed : Option RecWord}

theorem State.claimRequested_none : x.claimRequested n none = x := rfl

theorem State.writebackOutcome_of_clear (h : v.serves.consequence = .clear) :
    x.writebackOutcome n v failed = x.clearDone n := if_pos h

theorem State.writebackOutcome_of_failed {w : RecWord} (h : v.serves.consequence ≠ .clear) (fails : failed = some w) :
    x.writebackOutcome n v failed = (x.claimRequested n v.requested).writebackFailed n v.serves w := by
  rw [fails]
  exact if_neg h

theorem State.writebackOutcome_of_reload (h : v.serves.consequence = .reload) (well : failed = none) :
    x.writebackOutcome n v failed = x.startFill n (x.chan n).untaken := by
  rw [well]
  exact (if_neg (by rw [h]; decide)).trans (if_pos h)

theorem State.writebackOutcome_of_nothing (h : v.serves.consequence = .nothing) (well : failed = none) :
    x.writebackOutcome n v failed = x.claimRequested n v.requested := by
  rw [well]
  refine (if_neg (by rw [h]; decide)).trans ((if_neg (by rw [h]; decide)).trans (if_neg (by rw [h]; decide)))

theorem State.writebackOutcome_of_finalEvent (h : v.serves.consequence = .finalEvent) (well : failed = none) :
    x.writebackOutcome n v failed = (x.claimRequested n v.requested).endingDone n := by
  rw [well]
  exact (if_neg (by rw [h]; decide)).trans ((if_neg (by rw [h]; decide)).trans (if_pos h))

end

theorem UpkeepKind.ofLine_eq (n : ChanId) (k : UpkeepKind) : k.ofLine n = (k == .fill n || k == .writeback n) := by
  cases k <;> simp [UpkeepKind.ofLine, beq_eq_decide]

/-- The claims of line n withdrawn (R40). -/
def State.lineWithdrawn (s : State) (n : ChanId) : State :=
  { s with arb := { s.arb with upkeep := s.arb.upkeep.filter fun c => !(c.kind == .fill n || c.kind == .writeback n) } }

theorem State.withdraw_ofLine (s : State) (n : ChanId) : s.withdraw (UpkeepKind.ofLine n) = s.lineWithdrawn n := by
  unfold State.withdraw State.lineWithdrawn
  simp only [UpkeepKind.ofLine_eq]

/-- The end of a CLEAR: the line is INVALID and its command goes to the mailbox (R66, R73). -/
theorem State.clearDone_setChan (s : State) (n : ChanId) (c : Channel) :
    (s.setChan n c).clearDone n = (s.lineWithdrawn n).setChan n
      { c with line := .invalid, quiet := none, ctl := { c.ctl with mailbox := c.untaken, clearing := false } } := by
  unfold State.clearDone State.invalidateLine State.modCtl State.modChan
  have through : ∀ c' : Channel, (s.setChan n c').lineWithdrawn n = (s.lineWithdrawn n).setChan n c' := fun _ => rfl
  simp only [State.withdraw_ofLine, State.chan_setChan_self, State.setChan_setChan, through]

/-- The reload goes on to its fill (R46, R59). -/
theorem State.startFill_setChan (s : State) (n : ChanId) (c : Channel) (code : CommandCode) :
    (s.setChan n c).startFill n code = ((s.lineWithdrawn n).setChan n
      { c with line := .filling .claimed code, ctl := { c.ctl with mailbox := 0#3 } }).raise (.fill n) := by
  unfold State.startFill State.modChan
  simp only [State.withdraw_ofLine, State.chan_setChan_self, State.setChan_setChan]
  rfl

/-! ## The final event (R80) -/

theorem State.finalEvent_of_ending {x : State} {n : ChanId} {e : EndingKind} (h : (x.chan n).ctl.ending = some e) :
    x.finalEvent n = x.finalOf n e := by
  unfold State.finalEvent
  simp only [h]
  cases e <;> rfl

theorem RecordKept.finalOf {n : ChanId} {s t : State} (h : RecordKept n s t) (e : EndingKind) :
    t.finalOf n e = s.finalOf n e := by
  have done : (t.chan n).done24 = (s.chan n).done24 := congrArg (field 0 24) (h.words .done (by decide))
  simp only [State.finalOf, h.cookie, done, h.segments]

/-- The end of the ENDING writeback (R80): held by a stall, stalled with the event, or OFF with the event in the queue or
discarded. -/
theorem State.endingDone_cases {x : State} {n : ChanId} {e : EndingKind} (h : (x.chan n).ctl.ending = some e) :
    ((x.chan n).ctl.stalled ≠ none → x.endingDone n = x.modCtl n fun k => { k with heldCompletion := some .ending }) ∧
    ((x.chan n).ctl.stalled = none → x.events.intake = .opened → ¬ x.events.count < 8 →
      x.endingDone n = x.modCtl n fun k => { k with stalled := some (x.finalOf n e) }) ∧
    ((x.chan n).ctl.stalled = none → x.events.intake = .opened → x.events.count < 8 →
      x.endingDone n = (x.pushEvent (x.finalOf n e)).enterOffFromEnding n) ∧
    ((x.chan n).ctl.stalled = none → x.events.intake = .closed → x.endingDone n = x.enterOffFromEnding n) := by
  have created : (x.chan n).ctl.stalled = none → x.endingDone n =
      if ((x.createEvent n (x.finalOf n e)).chan n).isStalled then x.createEvent n (x.finalOf n e)
      else (x.createEvent n (x.finalOf n e)).enterOffFromEnding n := fun none => by
    rw [State.endingDone, if_neg (by simp [Channel.isStalled, none]), State.createFinal, State.finalEvent_of_ending h]
  refine ⟨fun some => if_pos (Option.isSome_iff_ne_none.2 some), fun none opened full => ?_, fun none opened room => ?_,
    fun none closed => ?_⟩
  · have stalls : x.createEvent n (x.finalOf n e) = x.modCtl n fun k => { k with stalled := some (x.finalOf n e) } := by
      rw [State.createEvent, if_neg (by rw [opened]; decide), if_neg (x.queueRoom_iff.not.2 full)]
      rfl
    rw [created none, stalls, if_pos (by rw [State.chan_modCtl_self]; rfl)]
  · have enters : x.createEvent n (x.finalOf n e) = x.pushEvent (x.finalOf n e) := by
      rw [State.createEvent, if_neg (by rw [opened]; decide), if_pos (x.queueRoom_iff.2 room)]
    rw [created none, enters, State.pushEvent_chan, if_neg (by simp [Channel.isStalled, none])]
  · have discards : x.createEvent n (x.finalOf n e) = x := if_pos closed
    rw [created none, discards, if_neg (by simp [Channel.isStalled, none])]

/-! ## The clauses of O46 -/

/-- An event's creation is seen in the queue and the stalled slot alone. -/
theorem State.EventCreated.of_queue {s t t' : State} {n : ChanId} {ev : Event} (h : s.EventCreated t n ev)
    (queue : t'.events.queue = t.events.queue) (slot : (t'.chan n).ctl.stalled = (t.chan n).ctl.stalled) :
    s.EventCreated t' n ev := by
  unfold State.EventCreated at h ⊢
  rw [queue, slot]
  exact h

theorem State.disableProgress_chan (s : State) (n : ChanId) : s.disableProgress.chan n = s.chan n :=
  State.chan_congr s.disableProgress_frame.channels n

theorem State.disableProgress_queue (s : State) : s.disableProgress.events.queue = s.events.queue :=
  by rw [s.disableProgress_frame.only.1]

/-- ENDING is left for OFF with its writeback over (R80): STATUS is dirty, so a new writeback is claimed (R54). -/
theorem State.enterOffFromEnding_of_idle {x : State} {n : ChanId} {v : ValidLine} (h : (x.chan n).line = .valid v)
    (phase : v.wbPhase = .none) :
    ∃ st, x.enterOffFromEnding n = (x.setChan n
      { x.chan n with
        ctl := { (x.chan n).ctl with state := .off, setup := none, ending := none, abortRecorded := false }
        line := .valid { v.put .status st with wbPhase := .claimed, serves := .plain } }).raise (.writeback n) := by
  have chan := State.modStatus_chan h fun k =>
    { k with state := .off, setup := none, ending := none, abortRecorded := false }
  have line := congrArg Channel.line chan
  unfold State.enterOffFromEnding State.triggerPlain
  obtain ⟨-, -, eq⟩ | ⟨-, clean, -⟩ | ⟨claimed, -⟩ | ⟨o, f, granted, -⟩ := State.triggerWriteback_cases line .plain
  · refine ⟨Controller.statusWord
      { (x.chan n).ctl with state := .off, setup := none, ending := none, abortRecorded := false }, ?_⟩
    rw [eq, State.modChan, chan, State.modStatus, State.modChan, State.setChan_setChan]
  · rw [v.put_dirty_any] at clean
    cases clean
  · exact nomatch phase.symm.trans claimed
  · exact nomatch phase.symm.trans granted

/-- The entry to FAULTED in the controller (R78). -/
theorem State.enterFaulted_ctl (s : State) (n : ChanId) (f : PendingFault) :
    ∃ slot, ((s.enterFaulted n f).chan n).ctl =
      { (s.chan n).ctl with
        state := .faulted, lastFault := some f.code, abortRecorded := false, ending := none, pendingFault := none,
        heldCompletion := none, stalled := slot } := by
  obtain ⟨ctl, -, -⟩ := s.enterFaulted_leaves n f
  obtain ⟨slot, eq⟩ := (s.faultTaken n f).createEvent_chan n (s.faultEvent n f.code f.address)
  exact ⟨slot, by rw [ctl, eq, State.faultTaken_ctl]⟩

/-- A failed reload is taken in place of its install, or waits for the end of a stall (R165). -/
theorem State.failReload_cases (x : State) (n : ChanId) (f : PendingFault) :
    ((x.chan n).ctl.stalled = none →
      x.failReload n f = x.enterFaulted n { (x.chan n).ctl.pendingFault.getD f with noWriteback := true }) ∧
    ((x.chan n).ctl.stalled ≠ none → x.failReload n f = x.modCtl n fun k =>
      { k with pendingFault := some { (x.chan n).ctl.pendingFault.getD f with noWriteback := true } }) :=
  ⟨fun none => if_neg (by simp [Channel.isStalled, none]), fun some => if_pos (Option.isSome_iff_ne_none.2 some)⟩

theorem State.writebackFailed_of_reload {x : State} {n : ChanId} {q : WbServes} (disable : q.disable = false)
    (reload : q.consequence = .reload) (w : RecWord) :
    x.writebackFailed n q w = x.failReload n (x.writebackFault n w) :=
  (if_neg (by rw [disable]; decide)).trans (if_pos reload)

theorem State.writebackFailed_of_other {x : State} {n : ChanId} {q : WbServes} (disable : q.disable = false)
    (other : q.consequence ≠ .reload) (w : RecWord) :
    x.writebackFailed n q w = x.faultArise n (x.writebackFault n w) :=
  (if_neg (by rw [disable]; decide)).trans (if_neg other)

/-- The failure of a writeback of a channel that nothing holds back is taken at once (R164 to R166). -/
theorem State.writebackFailed_taken {x : State} {n : ChanId} {q : WbServes} (disable : q.disable = false)
    (unstalled : (x.chan n).ctl.stalled = none) (pends : (x.chan n).ctl.pendingFault = none)
    (idle : q.consequence = .reload ∨ (x.chan n).opInFlight = false)
    (state : q.consequence = .reload ∨ (x.chan n).ctl.state ≠ .faulted) (w : RecWord) :
    x.writebackFailed n q w = x.enterFaulted n (x.writebackFault n w) := by
  by_cases reload : q.consequence = .reload
  · rw [State.writebackFailed_of_reload disable reload, (x.failReload_cases n _).1 unstalled, pends]
    rfl
  · rw [State.writebackFailed_of_other disable reload]
    exact State.faultArise_taken (state.resolve_left reload) pends (idle.resolve_left reload) unstalled _

section
variable {s : State} {n : ChanId} {i : RecWord} {rest : List InFlight} {v : ValidLine} {left : Nat}
  {failed : Option RecWord} (awaits : s.Awaits (.writeback n i) rest) (line : (s.chan n).line = .valid v)
  (phase : v.wbPhase = .granted left failed) (r : MemResponse)

theorem State.ended_chan (s : State) (n : ChanId) (i : RecWord) (v : ValidLine) (r : MemResponse) :
    (s.ended n i v r).chan n = { s.chan n with line := .valid (v.ended i r) } := s.chan_setChan_self n _

theorem State.ended_untaken (s : State) (n : ChanId) (i : RecWord) (v : ValidLine) (r : MemResponse) :
    ((s.ended n i v r).chan n).untaken = commandOf v.words.control := by
  rw [State.ended_chan]
  rfl

/-- With its writeback over no reload of the line is under way (R78). -/
theorem State.ended_opInFlight {r : MemResponse} (idle : (s.chan n).opInFlight = false) :
    ((s.ended n i v r).chan n).opInFlight = false := by
  have noFill : ((s.ended n i v r).chan n).fillInFlight = false := by
    rw [State.ended_chan]
    exact Bool.and_false _
  unfold Channel.opInFlight at idle ⊢
  rw [noFill, Bool.or_false, State.ended_chan]
  exact (Bool.or_eq_false_iff.1 idle).1

include line in
theorem State.ended_kept : RecordKept n s (s.ended n i v r) :=
  .of_words (v' := v.ended i r) (by rw [State.ended_chan]) line (by rw [State.ended_chan]) rfl

include awaits line phase

theorem State.exec_writeback_last (last : left = 1) :
    exec (.writebackWriteResponse r) s = .next ((((s.answered rest).ended n i v r).writebackOutcome n v
      (s.firstFailed failed i r)).settle n).disableProgress := by
  rw [State.exec_writebackWriteResponse r awaits]
  exact congrArg (fun t : State => Host.Outcome.next t.disableProgress)
    (State.writebackResponse_last (s := s.answered rest) line phase r last)

/-- Before the last response. -/
theorem State.exec_writeback_before (more : 1 < left) :
    ∃ t, exec (.writebackWriteResponse r) s = .next t ∧
      t.chan n = { s.chan n with
        line := .valid
          { v with dirty := v.marksAfter i r, wbPhase := .granted (left - 1) (s.firstFailed failed i r) } } ∧
      t.mport = (s.answered rest).mport ∧ t.arb = s.arb ∧ t.out = s.out ∧ s.OnlyDisableAdvances t := by
  have frame := State.disableProgress_frame ((s.answered rest).writebackResponse n i r)
  refine ⟨_, State.exec_writebackWriteResponse r awaits, ?_⟩
  rw [State.writebackResponse_before (s := s.answered rest) line phase r more] at frame ⊢
  exact ⟨by rw [State.disableProgress_chan, State.chan_setChan_self]; rfl, frame.mport, frame.arb, frame.out,
    State.onlyDisableAdvances_of_eq rfl rfl⟩

/-- The last response with nothing that waited (R53). -/
theorem State.exec_writeback_plain (last : left = 1) (well : s.firstFailed failed i r = none)
    (nothing : v.serves.consequence = .nothing) (requested : v.requested = none)
    (command : commandOf v.words.control = 0#3) (held : (s.chan n).NoHeld) :
    ∃ t, exec (.writebackWriteResponse r) s = .next t ∧
      t.chan n = { s.chan n with
        line := .valid { v with dirty := v.marksAfter i r, wbPhase := .none, serves := .plain } } ∧
      t.mport = (s.answered rest).mport ∧ t.arb = s.arb ∧ t.out = s.out ∧ s.OnlyDisableAdvances t := by
  have settled : (((s.answered rest).ended n i v r).writebackOutcome n v (s.firstFailed failed i r)).settle n =
      (s.answered rest).ended n i v r := by
    rw [State.writebackOutcome_of_nothing nothing well, requested, State.claimRequested_none]
    exact State.settle_of_nothing (.inl ((State.ended_untaken _ n i v r).trans command))
      (by rw [State.ended_chan]; exact held)
  have frame := State.disableProgress_frame ((s.answered rest).ended n i v r)
  have idle : v.ended i r = { v with dirty := v.marksAfter i r, wbPhase := .none, serves := .plain } := by
    rw [ValidLine.ended, ← requested]
  refine ⟨_, State.exec_writeback_last awaits line phase r last, ?_⟩
  rw [settled]
  exact ⟨by rw [State.disableProgress_chan, State.ended_chan, idle]; rfl, frame.mport, frame.arb, frame.out,
    State.onlyDisableAdvances_of_eq rfl rfl⟩

/-- The last response of the ENDING writeback, with room for the final event (R80). -/
theorem State.exec_writeback_final {e : EndingKind} (last : left = 1) (well : s.firstFailed failed i r = none)
    (final : v.serves.consequence = .finalEvent) (requested : v.requested = none)
    (command : commandOf v.words.control = 0#3) (unstalled : (s.chan n).ctl.stalled = none)
    (ending : (s.chan n).ctl.ending = some e) (room : s.events.count < 8) (opened : s.events.intake = .opened)
    (held : (s.chan n).NoHeld) :
    ∃ t, exec (.writebackWriteResponse r) s = .next t ∧ (t.chan n).ctl.state = .off ∧
      (t.chan n).ctl.setup = none ∧ (t.chan n).ctl.ending = none ∧
      t.events.queue = s.events.queue ++ [s.finalOf n e] ∧
      (∃ v', (t.chan n).line = .valid v' ∧ v'.wbPhase = .claimed) ∧
      { kind := .writeback n, age := 0 } ∈ t.arb.upkeep := by
  have chan := State.ended_chan (s.answered rest) n i v r
  have kept : ((s.answered rest).ended n i v r).finalOf n e = s.finalOf n e :=
    (State.ended_kept (s := s.answered rest) line r).finalOf e
  obtain ⟨-, -, enters, -⟩ := State.endingDone_cases (x := (s.answered rest).ended n i v r) (n := n) (e := e)
    (by rw [chan]; exact ending)
  have line' : ((((s.answered rest).ended n i v r).pushEvent (s.finalOf n e)).chan n).line = .valid (v.ended i r) := by
    rw [State.pushEvent_chan, chan]
  obtain ⟨st, leaves⟩ := State.enterOffFromEnding_of_idle line' rfl
  rw [State.pushEvent_chan, chan] at leaves
  have run := State.exec_writeback_last awaits line phase r last
  rw [State.writebackOutcome_of_finalEvent final well, requested, State.claimRequested_none,
    enters (by rw [chan]; exact unstalled) opened room, kept, leaves, State.settle_of_nothing] at run
  · refine ⟨_, run, ?_, ?_, ?_, ?_, ⟨{ (v.ended i r).put .status st with wbPhase := .claimed, serves := .plain }, ?_, rfl⟩,
      ?_⟩
    · rw [State.disableProgress_chan, State.chan_raise, State.chan_setChan_self]
    · rw [State.disableProgress_chan, State.chan_raise, State.chan_setChan_self]
    · rw [State.disableProgress_chan, State.chan_raise, State.chan_setChan_self]
    · rw [State.disableProgress_queue]
      exact State.pushEvent_queue _ _
    · rw [State.disableProgress_chan, State.chan_raise, State.chan_setChan_self]
    · rw [(State.disableProgress_frame _).arb]
      exact List.mem_append_right _ (List.mem_singleton_self _)
  · left
    rw [State.chan_raise, State.chan_setChan_self]
    exact command
  · rw [State.chan_raise, State.chan_setChan_self]
    exact held

/-- The last response with a failed word, where nothing holds the channel back (R164 to R166). -/
theorem State.exec_writeback_failed {w : RecWord} (last : left = 1) (fails : s.firstFailed failed i r = some w)
    (notClear : v.serves.consequence ≠ .clear) (disable : v.serves.disable = false) (requested : v.requested = none)
    (free : s.Unhindered n) (idle : v.serves.consequence = .reload ∨ (s.chan n).opInFlight = false)
    (state : v.serves.consequence = .reload ∨ (s.chan n).ctl.state ≠ .faulted)
    (command : commandOf v.words.control = 0#3) :
    ∃ t v', exec (.writebackWriteResponse r) s = .next t ∧ (t.chan n).line = .valid v' ∧ v'.wbPhase = .none ∧
      v'.words = { v.words with status := v'.words.status } ∧ (r = .error → v'.dirty.get i = true) ∧
      (t.chan n).ctl.state = .faulted ∧ (t.chan n).ctl.lastFault = some .memoryDescriptor ∧
      (t.chan n).ctl.ending = none ∧ (t.chan n).ctl.startCount = (s.chan n).ctl.startCount ∧
      (t.chan n).ctl.setup = (s.chan n).ctl.setup ∧
      s.EventCreated t n (s.faultEvent n .memoryDescriptor (s.wordAddr (8 * n.val + w.index))) ∧
      t.mport = (s.answered rest).mport := by
  have chan := State.ended_chan (s.answered rest) n i v r
  obtain ⟨unstalled, pends, -⟩ := free
  have taken := State.writebackFailed_taken (x := (s.answered rest).ended n i v r) (n := n) disable
    (by rw [chan]; exact unstalled) (by rw [chan]; exact pends) (idle.imp_right State.ended_opInFlight)
    (by rw [chan]; exact state) w
  have run := State.exec_writeback_last awaits line phase r last
  obtain ⟨v', line', words, dirty, still⟩ := State.enterFaulted_line
    (s := (s.answered rest).ended n i v r) (n := n) (congrArg Channel.line chan)
    (((s.answered rest).ended n i v r).writebackFault n w)
  obtain ⟨-, -, created⟩ := State.enterFaulted_faulted
    ((s.answered rest).ended n i v r) n (((s.answered rest).ended n i v r).writebackFault n w)
  obtain ⟨slot, ctl⟩ := State.enterFaulted_ctl
    ((s.answered rest).ended n i v r) n (((s.answered rest).ended n i v r).writebackFault n w)
  have step := State.enterFaulted_step
    ((s.answered rest).ended n i v r) n (((s.answered rest).ended n i v r).writebackFault n w)
  have none : commandOf v'.words.control = 0#3 := by
    rw [words]
    exact command
  rw [State.writebackOutcome_of_failed notClear fails, requested, State.claimRequested_none, taken,
    State.settle_of_nothing (.inl ((Channel.untaken_of_valid line').trans none)) (State.enterFaulted_noHeld _ n _)] at run
  simp only [chan] at ctl
  have event : ((s.answered rest).ended n i v r).faultEvent n .memoryDescriptor (s.wordAddr (8 * n.val + w.index)) =
      s.faultEvent n .memoryDescriptor (s.wordAddr (8 * n.val + w.index)) := by
    rw [State.faultEvent, (State.ended_kept (s := s.answered rest) line r).cookie, chan]
    rfl
  refine ⟨_, v', run, ?_, still rfl, words, fun error => ?_, ?_, ?_, ?_, ?_, ?_, ?_, ?_⟩
  · rw [State.disableProgress_chan, line']
  · rw [dirty, show (v.ended i r).dirty = v.dirty.set i true from if_pos error]
    cases i <;> rfl
  · rw [State.disableProgress_chan, ctl]
  · rw [State.disableProgress_chan, ctl]
    rfl
  · rw [State.disableProgress_chan, ctl]
  · rw [State.disableProgress_chan, ctl]
    rfl
  · rw [State.disableProgress_chan, ctl]
    rfl
  · rw [← event]
    exact (created.congr (s' := s) rfl (by rw [chan]; rfl) rfl rfl).of_queue (State.disableProgress_queue _)
      (by rw [State.disableProgress_chan])
  · rw [(State.disableProgress_frame _).mport, step.mport]
    rfl

end

/-! ## A writeback requested meanwhile (R55) -/

theorem State.claimRequested_kept (x : State) (n : ChanId) (q : Option WbServes) :
    RecordKept n x (x.claimRequested n q) := by
  cases q with
  | none => exact .refl n x
  | some w => exact x.triggerWriteback_kept n w

theorem State.claimRequested_ctl (x : State) (n : ChanId) (q : Option WbServes) :
    ((x.claimRequested n q).chan n).ctl = (x.chan n).ctl := by
  cases q with
  | none => rfl
  | some w => exact x.triggerWriteback_ctl n w

theorem State.claimRequested_events (x : State) (n : ChanId) (q : Option WbServes) :
    (x.claimRequested n q).events = x.events := by
  cases q with
  | none => rfl
  | some w => exact x.triggerWriteback_events n w

theorem State.claimRequested_mgmt (x : State) (n : ChanId) (q : Option WbServes) :
    (x.claimRequested n q).mgmt = x.mgmt := by
  cases q with
  | none => rfl
  | some w => exact (x.triggerWriteback_step n w).mgmt

/-- A trigger of a line with no writeback under way claims one where a word is dirty (R54). -/
theorem State.triggerWriteback_of_dirty {s : State} {n : ChanId} {v : ValidLine} (h : (s.chan n).line = .valid v)
    (phase : v.wbPhase = .none) (dirty : v.dirty.any = true) (w : WbServes) :
    s.triggerWriteback n w = (s.setChan n
      { s.chan n with line := .valid { v with wbPhase := .claimed, serves := w } }).raise (.writeback n) := by
  unfold State.triggerWriteback
  simp only [h, phase, dirty, if_true]
  rfl

/-- The writeback requested while another was granted, at the end of that other. -/
theorem State.ended_requested (s : State) (n : ChanId) (i : RecWord) (v : ValidLine) (r : MemResponse) (w : WbServes) :
    ((v.ended i r).dirty.any = true → (s.ended n i v r).triggerWriteback n w = ((s.ended n i v r).setChan n
      { s.chan n with line := .valid { v.ended i r with wbPhase := .claimed, serves := w } }).raise (.writeback n)) ∧
    ((v.ended i r).dirty.any = false → (s.ended n i v r).triggerWriteback n w = s.ended n i v r) := by
  have chan := s.ended_chan n i v r
  refine ⟨fun dirty => ?_, fun clean => State.triggerWriteback_of_clean (congrArg Channel.line chan) rfl clean w⟩
  rw [State.triggerWriteback_of_dirty (congrArg Channel.line chan) rfl dirty w, chan]

/-- Settles O46: the response before the last, the last by what waited for the writeback, and settle behind it. -/
theorem writebackResponseEndsTheWriteback : Obligations.WritebackResponseEndsTheWriteback := by
  intro n i rest v left failed s awaits line phase c s' first remembered dirty fault
  refine ⟨fun r more => State.exec_writeback_before awaits line phase r more,
    fun r last well nothing requested command held =>
      State.exec_writeback_plain awaits line phase r last well nothing requested command held,
    fun d e last well final requested command unstalled ending room opened held =>
      State.exec_writeback_final awaits line phase (.okay d) last ((if_neg fun both => nomatch both.1).trans well) final
        requested command unstalled ending room opened held,
    fun r w last fails notClear disable requested free idle state command =>
      State.exec_writeback_failed awaits line phase r last fails notClear disable requested free idle state command,
    fun r last => ?_, fun t none held => State.settle_of_nothing (.inl none) held⟩
  intro line' ended own again others after
  have chan : ended.chan n = { c with line := .valid line' } := State.ended_chan s' n i v r
  have ended_eq : ended = s'.ended n i v r := rfl
  have again_eq : again = ended.claimRequested n v.requested := rfl
  have ctl : (again.chan n).ctl = c.ctl := by rw [again_eq, State.claimRequested_ctl, chan]
  have events : again.events = s.events := by
    rw [again_eq, State.claimRequested_events]
    rfl
  have fault_eq : ∀ w, again.writebackFault n w = fault w := fun w => by
    rw [State.writebackFault, State.recordAddr, State.wordAddr, again_eq, State.claimRequested_mgmt]
    rfl
  have runs : ∀ u, ended.writebackOutcome n v (remembered r) = u → after u := fun u outcome => by
    have run := State.exec_writeback_last awaits line phase r last
    rwa [show ((s.answered rest).ended n i v r).writebackOutcome n v (s.firstFailed failed i r) = u from outcome] at run
  have failing : ∀ w, v.serves.consequence ≠ .clear → remembered r = some w →
      ended.writebackOutcome n v (remembered r) = again.writebackFailed n v.serves w := fun w notClear fails =>
    State.writebackOutcome_of_failed notClear fails
  refine ⟨fun clear => runs _ ?_, fun reload well => runs _ ?_, fun w reload fails disable => ?_,
    fun e final well ending => ?_, fun w requested => ?_, fun w nothing well requested => ?_,
    fun w waits fails disable => runs _ ?_, fun w notClear fails disable => runs _ ?_⟩
  · exact (State.writebackOutcome_of_clear clear).trans (s'.clearDone_setChan n _)
  · rw [State.writebackOutcome_of_reload reload well, ended_eq, State.ended_untaken]
    exact s'.startFill_setChan n _ _
  · have outcome := (failing w (by rw [reload]; decide) fails).trans
      (State.writebackFailed_of_reload disable reload w)
    obtain ⟨takes, waits⟩ := again.failReload_cases n (again.writebackFault n w)
    rw [ctl, fault_eq] at takes waits
    exact ⟨fun none => runs _ (outcome.trans (by rw [fault_eq, takes none])),
      fun some => runs _ (outcome.trans (by rw [fault_eq, waits some]))⟩
  · have outcome : ended.writebackOutcome n v (remembered r) = again.endingDone n :=
      State.writebackOutcome_of_finalEvent final well
    have event : again.finalOf n e = s.finalOf n e :=
      ((State.ended_kept (s := s') line r).trans (ended.claimRequested_kept n v.requested)).finalOf e
    obtain ⟨holds, stalls, enters, discards⟩ := State.endingDone_cases (x := again) (n := n) (e := e)
      (by rw [ctl]; exact ending)
    rw [ctl, events, event] at stalls enters
    rw [ctl] at holds
    rw [ctl, events] at discards
    exact ⟨fun some => runs _ (outcome.trans (holds some)),
      fun none opened full => runs _ (outcome.trans (stalls none opened full)),
      fun none opened room => runs _ (outcome.trans (enters none opened room)),
      fun none closed => runs _ (outcome.trans (discards none closed))⟩
  · have trigger : again = (s'.ended n i v r).triggerWriteback n w := by
      rw [again_eq, requested]
      rfl
    rw [trigger]
    exact s'.ended_requested n i v r w
  · have outcome : ended.writebackOutcome n v (remembered r) = (s'.ended n i v r).triggerWriteback n w := by
      rw [State.writebackOutcome_of_nothing nothing well, requested]
      rfl
    obtain ⟨claims, stays⟩ := s'.ended_requested n i v r w
    exact ⟨fun dirty => runs _ (outcome.trans (claims dirty)), fun clean => runs _ (outcome.trans (stays clean))⟩
  · have other : v.serves.consequence ≠ .reload ∧ v.serves.consequence ≠ .clear := by
      rcases waits with waits | waits <;> rw [waits] <;> decide
    rw [failing w other.2 fails, State.writebackFailed_of_other disable other.1, fault_eq]
  · exact (failing w notClear fails).trans (if_pos disable)

end Sys2Proof.Machine
end

section
/-! PROOFS. The responses of a fill: the word kept, the record installed, the line lost (R49, R50, R64 to R66, R69, R78, R82,
R109, R167). -/

namespace Sys2Proof.Machine

/-! ## The response -/

theorem InFlight.row_of_fill {e : InFlight} {n : ChanId} {i : Nat} (o : e.orphan = false)
    (h : e.owner = .fill n i) : e.row = .fillRead := by
  unfold InFlight.row
  rw [if_neg (by rw [o]; decide), h]

theorem State.exec_fillReadResponse {s : State} {n : ChanId} {i : Nat} {rest : List InFlight} (r : MemResponse)
    (h : s.Awaits (.fill n i) rest) :
    exec (.fillReadResponse r) s = .next ((s.answered rest).fillResponse n i r) := by
  obtain ⟨e, inflight, owner, orphan⟩ := h
  refine congrArg Host.Outcome.next ?_
  rw [State.respond_of_row _ inflight (InFlight.row_of_fill orphan owner), owner]
  rfl

section
variable {s : State} {n : ChanId} {ws : List Word} {o : FillOverlay} {waiting : CommandCode}
  (line : (s.chan n).line = .filling (.granted ws o) waiting) (i : Nat)
include line

theorem State.fillResponse_of_more (d : Word) (h : ws.length ≠ 7) : s.fillResponse n i (.okay d) =
    s.setChan n { s.chan n with line := .filling (.granted (ws ++ [d]) o) waiting } := by
  unfold State.fillResponse
  rw [line]
  exact if_neg h

theorem State.fillResponse_of_last (d : Word) (h : ws.length = 7) :
    s.fillResponse n i (.okay d) = s.installFill n (ws ++ [d]) o waiting := by
  unfold State.fillResponse
  rw [line]
  exact if_pos h

theorem State.fillResponse_of_error : s.fillResponse n i .error = s.failFill n i waiting := by
  unfold State.fillResponse
  rw [line]

end

/-! ## The line through the way out of LOADING -/

/-- A VALID line of channel n stays VALID, its words standing but for STATUS. -/
def LineKept (n : ChanId) (s t : State) : Prop :=
  ∀ v, (s.chan n).line = .valid v →
    ∃ v', (t.chan n).line = .valid v' ∧ v'.words = { v.words with status := v'.words.status }

theorem LineKept.of_line {n : ChanId} {s t : State} (h : (t.chan n).line = (s.chan n).line) : LineKept n s t :=
  fun _ line => ⟨_, h.trans line, rfl⟩

theorem LineKept.trans {n : ChanId} {s t u : State} (h : LineKept n s t) (k : LineKept n t u) : LineKept n s u :=
  fun v line => by
    obtain ⟨v₁, line₁, words₁⟩ := h v line
    obtain ⟨v₂, line₂, words₂⟩ := k v₁ line₁
    exact ⟨v₂, line₂, by rw [words₂, words₁]⟩

theorem State.modStatus_lineKept (s : State) (n : ChanId) (f : Controller → Controller) :
    LineKept n s (s.modStatus n f) := fun _ line => ⟨_, State.modStatus_line line f, rfl⟩

theorem State.triggerWriteback_lineKept (s : State) (n : ChanId) (w : WbServes) :
    LineKept n s (s.triggerWriteback n w) := fun v line => by
  obtain ⟨v', line', words, -⟩ := State.triggerWriteback_line line w
  exact ⟨v', line', by rw [words]⟩

theorem State.enterFaulted_lineKept (s : State) (n : ChanId) (f : PendingFault) : LineKept n s (s.enterFaulted n f) :=
  fun v line => by
    obtain ⟨v', line', words, -⟩ := State.enterFaulted_line line f
    exact ⟨v', line', words⟩

theorem State.modCtl_lineKept (s : State) (n : ChanId) (f : Controller → Controller) : LineKept n s (s.modCtl n f) :=
  .of_line (by rw [State.chan_modCtl_self])

theorem State.faultArise_lineKept (s : State) (n : ChanId) (f : PendingFault) : LineKept n s (s.faultArise n f) := by
  unfold State.faultArise
  simp only
  split
  · exact .of_line rfl
  · split
    · exact s.modCtl_lineKept n _
    · exact s.enterFaulted_lineKept n f

theorem State.enterLinking_lineKept (s : State) (n : ChanId) : LineKept n s (s.enterLinking n) := by
  unfold State.enterLinking
  simp only
  split
  · exact (s.modStatus_lineKept n _).trans (State.faultArise_lineKept _ n _)
  · exact (s.modStatus_lineKept n _).trans (.of_line (by rw [State.chan_raise, State.chan_modChan_self]; rfl))

theorem State.enterByRecord_lineKept (s : State) (n : ChanId) (u : Setup) : LineKept n s (s.enterByRecord n u) := by
  unfold State.enterByRecord
  simp only
  refine (s.modCtl_lineKept n fun k => { k with setup := some u }).trans ?_
  split
  · exact State.modStatus_lineKept _ n _
  · split
    · exact State.enterLinking_lineKept _ n
    · exact (State.modStatus_lineKept _ n _).trans (State.triggerWriteback_lineKept _ n _)

theorem State.installTransition_lineKept (s : State) (n : ChanId) : LineKept n s (s.installTransition n) := by
  unfold State.installTransition
  split
  · exact s.enterFaulted_lineKept n _
  · split
    · exact (s.modCtl_lineKept n _).trans (State.enterFaulted_lineKept _ n _)
    · exact s.enterByRecord_lineKept n _

/-! ## The rows of the way out of LOADING (R69) -/

section
variable {x : State} {n : ChanId}

theorem State.installTransition_of_fault {p : PendingFault} (h : (x.chan n).ctl.pendingFault = some p) :
    x.installTransition n = x.enterFaulted n p := by
  unfold State.installTransition
  rw [h]

theorem State.installTransition_of_bad (pends : (x.chan n).ctl.pendingFault = none)
    (bad : validateSetup ((x.chan n).word .control) = none) :
    x.installTransition n = (x.modCtl n fun k => { k with setup := none }).enterFaulted n (.of .badSetup 0#26) := by
  unfold State.installTransition
  rw [pends]
  simp only [bad]

theorem State.installTransition_of_good {u : Setup} (pends : (x.chan n).ctl.pendingFault = none)
    (good : validateSetup ((x.chan n).word .control) = some u) : x.installTransition n = x.enterByRecord n u := by
  unfold State.installTransition
  rw [pends]
  simp only [good]

/-- The state that a record calls for, by COUNT and CHAIN (R69). -/
theorem State.enterByRecord_cases (x : State) (n : ChanId) (u : Setup) :
    let y := x.modCtl n fun k => { k with setup := some u }
    ((x.chan n).count ≠ 0#24 → x.enterByRecord n u = y.setState n .ready) ∧
    ((x.chan n).count = 0#24 → (x.chan n).chain ≠ 0#26 → x.enterByRecord n u = y.enterLinking n) ∧
    ((x.chan n).count = 0#24 → (x.chan n).chain = 0#26 → x.enterByRecord n u = y.enterEnding n .terminal) := by
  intro y
  have chan : y.chan n = { x.chan n with ctl := { (x.chan n).ctl with setup := some u } } := State.chan_modCtl_self x n _
  have count : (y.chan n).count = (x.chan n).count := by
    rw [chan]
    rfl
  have chain : (y.chan n).chain = (x.chan n).chain := by
    rw [chan]
    rfl
  have eq : x.enterByRecord n u = if (y.chan n).count ≠ 0#24 then y.setState n .ready
      else if (y.chan n).chain ≠ 0#26 then y.enterLinking n else y.enterEnding n .terminal := rfl
  rw [eq, count, chain]
  exact ⟨fun some => if_pos some, fun none names => (if_neg (not_not_intro none)).trans (if_pos names),
    fun none ends => (if_neg (not_not_intro none)).trans (if_neg (not_not_intro ends))⟩

/-- A segment outside the window: the channel is in LINKING, its walker claims the segment, and nothing else of it but
STATUS has changed (R110). -/
theorem State.enterLinking_chan_of_outside
    (h : (segmentAddrs (x.chan n).chain).any (fun a => x.inWindow a) = false) :
    ((x.enterLinking n).chan n).ctl = { (x.chan n).ctl with state := .linking } ∧
    ((x.enterLinking n).chan n).walker = { (x.chan n).walker with phase := .claimed (x.chan n).chain } := by
  have chain := (x.setState_kept n .linking).chain
  have eq : x.enterLinking n = ((x.setState n .linking).modChan n fun c =>
      { c with walker := { c.walker with phase := .claimed ((x.setState n .linking).chan n).chain } }).raise (.link n) :=
    if_neg (by rw [chain]; exact Bool.eq_false_iff.1 h)
  rw [eq, State.chan_raise, State.chan_modChan_self, chain]
  exact ⟨x.setState_ctl n _, by rw [State.setState, State.modStatus_walker]⟩

end

section
variable {x : State} {n : ChanId} {v : ValidLine} (line : (x.chan n).line = .valid v)
include line

/-- The waiting command stands in COMMAND until settle (R64, R65). -/
theorem State.installTransition_untaken :
    ((x.installTransition n).chan n).untaken = commandOf v.words.control := by
  obtain ⟨v', line', words⟩ := x.installTransition_lineKept n v line
  rw [Channel.untaken_of_valid line', words]

/-- A failed check of the setup gives FAULTED(BAD_SETUP), and no setup is latched (R69). -/
theorem State.installTransition_bad (pends : (x.chan n).ctl.pendingFault = none)
    (bad : validateSetup v.words.control = none) :
    let t := x.installTransition n
    (t.chan n).ctl.state = .faulted ∧ (t.chan n).ctl.lastFault = some .badSetup ∧ (t.chan n).ctl.setup = none ∧
      x.EventCreated t n { x.faultEvent n .badSetup 0#26 with word1 := v.words.cookie } := by
  intro t
  have chan := x.chan_modCtl_self n fun k => { k with setup := none }
  have eq : t = (x.modCtl n fun k => { k with setup := none }).enterFaulted n (.of .badSetup 0#26) :=
    State.installTransition_of_bad pends ((congrArg validateSetup (Channel.word_of_valid line .control)).trans bad)
  have cookie : (x.chan n).cookie = v.words.cookie := by
    rw [Channel.cookie_eq_word, Channel.word_of_valid line]
    rfl
  have event : (x.modCtl n fun k => { k with setup := none }).faultEvent n .badSetup 0#26 =
      { x.faultEvent n .badSetup 0#26 with word1 := v.words.cookie } := by
    rw [State.faultEvent, chan, State.faultEvent, ← cookie]
    rfl
  obtain ⟨state, fault, created⟩ := State.enterFaulted_faulted
    (x.modCtl n fun k => { k with setup := none }) n (.of .badSetup 0#26)
  obtain ⟨slot, ctl⟩ := State.enterFaulted_ctl (x.modCtl n fun k => { k with setup := none }) n (.of .badSetup 0#26)
  rw [chan] at ctl
  rw [eq, ← event]
  exact ⟨state, fault, by rw [ctl], created.congr rfl (by rw [chan]) rfl rfl⟩

/-- The rows of a good setup: READY, LINKING or ENDING(TERMINAL), with the setup latched (R69). -/
theorem State.installTransition_good {u : Setup} (pends : (x.chan n).ctl.pendingFault = none)
    (good : validateSetup v.words.control = some u) :
    let t := x.installTransition n
    let k := { (x.chan n).ctl with setup := some u }
    (countOf v.words.count ≠ 0#24 → (t.chan n).ctl = { k with state := .ready }) ∧
    (countOf v.words.count = 0#24 → addrOf v.words.chain ≠ 0#26 →
      (segmentAddrs (addrOf v.words.chain)).any (fun a => x.inWindow a) = false →
      (t.chan n).ctl = { k with state := .linking } ∧
      (t.chan n).walker = { (x.chan n).walker with phase := .claimed (addrOf v.words.chain) } ∧
      { kind := .link n, age := 0 } ∈ t.arb.upkeep) ∧
    (countOf v.words.count = 0#24 → addrOf v.words.chain = 0#26 →
      (t.chan n).ctl = { k with state := .ending, ending := some .terminal } ∧
      (t.chan n).done24 = field 0 24 v.words.done ∧ (t.chan n).segments16 = segmentsOf v.words.segments ∧
      x.WritebackTriggered t n ∧ t.WritebackServes n .finalEvent) := by
  intro t k
  have chan := x.chan_modCtl_self n fun k => { k with setup := some u }
  have eq : t = x.enterByRecord n u :=
    State.installTransition_of_good pends ((congrArg validateSetup (Channel.word_of_valid line .control)).trans good)
  obtain ⟨ready, linking, ending⟩ := x.enterByRecord_cases n u
  have count : (x.chan n).count = countOf v.words.count := congrArg countOf (Channel.word_of_valid line .count)
  have chain : (x.chan n).chain = addrOf v.words.chain := congrArg addrOf (Channel.word_of_valid line .chain)
  rw [count] at ready linking ending
  rw [chain] at linking ending
  refine ⟨fun some => ?_, fun none names outside => ?_, fun none ends => ?_⟩
  · rw [eq, ready some, State.setState_ctl, chan]
  · have chain' : ((x.modCtl n fun k => { k with setup := some u }).chan n).chain = addrOf v.words.chain := by
      rw [chan]
      exact chain
    have outside' : (segmentAddrs ((x.modCtl n fun k => { k with setup := some u }).chan n).chain).any
        (fun a => (x.modCtl n fun k => { k with setup := some u }).inWindow a) = false := by
      rw [chain']
      exact outside
    obtain ⟨ctl, walker⟩ := State.enterLinking_chan_of_outside outside'
    obtain ⟨-, -, claim⟩ := State.enterLinking_of_outside outside'
    rw [eq, linking none names]
    exact ⟨by rw [ctl, chan], by rw [walker, chain', chan], claim⟩
  · have line' : ((x.modCtl n fun k => { k with setup := some u }).chan n).line = .valid v := by
      rw [chan]
      exact line
    obtain ⟨triggered, serves⟩ := State.enterEnding_finals line' .terminal
    have kept := State.enterEnding_kept (x.modCtl n fun k => { k with setup := some u }) n .terminal
    rw [eq, ending none ends]
    refine ⟨by rw [State.enterEnding_ctl, chan], ?_, ?_, triggered.of_phase line line' rfl, serves⟩
    · exact congrArg (field 0 24) ((kept.words .done (by decide)).trans (Channel.word_of_valid line' .done))
    · exact congrArg segmentsOf ((kept.words .segments (by decide)).trans (Channel.word_of_valid line' .segments))

end

/-! ## The install's refusal (R49, R76, R82) -/

theorem State.leaveLoading_of_unstalled {x : State} {n : ChanId} (h : (x.chan n).ctl.stalled = none) :
    x.leaveLoading n = (x.installTransition n).settle n := by
  unfold State.leaveLoading Channel.isStalled
  rw [h]
  rfl

theorem State.leaveLoading_of_stalled {x : State} {n : ChanId} (h : (x.chan n).ctl.stalled ≠ none) :
    x.leaveLoading n = x.modCtl n fun k => { k with heldCompletion := some .install } :=
  if_pos (Option.isSome_iff_ne_none.2 h)

/-- The part with the record installed, before the install's refusal and the way out of LOADING. -/
def State.installed (s : State) (n : ChanId) (words : List Word) (o : FillOverlay) (waiting : CommandCode) : State :=
  s.modChan n fun c => c.install words o waiting

theorem State.installFill_of_same {s : State} {n : ChanId} {words : List Word} {o : FillOverlay} (waiting : CommandCode)
    (h : setupMerged (recordOfList words) o = false) :
    s.installFill n words o waiting = (s.installed n words o waiting).leaveLoading n := by
  unfold State.installFill
  rw [h]
  rfl

theorem State.installFill_of_merged {s : State} {n : ChanId} {words : List Word} {o : FillOverlay}
    (waiting : CommandCode) (h : setupMerged (recordOfList words) o = true) :
    s.installFill n words o waiting = ((s.installed n words o waiting).refuseSetup n 0#3).leaveLoading n := by
  unfold State.installFill
  rw [h]
  rfl

theorem setupMerged_iff (f : Record Word) (o : FillOverlay) :
    setupMerged f o = true ↔ setupBits (o.control.over f.control) ≠ setupBits f.control := bne_iff_ne

/-! ## The plain install (R49, R69, R109) -/

theorem State.installed_chan (s : State) (n : ChanId) (words : List Word) (o : FillOverlay) (waiting : CommandCode) :
    (s.installed n words o waiting).chan n = (s.chan n).install words o waiting := s.chan_modChan_self n _

/-- An install that merged no setup change writes CONTROL as the overlay left it, with the waiting command. -/
theorem installedLine_control (f : Record Word) (o : FillOverlay) (waiting : CommandCode) (status : Word)
    (same : setupBits (o.control.over f.control) = setupBits f.control) :
    (installedLine f o waiting status).words.control = setCommand waiting (o.control.over f.control) := by
  have stands : setField 0 6 (setupBits f.control) (o.control.over f.control) = o.control.over f.control := by
    rw [← same]
    exact setField_field 0 6 _
  exact congrArg (setCommand waiting) stands

theorem commandOf_installedLine (f : Record Word) (o : FillOverlay) (waiting : CommandCode) (status : Word) :
    commandOf (installedLine f o waiting status).words.control = waiting :=
  field_setField 12 3 waiting _ (by decide)

/-- With a good setup, COUNT above 0 and nothing that waits, the install leaves the channel in READY. -/
theorem State.installFill_ready {s : State} {n : ChanId} {words : List Word} {o : FillOverlay} {u : Setup}
    (free : s.Unhindered n) (held : (s.chan n).NoHeld) (same : setupMerged (recordOfList words) o = false)
    (good : validateSetup (installedLine (recordOfList words) o 0#3 (s.chan n).ctl.statusWord).words.control = some u)
    (count : countOf (installedLine (recordOfList words) o 0#3 (s.chan n).ctl.statusWord).words.count ≠ 0#24) :
    let ready := { (s.chan n).ctl with state := .ready, setup := some u : Controller }
    let t := ((s.installed n words o 0#3).modCtl n fun k => { k with setup := some u }).setState n .ready
    s.installFill n words o 0#3 = t ∧
      t.chan n = { (s.chan n).install words o 0#3 with
        ctl := ready
        line := .valid ((installedLine (recordOfList words) o 0#3 (s.chan n).ctl.statusWord).put .status
          ready.statusWord) } := by
  intro ready t
  obtain ⟨unstalled, pends, -⟩ := free
  have chan := s.installed_chan n words o 0#3
  have line := congrArg Channel.line chan
  have enters := (State.enterByRecord_cases (s.installed n words o 0#3) n u).1
    (by rw [show (Channel.count _) = _ from congrArg countOf (Channel.word_of_valid line .count)]; exact count)
  have latched := (s.installed n words o 0#3).chan_modCtl_self n fun k => { k with setup := some u }
  rw [chan] at latched
  have entered := State.modStatus_chan (congrArg Channel.line latched) fun k => { k with state := .ready }
  rw [latched] at entered
  refine ⟨?_, entered⟩
  rw [State.installFill_of_same _ same, State.leaveLoading_of_unstalled (by rw [chan]; exact unstalled),
    State.installTransition_of_good (by rw [chan]; exact pends)
      ((congrArg validateSetup (Channel.word_of_valid line .control)).trans good), enters, State.settle_of_nothing]
  · left
    rw [State.setState, entered]
    exact commandOf_installedLine _ o 0#3 _
  · rw [State.setState, entered]
    exact held

/-! ## The line that is lost (R50, R66, R78) -/

theorem RecWord.ofIndex_index (i : RecWord) : RecWord.ofIndex i.index = i := by
  cases i <;> rfl

/-- The part after a fill read returned ERROR, before the fault: the group has ended, its other reads are orphaned, the
line is INVALID, and its waiting command is in the mailbox (R50, R66). -/
def State.fillLost (s : State) (rest : List InFlight) (n : ChanId) (waiting : CommandCode) : State :=
  State.setChan
    { s with
      mport := { inflight := rest.map fun e => if e.owner.isFill n then { e with orphan := true } else e
                 lock := if s.heldBy (.upkeep (.fill n)) then none else s.mport.lock }
      arb := { s.arb with
        upkeep := s.arb.upkeep.filter fun x => !(x.kind == .fill n || x.kind == .writeback n) } } n
    { s.chan n with line := .invalid, quiet := none, ctl := { (s.chan n).ctl with mailbox := waiting } }

theorem State.fillLost_chan (s : State) (rest : List InFlight) (n : ChanId) (waiting : CommandCode) :
    (s.fillLost rest n waiting).chan n =
      { s.chan n with line := .invalid, quiet := none, ctl := { (s.chan n).ctl with mailbox := waiting } } :=
  State.chan_setChan_self _ n _

theorem State.endGroup_orphan (s : State) (rest : List InFlight) (n : ChanId) :
    ((s.answered rest).endGroup (.upkeep (.fill n))).orphan (Owner.isFill n) =
      { s with
        mport := { inflight := rest.map fun e => if e.owner.isFill n then { e with orphan := true } else e
                   lock := if s.heldBy (.upkeep (.fill n)) then none else s.mport.lock } } := by
  unfold State.endGroup
  have holder : (s.answered rest).heldBy (.upkeep (.fill n)) = s.heldBy (.upkeep (.fill n)) := rfl
  rw [holder]
  split <;> rfl

theorem State.invalidateLine_mailbox (s : State) (n : ChanId) (waiting : CommandCode) :
    ((s.invalidateLine n).modCtl n fun k => { k with mailbox := waiting }) = (s.lineWithdrawn n).setChan n
      { s.chan n with line := .invalid, quiet := none, ctl := { (s.chan n).ctl with mailbox := waiting } } := by
  have chan : (s.invalidateLine n).chan n = { s.chan n with line := .invalid, quiet := none } := by
    rw [State.invalidateLine, State.chan_withdraw, State.chan_modChan_self]
  rw [State.modCtl, State.modChan, chan, State.invalidateLine, State.withdraw_ofLine, State.modChan]
  exact State.setChan_setChan (s.lineWithdrawn n) n _ _

theorem State.failFill_answered (s : State) (rest : List InFlight) (n : ChanId) (i : RecWord) (waiting : CommandCode) :
    (s.answered rest).failFill n i.index waiting = (s.fillLost rest n waiting).takeAtCompletion n
      (.of .memoryDescriptor (s.wordAddr (8 * n.val + i.index))) := by
  unfold State.failFill
  simp only
  rw [State.endGroup_orphan, State.invalidateLine_mailbox, RecWord.ofIndex_index]
  rfl

theorem State.takeAtCompletion_of_stalled {x : State} {n : ChanId} (h : (x.chan n).ctl.stalled ≠ none)
    (f : PendingFault) : x.takeAtCompletion n f =
      x.modCtl n fun k => { k with pendingFault := some ((x.chan n).ctl.pendingFault.getD f) } := by
  have stalled : (x.chan n).isStalled = true := Option.isSome_iff_ne_none.2 h
  unfold State.takeAtCompletion
  simp only
  rw [if_pos stalled, State.pendFault, State.modCtl, State.modCtl, State.modChan, State.modChan]
  cases (x.chan n).ctl.pendingFault <;> rfl

theorem State.takeAtCompletion_of_unstalled {x : State} {n : ChanId} (h : (x.chan n).ctl.stalled = none)
    (f : PendingFault) :
    x.takeAtCompletion n f = (x.enterFaulted n ((x.chan n).ctl.pendingFault.getD f)).settle n := by
  have unstalled : (x.chan n).isStalled = false := by
    rw [Channel.isStalled, h]
    rfl
  unfold State.takeAtCompletion
  simp only
  rw [unstalled]
  rfl

/-! ## The entry to FAULTED of a channel with no VALID line (R78) -/

theorem Channel.modLine_of_invalid {c : Channel} (h : c.line = .invalid) (f : ValidLine → ValidLine) : c.modLine f = c := by
  unfold Channel.modLine
  rw [h]

/-- What the claims of t can be, as those of s are: none is new but a post claim. -/
def State.OnlyPosts (s t : State) : Prop := ∀ c ∈ t.arb.upkeep, c ∈ s.arb.upkeep ∨ c.kind = .post

theorem State.OnlyPosts.of_arb {s t : State} (h : t.arb = s.arb) : s.OnlyPosts t := fun _ mem => .inl (h ▸ mem)

theorem State.OnlyPosts.trans {s t u : State} (h : s.OnlyPosts t) (k : t.OnlyPosts u) : s.OnlyPosts u :=
  fun c mem => (k c mem).elim (h c) .inr

theorem State.failPort_onlyPosts (s : State) (n : ChanId) (code : FaultCode) : s.OnlyPosts (s.failPort n code) := by
  unfold State.failPort
  split <;> exact .of_arb rfl

theorem State.dropLinkClaim_onlyPosts (s : State) (n : ChanId) : s.OnlyPosts (s.dropLinkClaim n) := by
  unfold State.dropLinkClaim
  split
  · exact fun c mem => .inl (List.mem_filter.1 mem).1
  · exact .of_arb rfl

theorem State.raisePost_onlyPosts (s : State) : s.OnlyPosts s.raisePost := by
  unfold State.raisePost
  split
  · intro c mem
    refine (List.mem_append.1 mem).imp_right fun new => ?_
    rw [List.mem_singleton.1 new]
  · exact .of_arb rfl

theorem State.createEvent_onlyPosts (s : State) (n : ChanId) (ev : Event) : s.OnlyPosts (s.createEvent n ev) := by
  unfold State.createEvent
  split
  · exact .of_arb rfl
  · split
    · exact State.raisePost_onlyPosts _
    · exact .of_arb rfl

section
variable {x : State} {n : ChanId} (line : (x.chan n).line = .invalid) (f : PendingFault)
include line

/-- The entry of a channel with no line is the fault's taking and its event: there is no writeback to trigger. -/
theorem State.enterFaulted_of_invalid :
    x.enterFaulted n f = (x.faultTaken n f).createEvent n (x.faultEvent n f.code f.address) ∧
      ((x.faultTaken n f).chan n).line = .invalid ∧ ((x.faultTaken n f).chan n).quiet = (x.chan n).quiet := by
  obtain ⟨w, drop⟩ := (x.failPort n f.code).dropLinkClaim_chan n
  obtain ⟨p, fail⟩ := x.failPort_chan n f.code
  have taken : ((x.faultTaken n f).chan n).line = .invalid ∧
      ((x.faultTaken n f).chan n).quiet = (x.chan n).quiet := by
    rw [State.faultTaken, State.chan_modChan_self, State.modStatus, State.chan_modChan_self, Channel.modCtl, Channel.sync,
      Channel.modLine_of_invalid (by rw [drop, fail]; exact line), Channel.forgetConsequence,
      Channel.modLine_of_invalid (by rw [drop, fail]; exact line), drop, fail]
    exact ⟨line, rfl⟩
  obtain ⟨slot, created⟩ := (x.faultTaken n f).createEvent_chan n (x.faultEvent n f.code f.address)
  refine ⟨?_, taken⟩
  rw [State.enterFaulted_eq]
  split
  · rfl
  · refine State.triggerWriteback_of_not_valid (fun v valid => ?_) .plain
    rw [created, taken.1] at valid
    cases valid

theorem State.enterFaulted_lost :
    ((x.enterFaulted n f).chan n).line = .invalid ∧ ((x.enterFaulted n f).chan n).quiet = (x.chan n).quiet ∧
      ((x.enterFaulted n f).chan n).untaken = (x.chan n).ctl.mailbox ∧ x.OnlyPosts (x.enterFaulted n f) := by
  obtain ⟨eq, taken, quiet⟩ := State.enterFaulted_of_invalid line f
  obtain ⟨slot, created⟩ := (x.faultTaken n f).createEvent_chan n (x.faultEvent n f.code f.address)
  obtain ⟨slot', ctl⟩ := x.enterFaulted_ctl n f
  have line' : ((x.enterFaulted n f).chan n).line = .invalid := by rw [eq, created, taken]
  have answered : x.OnlyPosts (x.faultTaken n f) :=
    ((x.failPort_onlyPosts n f.code).trans (State.dropLinkClaim_onlyPosts _ n)).trans (.of_arb rfl)
  refine ⟨line', by rw [eq, created, quiet], ?_, ?_⟩
  · unfold Channel.untaken
    rw [line', ctl]
  · rw [eq]
    exact answered.trans (State.createEvent_onlyPosts _ n _)

end

/-! ## The rows -/

section
variable {s : State} {n : ChanId} {i : RecWord} {rest : List InFlight} {ws : List Word} {o : FillOverlay}
  {waiting : CommandCode} (awaits : s.Awaits (.fill n i.index) rest)
  (line : (s.chan n).line = .filling (.granted ws o) waiting)
include awaits line

theorem State.exec_fill_more (d : Word) (more : ws.length ≠ 7) : exec (.fillReadResponse (.okay d)) s = .next
    ((s.answered rest).setChan n { s.chan n with line := .filling (.granted (ws ++ [d]) o) waiting }) := by
  rw [State.exec_fillReadResponse _ awaits, State.fillResponse_of_more (s := s.answered rest) line i.index d more]
  rfl

theorem State.exec_fill_last (d : Word) (last : ws.length = 7) : exec (.fillReadResponse (.okay d)) s = .next
    ((s.answered rest).installFill n (ws ++ [d]) o waiting) := by
  rw [State.exec_fillReadResponse _ awaits, State.fillResponse_of_last (s := s.answered rest) line i.index d last]

theorem State.exec_fill_error : exec (.fillReadResponse .error) s = .next
    ((s.fillLost rest n waiting).takeAtCompletion n (.of .memoryDescriptor (s.wordAddr (8 * n.val + i.index)))) := by
  rw [State.exec_fillReadResponse _ awaits, State.fillResponse_of_error (s := s.answered rest) line i.index,
    State.failFill_answered]

end

/-- The fault that follows the loss of the line: the failed word's, or the one that was pending before (R50, R78). -/
def State.fillFault (s : State) (n : ChanId) (i : RecWord) : PendingFault :=
  (s.chan n).ctl.pendingFault.getD (.of .memoryDescriptor (s.wordAddr (8 * n.val + i.index)))

/-- An ERROR of a fill read: a stalled channel keeps its fault pending, another takes it (R50, R78, R167). -/
theorem State.exec_fill_error_cases {s : State} {n : ChanId} {i : RecWord} {rest : List InFlight} {ws : List Word}
    {o : FillOverlay} {waiting : CommandCode} (awaits : s.Awaits (.fill n i.index) rest)
    (line : (s.chan n).line = .filling (.granted ws o) waiting) :
    let lost := s.fillLost rest n waiting
    let fault := s.fillFault n i
    ((s.chan n).ctl.stalled ≠ none → exec (.fillReadResponse .error) s = .next
      (lost.modCtl n fun k => { k with pendingFault := some fault })) ∧
    ((s.chan n).ctl.stalled = none → exec (.fillReadResponse .error) s = .next
      ((lost.enterFaulted n fault).settle n)) := by
  intro lost fault
  have runs := State.exec_fill_error awaits line
  have chan : lost.chan n = _ := s.fillLost_chan rest n waiting
  have takes : (lost.chan n).ctl.pendingFault.getD (.of .memoryDescriptor (s.wordAddr (8 * n.val + i.index))) = fault := by
    rw [chan]
    rfl
  refine ⟨fun stalled => ?_, fun unstalled => ?_⟩
  · rw [runs, State.takeAtCompletion_of_stalled (by rw [chan]; exact stalled), takes]
  · rw [runs, State.takeAtCompletion_of_unstalled (by rw [chan]; exact unstalled), takes]

/-- The way out of LOADING of an install with and without a merged setup change (R49, R69, R76, R82). -/
theorem State.installFill_cases {s : State} {n : ChanId} {words : List Word} {o : FillOverlay} {waiting : CommandCode} :
    let x := s.installed n words o waiting
    let t := s.installFill n words o waiting
    let merged := setupBits (o.control.over (recordOfList words).control) ≠ setupBits (recordOfList words).control
    let refused := x.refuse n 0#3 .setupLocked
    let held := fun u : State => t = u.modCtl n fun k => { k with heldCompletion := some .install }
    (¬ merged → (s.chan n).ctl.stalled = none → t = (x.installTransition n).settle n) ∧
    (¬ merged → (s.chan n).ctl.stalled ≠ none → held x) ∧
    (merged → (s.chan n).ctl.stalled ≠ none → held (x.setRefusal n .setupLocked)) ∧
    (merged → (s.chan n).ctl.stalled = none →
      ((refused.chan n).ctl.stalled = none → t = (refused.installTransition n).settle n) ∧
      ((refused.chan n).ctl.stalled ≠ none → held refused)) := by
  intro x t merged refused held
  have ctl : (x.chan n).ctl = (s.chan n).ctl := by
    rw [show x.chan n = _ from s.installed_chan n words o waiting]
    rfl
  have same : ¬ merged → t = x.leaveLoading n := fun no =>
    State.installFill_of_same waiting (Bool.eq_false_iff.2 (mt (setupMerged_iff _ o).1 no))
  have differs : merged → t = (x.refuseSetup n 0#3).leaveLoading n := fun yes =>
    State.installFill_of_merged waiting ((setupMerged_iff _ o).2 yes)
  have setup := x.refuseSetup_cases n 0#3
  rw [ctl] at setup
  refine ⟨fun no unstalled => ?_, fun no stalled => ?_, fun yes stalled => ?_, fun yes unstalled => ?_⟩
  · rw [same no, State.leaveLoading_of_unstalled (by rw [ctl]; exact unstalled)]
  · exact (same no).trans (State.leaveLoading_of_stalled (by rw [ctl]; exact stalled))
  · obtain ⟨unstalled, -⟩ | ⟨-, eq⟩ := setup
    · exact absurd unstalled stalled
    · have leaves := State.leaveLoading_of_stalled (x := x.setRefusal n .setupLocked) (n := n)
        (by rw [State.setRefusal_ctl, ctl]; exact stalled)
      rw [← eq] at leaves
      rw [← eq]
      exact (differs yes).trans leaves
  · obtain ⟨-, eq⟩ | ⟨stalled, -⟩ := setup
    · have run : t = refused.leaveLoading n := (differs yes).trans (by rw [eq])
      exact ⟨fun free => run.trans (State.leaveLoading_of_unstalled free),
        fun stalls => run.trans (State.leaveLoading_of_stalled stalls)⟩
    · exact absurd unstalled stalled

/-- What the way out of LOADING leaves of an install, s being the part before it (R69). -/
theorem State.installTransition_installed {s : State} {n : ChanId} {words : List Word} {o : FillOverlay}
    {waiting : CommandCode} :
    let c := s.chan n
    let v := installedLine (recordOfList words) o waiting c.ctl.statusWord
    let x := s.installed n words o waiting
    let out := x.installTransition n
    let chain := addrOf v.words.chain
    let good := c.ctl.pendingFault = none ∧ validateSetup v.words.control ≠ none
    (out.chan n).untaken = waiting ∧
    (∀ p, c.ctl.pendingFault = some p →
      (out.chan n).ctl.state = .faulted ∧ (out.chan n).ctl.lastFault = some p.code) ∧
    (c.ctl.pendingFault = none → validateSetup v.words.control = none →
      (out.chan n).ctl.state = .faulted ∧ (out.chan n).ctl.lastFault = some .badSetup ∧
      (out.chan n).ctl.setup = none ∧
      s.EventCreated out n { s.faultEvent n .badSetup 0#26 with word1 := v.words.cookie }) ∧
    (good → countOf v.words.count ≠ 0#24 →
      (out.chan n).ctl = { c.ctl with state := .ready, setup := validateSetup v.words.control }) ∧
    (good → countOf v.words.count = 0#24 → chain ≠ 0#26 →
      (segmentAddrs chain).any (fun a => s.inWindow a) = false →
      (out.chan n).ctl = { c.ctl with state := .linking, setup := validateSetup v.words.control } ∧
      (out.chan n).walker = { phase := .claimed chain, emptyRun := 0, flags := .clear } ∧
      { kind := .link n, age := 0 } ∈ out.arb.upkeep) ∧
    (good → countOf v.words.count = 0#24 → chain = 0#26 →
      (out.chan n).ctl =
        { c.ctl with state := .ending, ending := some .terminal, setup := validateSetup v.words.control } ∧
      (out.chan n).done24 = 0#24 ∧ (out.chan n).segments16 = 0#16 ∧ x.WritebackTriggered out n ∧
      out.WritebackServes n .finalEvent) := by
  intro c v x out chain good
  have chan : x.chan n = c.install words o waiting := s.installed_chan n words o waiting
  have line : (x.chan n).line = .valid v := congrArg Channel.line chan
  have ctl : (x.chan n).ctl = c.ctl := by
    rw [chan]
    rfl
  have pending : (x.chan n).ctl.pendingFault = c.ctl.pendingFault := congrArg Controller.pendingFault ctl
  have window : ∀ a, x.inWindow a = s.inWindow a := State.inWindow_congr rfl
  refine ⟨(State.installTransition_untaken line).trans (commandOf_installedLine _ o waiting _), fun p pends => ?_,
    fun pends bad => ?_, fun ⟨pends, checked⟩ => ?_, fun ⟨pends, checked⟩ => ?_, fun ⟨pends, checked⟩ => ?_⟩
  · obtain ⟨state, fault, -⟩ := x.enterFaulted_faulted n p
    rw [show out = _ from State.installTransition_of_fault (pending.trans pends)]
    exact ⟨state, fault⟩
  · obtain ⟨state, fault, setup, created⟩ := State.installTransition_bad line (pending.trans pends) bad
    have event : { x.faultEvent n .badSetup 0#26 with word1 := v.words.cookie } =
        { s.faultEvent n .badSetup 0#26 with word1 := v.words.cookie } := by
      rw [State.faultEvent, ctl, State.faultEvent]
    rw [← event]
    exact ⟨state, fault, setup, created.congr rfl (by rw [ctl]) rfl rfl⟩
  · obtain ⟨u, setup⟩ := Option.ne_none_iff_exists'.1 checked
    obtain ⟨ready, -, -⟩ := State.installTransition_good line (pending.trans pends) setup
    rw [ctl] at ready
    rw [setup]
    exact ready
  · obtain ⟨u, setup⟩ := Option.ne_none_iff_exists'.1 checked
    obtain ⟨-, linking, -⟩ := State.installTransition_good line (pending.trans pends) setup
    simp only [ctl, window] at linking
    rw [setup]
    intro none names outside
    obtain ⟨entered, walker, claim⟩ := linking none names outside
    exact ⟨entered, walker.trans (by rw [chan]; rfl), claim⟩
  · obtain ⟨u, setup⟩ := Option.ne_none_iff_exists'.1 checked
    obtain ⟨-, -, ending⟩ := State.installTransition_good line (pending.trans pends) setup
    rw [ctl] at ending
    rw [setup]
    exact ending

/-- The install's refusal, s being the part before the install (R49, R81). -/
theorem State.installed_refused {s : State} {n : ChanId} {words : List Word} {o : FillOverlay} {waiting : CommandCode} :
    let refused := (s.installed n words o waiting).refuse n 0#3 .setupLocked
    (refused.chan n).ctl.lastRefusal = some .setupLocked ∧ s.EventCreated refused n
      { kind := .commandRefused, source := BitVec.ofNat 4 n.val, word1 := o.cookie.over (recordOfList words).cookie,
        detailA := refusedDetail 0#3 .setupLocked, detailB := (s.chan n).ctl.startCount.setWidth 32 } := by
  intro refused
  have chan := s.installed_chan n words o waiting
  have created := (s.installed n words o waiting).refuse_created n 0#3 .setupLocked
  rw [State.refusalEvent, chan] at created
  obtain ⟨slot, eq⟩ := (s.installed n words o waiting).refuse_chan n 0#3 .setupLocked
  exact ⟨by rw [show refused.chan n = _ from eq], created.congr rfl (by rw [chan]; rfl) rfl rfl⟩

/-! ## The lost line, in FAULTED (R50, R78) -/

section
variable (s : State) (rest : List InFlight) (n : ChanId) (waiting : CommandCode) (f : PendingFault)

theorem State.fillLost_faulted :
    let t := (s.fillLost rest n waiting).enterFaulted n f
    (t.chan n).line = .invalid ∧ (t.chan n).untaken = waiting ∧ (t.chan n).ctl.state = .faulted ∧
      (t.chan n).ctl.lastFault = some f.code ∧
      s.EventCreated t n { s.faultEvent n f.code f.address with word1 := 0#32 } := by
  intro t
  have chan := s.fillLost_chan rest n waiting
  obtain ⟨line, -, untaken, -⟩ := State.enterFaulted_lost (congrArg Channel.line chan) f
  obtain ⟨state, fault, created⟩ := (s.fillLost rest n waiting).enterFaulted_faulted n f
  rw [State.faultEvent, chan] at created
  exact ⟨line, untaken.trans (by rw [chan]), state, fault, created.congr rfl (by rw [chan]) rfl rfl⟩

/-- No claim of the line is left, and its quiet timer has stopped (R40). -/
theorem State.fillLost_withdrawn :
    let t := (s.fillLost rest n waiting).enterFaulted n f
    (t.chan n).quiet = none ∧ ∀ c ∈ t.arb.upkeep, c.kind ≠ .fill n ∧ c.kind ≠ .writeback n := by
  intro t
  have chan := s.fillLost_chan rest n waiting
  obtain ⟨-, quiet, -, posts⟩ := State.enterFaulted_lost (congrArg Channel.line chan) f
  refine ⟨quiet.trans (by rw [chan]), fun c mem => ?_⟩
  obtain mem | post := posts c mem
  · have kinds := (List.mem_filter.1 mem).2
    simpa using kinds
  · rw [post]
    exact ⟨nofun, nofun⟩

end

/-- Settles O45: the word kept, the plain install, the install by its cases, and the lost line. -/
theorem fillResponseInstallsTheRecord : Obligations.FillResponseInstallsTheRecord := by
  intro n i rest ws o waiting s awaits line c s'
  refine ⟨fun d more => State.exec_fill_more awaits line d more, ?_, ?_, ?_, ?_⟩
  · intro d u last free held none f same good count
    subst none
    have control := installedLine_control f o 0#3 c.ctl.statusWord same
    obtain ⟨eq, chan⟩ := State.installFill_ready (s := s') (words := ws ++ [d]) free held
      (by rw [setupMerged, bne_eq_false_iff_eq]; exact same) ((congrArg validateSetup control).trans good) count
    have run := (State.exec_fill_last awaits line d last).trans (congrArg Host.Outcome.next eq)
    have only : s.OnlyChannel n (s'.installFill n (ws ++ [d]) o 0#3) :=
      (s'.installFill_step n (ws ++ [d]) o 0#3).onlyChannel
    rw [eq] at only
    refine ⟨_, _, run, congrArg Channel.line chan, ?_, rfl, congrArg Channel.ctl chan, congrArg Channel.quiet chan, ?_, ?_,
      rfl, rfl, rfl, only⟩
    · rw [ValidLine.put_status_words, ← control]
      rfl
    · rw [chan]
      rfl
    · rw [chan]
      rfl
  · intro d last f m merged words installed run held refused out chain good
    have runs := State.exec_fill_last awaits line d last
    obtain ⟨goes, holds, refuses, follows⟩ :=
      State.installFill_cases (s := s') (n := n) (words := ws ++ [d]) (o := o) (waiting := waiting)
    refine ⟨fun no unstalled => runs.trans (congrArg _ (goes no unstalled)),
      fun no stalled => runs.trans (congrArg _ (holds no stalled)),
      fun yes stalled => runs.trans (congrArg _ (refuses yes stalled)), fun yes unstalled => ?_, fun _ => ?_⟩
    · obtain ⟨reason, created⟩ := State.installed_refused (s := s') (n := n) (words := ws ++ [d]) (o := o)
        (waiting := waiting)
      obtain ⟨free, stalls⟩ := follows yes unstalled
      exact ⟨reason, created, fun h => runs.trans (congrArg _ (free h)), fun h => runs.trans (congrArg _ (stalls h))⟩
    · exact State.installTransition_installed (s := s') (n := n) (words := ws ++ [d]) (o := o) (waiting := waiting)
  · intro fault lost out
    obtain ⟨stalls, taken⟩ := State.exec_fill_error_cases awaits line
    exact ⟨stalls, fun unstalled => ⟨taken unstalled, s.fillLost_faulted rest n waiting fault⟩⟩
  · intro free none state
    obtain ⟨unstalled, pends, -⟩ := free
    obtain ⟨-, taken⟩ := State.exec_fill_error_cases awaits line
    have run := taken unstalled
    rw [State.fillFault, pends, Option.getD_none] at run
    obtain ⟨lost, untaken, faulted, fault, created⟩ := s.fillLost_faulted rest n waiting
      (.of .memoryDescriptor (s.wordAddr (8 * n.val + i.index)))
    obtain ⟨quiet, claims⟩ := s.fillLost_withdrawn rest n waiting
      (.of .memoryDescriptor (s.wordAddr (8 * n.val + i.index)))
    have settled := State.settle_of_nothing (.inl (untaken.trans none)) (State.enterFaulted_noHeld _ n _)
    have only : s.OnlyChannel n (s'.fillResponse n i.index .error) := (s'.fillResponse_turn n i.index .error).1.onlyChannel
    have response := Host.Outcome.next.inj ((State.exec_fillReadResponse .error awaits).symm.trans run)
    rw [show s'.fillResponse n i.index .error = _ from response, settled] at only
    rw [settled] at run
    exact ⟨_, run, lost, quiet, faulted, fault, created, (State.enterFaulted_step _ n _).mport, claims, only⟩

end Sys2Proof.Machine
end

section
/-! PROOFS. STATUS in every VALID line, and what the rows of one channel leave alone (R62). -/

namespace Sys2Proof.Machine

/-- Settles O8: the STATUS law is one that each command and each tick keeps. -/
theorem everyStepKeepsTheStatusLaw : Obligations.EveryStepKeepsTheStatusLaw :=
  fun _ _ caps law h => (step_keepsLaws h).status caps law

/-- UNKNOWN_COMMAND is the row of the codes 6 and 7 alone (log 3). -/
theorem State.exec_unknownCommand_step (s : State) (n : ChanId) (code : CommandCode) :
    ∃ t, exec (.unknownCommand n code) s = .next t ∧ ChannelStep n s t := by
  by_cases row : code = 6#3 ∨ code = 7#3
  · exact ⟨_, congrArg Host.Outcome.next (if_pos row), s.command_step n code⟩
  · exact ⟨_, congrArg Host.Outcome.next (if_neg row), .refl n s⟩

/-- Settles O33: each of the rows is a ChannelStep. -/
theorem channelCommandsTouchOnlyTheirChannel : Obligations.ChannelCommandsTouchOnlyTheirChannel := by
  intro n code req s c row
  have step : ∃ t, exec c s = .next t ∧ ChannelStep n s t := by
    simp only [List.mem_cons, List.not_mem_nil, or_false] at row
    rcases row with rfl | rfl | rfl | rfl | rfl | rfl | rfl | rfl
    · exact ⟨_, rfl, s.command_step n _⟩
    · exact ⟨_, rfl, s.command_step n _⟩
    · exact ⟨_, rfl, s.command_step n _⟩
    · exact ⟨_, rfl, s.command_step n _⟩
    · exact ⟨_, rfl, s.command_step n _⟩
    · exact s.exec_unknownCommand_step n code
    · exact ⟨_, rfl, s.arrive_step n req⟩
    · exact ⟨_, rfl, s.quietExpires_step n⟩
  obtain ⟨t, run, step⟩ := step
  exact ⟨t, run, step.onlyChannel, step.mport, step.status⟩

end Sys2Proof.Machine
end

section
/-! PROOFS. A command that is taken, and the held request that is considered after it (R64 to R66, R86, R90). -/

namespace Sys2Proof.Machine

/-! ## The taking of a command (R64) -/

/-- Of two settings of one field the second stands. -/
theorem setField_setField (start len : Nat) (a b : BitVec len) (w : Word) :
    setField start len a (setField start len b w) = setField start len a w := by
  apply BitVec.eq_of_getLsbD_eq
  intro i hi
  rw [getLsbD_setField, getLsbD_setField, getLsbD_setField]
  split <;> rfl

/-- The taking of a command leaves no trace of which one stood in the mailbox. -/
theorem Channel.placeCommand_emptyMailbox (c : Channel) (code : CommandCode) :
    (c.placeCommand code).emptyMailbox = c.emptyMailbox := by
  obtain ⟨ctl, port, line, quiet, walker⟩ := c
  cases line with
  | invalid => rfl
  | filling p waiting => rfl
  | valid v =>
    have emptied : setCommand 0#3 (setCommand code v.words.control) = setCommand 0#3 v.words.control :=
      setField_setField 12 3 _ _ _
    simp only [Channel.placeCommand, Channel.emptyMailbox, ValidLine.put, Record.set, emptied]

/-- The part at the taking of channel n's untaken command (R64). -/
def State.emptied (s : State) (n : ChanId) : State := s.modChan n Channel.emptyMailbox

/-- A command that channel n takes is obeyed with the mailbox empty, then a held request is considered (R64, R65). -/
theorem State.command_of_takes {s : State} {n : ChanId} (takes : s.Takes n) {code : CommandCode} (some : code ≠ 0#3) :
    s.command n code = ((s.emptied n).obey n code).considerHeld n := by
  obtain ⟨reaches, takes⟩ := takes
  have chan := s.chan_modChan_self n fun c => c.placeCommand code
  have taken : (s.modChan n fun c => c.placeCommand code).takeUntaken n = (s.emptied n).obey n code := by
    rw [State.takeUntaken_of_command, chan, Channel.untaken_placeCommand]
    · congr 1
      simp only [State.modChan, State.chan_setChan_self, State.setChan_setChan, Channel.placeCommand_emptyMailbox,
        State.emptied]
    · rw [chan, Channel.canTake_placeCommand, takes]
    · rw [chan, Channel.untaken_placeCommand]
      exact some
  rw [State.command, if_pos reaches, State.offerCommand, State.settle, taken]

/-- A command that channel n cannot take waits as the untaken one (R64). -/
theorem State.command_of_waits {s : State} {n : ChanId} (reaches : s.reachesControllers = true)
    (waits : (s.chan n).canTake = false) (code : CommandCode) :
    s.command n code = (s.setChan n ((s.chan n).placeCommand code)).considerHeld n := by
  have chan := s.chan_modChan_self n fun c => c.placeCommand code
  rw [State.command, if_pos reaches, State.offerCommand, State.settle, State.takeUntaken_of_nothing]
  · rfl
  · exact .inr (by rw [chan, Channel.canTake_placeCommand, waits])

/-- A command reaches no controller of a window that is DISABLED or ENABLING (R86). -/
theorem State.command_of_unreached {s : State} (n : ChanId) (unreached : s.reachesControllers = false)
    (code : CommandCode) : s.command n code = s := by
  rw [State.command, unreached]
  rfl

/-- A channel that takes a command is neither stalled nor clearing (R64). -/
theorem State.Takes.free {s : State} {n : ChanId} (takes : s.Takes n) :
    (s.chan n).ctl.stalled = none ∧ (s.chan n).ctl.clearing = false := by
  have can := takes.2
  simp only [Channel.canTake, Channel.isStalled, Bool.and_eq_true, Bool.not_eq_true', Option.isSome_eq_false_iff,
    Option.isNone_iff_eq_none] at can
  exact ⟨can.1.2, can.2⟩

/-! ## The channel at the taking -/

/-- The line at the taking: COMMAND is NONE and CONTROL is dirty (R45, R64). -/
def ValidLine.emptied (v : ValidLine) : ValidLine := v.put .control (setCommand 0#3 v.words.control)

theorem ValidLine.emptied_command (v : ValidLine) : commandOf v.emptied.words.control = 0#3 :=
  field_setField 12 3 0#3 _ (by decide)

section
variable (s : State) (n : ChanId)

theorem State.emptied_chan : (s.emptied n).chan n = (s.chan n).emptyMailbox := s.chan_modChan_self n _

theorem State.emptied_chan_of_valid {v : ValidLine} (line : (s.chan n).line = .valid v) :
    (s.emptied n).chan n = { s.chan n with line := .valid v.emptied } := by
  rw [State.emptied_chan, Channel.emptyMailbox, line]
  rfl

/-- The taking leaves every field of the controller but the mailbox. -/
theorem State.emptied_ctl : ∃ m, ((s.emptied n).chan n).ctl = { (s.chan n).ctl with mailbox := m } := by
  rw [State.emptied_chan, Channel.emptyMailbox]
  split
  · exact ⟨_, rfl⟩
  · exact ⟨_, rfl⟩
  · exact ⟨_, rfl⟩

theorem State.emptied_port : ((s.emptied n).chan n).port = (s.chan n).port := by
  rw [State.emptied_chan, Channel.emptyMailbox]
  split <;> rfl

theorem State.emptied_walker : ((s.emptied n).chan n).walker = (s.chan n).walker := by
  rw [State.emptied_chan, Channel.emptyMailbox]
  split <;> rfl

theorem State.emptied_lineValid : ((s.emptied n).chan n).lineValid = (s.chan n).lineValid := by
  rw [State.emptied_chan, Channel.emptyMailbox]
  split
  · rfl
  · rename_i line
    simp only [Channel.lineValid, line]
  · rename_i line
    simp only [Channel.lineValid, line]

theorem State.emptied_state : ((s.emptied n).chan n).ctl.state = (s.chan n).ctl.state := by
  obtain ⟨m, ctl⟩ := s.emptied_ctl n
  rw [ctl]

theorem State.emptied_untaken : ((s.emptied n).chan n).untaken = 0#3 := by
  rw [State.emptied_chan, Channel.emptyMailbox]
  split
  · rename_i line
    simp only [Channel.untaken, line]
  · rfl
  · rename_i v line
    exact v.emptied_command

/-- The taking changes CONTROL alone of the record's words. -/
theorem State.emptied_word {w : RecWord} (other : w ≠ .control) :
    ((s.emptied n).chan n).word w = (s.chan n).word w := by
  rw [State.emptied_chan, Channel.emptyMailbox]
  split
  · rename_i line
    simp only [Channel.word, line]
  · rename_i line
    simp only [Channel.word, line]
  · rename_i v line
    rw [Channel.word_of_valid line]
    cases w with
    | control => exact absurd rfl other
    | _ => rfl

theorem State.emptied_cookie : ((s.emptied n).chan n).cookie = (s.chan n).cookie := by
  rw [Channel.cookie_eq_word, Channel.cookie_eq_word, s.emptied_word n (by decide)]

theorem State.emptied_refusalEvent (code : CommandCode) (r : RefusalReason) :
    (s.emptied n).refusalEvent n code r = s.refusalEvent n code r := by
  obtain ⟨m, ctl⟩ := s.emptied_ctl n
  rw [State.refusalEvent, s.emptied_cookie, ctl, State.refusalEvent]

/-- An event created after the taking is created by the command. -/
theorem State.EventCreated.of_emptied {s t : State} {n : ChanId} {ev : Event} (h : (s.emptied n).EventCreated t n ev) :
    s.EventCreated t n ev := by
  obtain ⟨m, ctl⟩ := s.emptied_ctl n
  exact h.congr rfl (by rw [ctl]) rfl rfl

/-- A writeback triggered after the taking is triggered by the command. -/
theorem State.WritebackTriggered.of_emptied {s t : State} {n : ChanId} (h : (s.emptied n).WritebackTriggered t n) :
    s.WritebackTriggered t n := fun v line => by
  have emptied : ((s.emptied n).chan n).line = .valid v.emptied := by rw [s.emptied_chan_of_valid n line]
  exact h.of_phase line emptied rfl v line

end

/-! ## The held request after a command (R65, R90) -/

/-- The request of channel n's port has been answered, or stands: no other part of the channel has changed, no claim and
no event. -/
structure PortAnswered (n : ChanId) (s t : State) : Prop where
  chan : ∃ p, t.chan n = { s.chan n with port := p }
  arb : t.arb = s.arb
  events : t.events = s.events

theorem PortAnswered.refl (n : ChanId) (s : State) : PortAnswered n s s := ⟨⟨_, rfl⟩, rfl, rfl⟩

theorem PortAnswered.ctl {n : ChanId} {s t : State} (h : PortAnswered n s t) : (t.chan n).ctl = (s.chan n).ctl := by
  obtain ⟨p, chan⟩ := h.chan
  rw [chan]

theorem PortAnswered.line {n : ChanId} {s t : State} (h : PortAnswered n s t) : (t.chan n).line = (s.chan n).line := by
  obtain ⟨p, chan⟩ := h.chan
  rw [chan]

theorem State.closePort_answered (s : State) (n : ChanId) (a : Answer) : PortAnswered n s (s.closePort n a) :=
  ⟨⟨_, s.closePort_chan n a⟩, rfl, rfl⟩

theorem State.EventCreated.of_answered {s t u : State} {n : ChanId} {ev : Event} (h : s.EventCreated t n ev)
    (k : PortAnswered n t u) : s.EventCreated u n ev := h.congr rfl rfl k.events (by rw [k.ctl])

theorem State.WritebackTriggered.of_answered {s t u : State} {n : ChanId} (h : s.WritebackTriggered t n)
    (k : PortAnswered n t u) : s.WritebackTriggered u n := by
  unfold State.WritebackTriggered at h ⊢
  rw [k.line, k.arb]
  exact h

theorem State.WritebackServes.of_answered {t u : State} {n : ChanId} {q : WbConsequence} (h : t.WritebackServes n q)
    (k : PortAnswered n t u) : u.WritebackServes n q := by
  unfold State.WritebackServes at h ⊢
  rw [k.line]
  exact h

section
variable {s : State} {n : ChanId}

/-- Only a READY channel accepts a held request; in every other state it is answered, or stands (R89, R90). -/
theorem State.considerHeld_answered (other : (s.chan n).ctl.state ≠ .ready) : PortAnswered n s (s.considerHeld n) := by
  unfold State.considerHeld
  simp only
  split
  · split
    · exact .refl n s
    · split
      · exact s.closePort_answered n _
      · exact s.closePort_answered n _
      · exact s.closePort_answered n _
      · exact s.closePort_answered n _
      · rename_i ready
        exact absurd ready other
      · exact .refl n s
  · exact .refl n s

/-- In these states a held request stands (R89). -/
theorem State.considerHeld_of_busy
    (busy : (s.chan n).ctl.state ∈ [ChanState.loading, .linking, .pending, .moving, .draining]) :
    s.considerHeld n = s := by
  unfold State.considerHeld
  simp only
  split
  · split
    · rfl
    · simp only [List.mem_cons, List.not_mem_nil, or_false] at busy
      rcases busy with h | h | h | h | h <;> rw [h]
  · rfl

/-- A stalled channel considers no request (R90). -/
theorem State.considerHeld_of_stalled (stalled : (s.chan n).ctl.stalled ≠ none) : s.considerHeld n = s := by
  have : (s.chan n).isStalled = true := Option.isSome_iff_ne_none.2 stalled
  unfold State.considerHeld
  simp only [this, if_true]
  split <;> rfl

/-- A change of the controller that leaves the mailbox leaves the untaken command. -/
theorem State.modStatus_untaken (s : State) (n : ChanId) (f : Controller → Controller)
    (h : ∀ k, (f k).mailbox = k.mailbox := by intro _; rfl) :
    ((s.modStatus n f).chan n).untaken = (s.chan n).untaken := by
  rw [State.modStatus, State.chan_modChan_self, Channel.modCtl, Channel.sync, Channel.modLine, Channel.untaken,
    Channel.untaken]
  cases line : (s.chan n).line with
  | invalid => exact h _
  | filling p w => simp
  | valid v => rfl

theorem State.setState_untaken (s : State) (n : ChanId) (st : ChanState) :
    ((s.setState n st).chan n).untaken = (s.chan n).untaken := s.modStatus_untaken n _

/-- The consideration of a held request changes the port, the state and STATUS, and no event. -/
theorem State.considerHeld_leaves (s : State) (n : ChanId) :
    (∃ st, ((s.considerHeld n).chan n).ctl = { (s.chan n).ctl with state := st }) ∧
    ((s.considerHeld n).chan n).untaken = (s.chan n).untaken ∧ (s.considerHeld n).events = s.events := by
  by_cases ready : (s.chan n).ctl.state = .ready
  · unfold State.considerHeld
    simp only [ready]
    split
    · split
      · exact ⟨⟨_, rfl⟩, rfl, rfl⟩
      · split
        · refine ⟨⟨.pending, ?_⟩, ?_, rfl⟩
          · rw [State.acceptRequest, State.setState_ctl, State.chan_modChan_self]
          · rw [State.acceptRequest, State.setState_untaken, State.chan_modChan_self]
            rfl
        · rw [State.closePort_chan]
          exact ⟨⟨_, rfl⟩, rfl, rfl⟩
    · exact ⟨⟨_, rfl⟩, rfl, rfl⟩
  · have answered := State.considerHeld_answered ready
    obtain ⟨p, chan⟩ := answered.chan
    rw [chan]
    exact ⟨⟨_, rfl⟩, rfl, answered.events⟩

end

/-! ## Refused commands (R81) -/

theorem State.refuse_untaken (s : State) (n : ChanId) (code : CommandCode) (r : RefusalReason) :
    ((s.refuse n code r).chan n).untaken = (s.chan n).untaken := by
  obtain ⟨slot, eq⟩ := (s.setRefusal n r).createEvent_chan n (s.refusalEvent n code r)
  rw [State.refuse_eq, eq, ← s.modStatus_untaken n fun k => { k with lastRefusal := some r }]
  rfl

/-- A command that is obeyed by a refusal (R64, R65, R81). -/
theorem State.command_refused {s : State} {n : ChanId} (takes : s.Takes n) {code : CommandCode} (some : code ≠ 0#3)
    {r : RefusalReason} (refuses : (s.emptied n).obey n code = (s.emptied n).refuse n code r) :
    s.CommandRefused (s.command n code) n code r := by
  obtain ⟨m, emptied⟩ := s.emptied_ctl n
  obtain ⟨slot, refused⟩ := (s.emptied n).refuse_chan n code r
  have ctl := congrArg Channel.ctl refused
  have created := (s.emptied n).refuse_created n code r
  have untaken := (s.emptied n).refuse_untaken n code r
  have port : (((s.emptied n).refuse n code r).chan n).port = (s.chan n).port := by
    rw [refused, ← s.emptied_port n]
    exact State.modStatus_port _ n _
  rw [State.emptied_untaken] at untaken
  rw [State.emptied_refusalEvent] at created
  rw [emptied] at ctl
  rw [State.command_of_takes takes some, refuses]
  obtain ⟨⟨st, ctl'⟩, untaken', events⟩ := ((s.emptied n).refuse n code r).considerHeld_leaves n
  refine ⟨fun held => ?_, ?_, ?_, ?_, untaken'.trans untaken, ?_⟩
  · rw [State.considerHeld_of_noHeld (fun req => by rw [port]; exact held req), ctl]
  · rw [ctl', ctl]
  · rw [ctl', ctl]
  · rw [ctl', ctl]
  · exact created.of_emptied.congr rfl rfl events (by rw [ctl'])

/-! ## The rows that are not taken -/

/-- The row of a command is the command reaching its controller (log 5). -/
theorem State.exec_unknownCommand {n : ChanId} {code : CommandCode} (s : State) (row : code = 6#3 ∨ code = 7#3) :
    exec (.unknownCommand n code) s = .next (s.command n code) := congrArg Host.Outcome.next (if_pos row)

/-- What a command that waits leaves (R64): it is the untaken one, and the request alone of the port may be answered. -/
theorem State.command_waits {s : State} {n : ChanId} (reaches : s.reachesControllers = true)
    (waits : (s.chan n).canTake = false) (code : CommandCode) :
    ((s.command n code).chan n).untaken = code ∧
    ((s.chan n).NoHeld ∨ (s.chan n).ctl.stalled.isSome = true ∨ (s.chan n).ctl.state = .loading ∨
        (s.chan n).ctl.state = .linking → s.command n code = s.setChan n ((s.chan n).placeCommand code)) := by
  have chan := s.chan_setChan_self n ((s.chan n).placeCommand code)
  have port : ((s.chan n).placeCommand code).port = (s.chan n).port := by
    rw [Channel.placeCommand]
    split <;> rfl
  have ctl : ∃ m, ((s.chan n).placeCommand code).ctl = { (s.chan n).ctl with mailbox := m } := by
    rw [Channel.placeCommand]
    split
    · exact ⟨_, rfl⟩
    · exact ⟨_, rfl⟩
    · exact ⟨_, rfl⟩
  obtain ⟨m, ctl⟩ := ctl
  rw [State.command_of_waits reaches waits]
  refine ⟨?_, fun rests => ?_⟩
  · obtain ⟨-, untaken, -⟩ := (s.setChan n ((s.chan n).placeCommand code)).considerHeld_leaves n
    rw [untaken, chan, Channel.untaken_placeCommand]
  · rcases rests with held | stalled | loading | linking
    · exact State.considerHeld_of_noHeld (by rw [chan]; exact fun req => by rw [port]; exact held req)
    · exact State.considerHeld_of_stalled (by rw [chan, ctl]; exact Option.isSome_iff_ne_none.1 stalled)
    · exact State.considerHeld_of_busy (by rw [chan, ctl, loading]; decide)
    · exact State.considerHeld_of_busy (by rw [chan, ctl, linking]; decide)

/-- Settles O34: a command that is not taken waits, one outside ENABLED and DISABLING is lost, and the codes 6 and 7 are
refused. -/
theorem untakenAndUnknownCommands : Obligations.UntakenAndUnknownCommands := by
  refine ⟨fun n s p row => ?_, fun n code s => ⟨fun takes codes => ?_, fun six seven => ?_⟩⟩
  · have run : exec p.1 s = .next (s.command n p.2) := by
      simp only [List.mem_cons, List.not_mem_nil, or_false] at row
      rcases row with rfl | rfl | rfl | rfl | rfl | rfl | rfl
      · rfl
      · rfl
      · rfl
      · rfl
      · rfl
      · exact s.exec_unknownCommand (.inl rfl)
      · exact s.exec_unknownCommand (.inr rfl)
    rw [run]
    refine ⟨fun reaches waits => ?_, fun unreached => congrArg _ (State.command_of_unreached n unreached _)⟩
    obtain ⟨untaken, stands⟩ := State.command_waits reaches waits p.2
    have step := s.command_step n p.2
    exact ⟨_, rfl, untaken, step.onlyChannel, step.mport, stands⟩
  · refine ⟨_, s.exec_unknownCommand codes, ?_⟩
    rcases codes with rfl | rfl
    · exact State.command_refused takes (by decide) rfl
    · exact State.command_refused takes (by decide) rfl
  · exact congrArg Host.Outcome.next (if_neg (not_or.2 ⟨six, seven⟩))

end Sys2Proof.Machine
end

section
/-! PROOFS. The commands that a channel takes: START, STOP, RESUME, ABORT and CLEAR by its state (R63, R67 to R73, R80,
R105). -/

namespace Sys2Proof.Machine

/-! ## A trigger behind a change of STATUS (R45, R54) -/

section
variable (s : State) (n : ChanId) (f : Controller → Controller)

/-- STATUS is dirty in a VALID line whose controller has changed (R45, R62). -/
theorem State.modStatus_dirty (v : ValidLine) (line : ((s.modStatus n f).chan n).line = .valid v) :
    v.dirty.any = true := by
  by_cases valid : ∃ x, (s.chan n).line = .valid x
  · obtain ⟨x, hx⟩ := valid
    cases (State.modStatus_line hx f).symm.trans line
    exact x.put_dirty_any _ _
  · exfalso
    rw [State.modStatus, State.chan_modChan_self, Channel.modCtl, Channel.sync, Channel.modLine] at line
    split at line
    · rename_i x hx
      exact valid ⟨x, hx⟩
    · exact valid ⟨v, line⟩

/-- The trigger of a writeback behind a change of STATUS finds a dirty word. -/
theorem State.modStatus_triggered (w : WbServes) :
    s.WritebackTriggered ((s.modStatus n f).triggerWriteback n w) n := fun v line =>
  (State.triggerWriteback_triggered (s.modStatus_dirty n f) w).of_phase line (State.modStatus_line line f) rfl v line

theorem State.modStatus_line_of_invalid (line : (s.chan n).line = .invalid) :
    ((s.modStatus n f).chan n).line = .invalid := by
  rw [State.modStatus, State.chan_modChan_self, Channel.modCtl, Channel.sync,
    Channel.modLine_of_invalid (c := { s.chan n with ctl := f (s.chan n).ctl }) line]
  exact line

end

/-! ## START (R68) -/

/-- The channel at the taking of START. -/
def State.started (s : State) (n : ChanId) : State :=
  s.modStatus n fun k => { k with state := .loading, startCount := k.startCount + 1#8 }

/-- What the reload of a START serves (R59). -/
def WbServes.reload : WbServes := { consequence := .reload, disable := false }

section
variable {s : State} {n : ChanId}

theorem State.obeyStart_of_invalid (window : s.mgmt.windowState ≠ .disabling)
    (state : (s.chan n).ctl.state = .off ∨ (s.chan n).ctl.state = .ready ∨ (s.chan n).ctl.state = .halted)
    (line : (s.chan n).line = .invalid) : s.obeyStart n = (s.started n).startFill n 0#3 := by
  unfold State.obeyStart
  simp only
  rw [if_pos ⟨window, state⟩, line]
  rfl

theorem State.obeyStart_of_held (window : s.mgmt.windowState ≠ .disabling)
    (state : (s.chan n).ctl.state = .off ∨ (s.chan n).ctl.state = .ready ∨ (s.chan n).ctl.state = .halted)
    (line : (s.chan n).line ≠ .invalid) : s.obeyStart n = (s.started n).triggerWriteback n .reload := by
  unfold State.obeyStart
  simp only
  rw [if_pos ⟨window, state⟩]
  rfl

theorem State.obeyStart_refused (refuses : s.mgmt.windowState = .disabling ∨
    (s.chan n).ctl.state ∈ [ChanState.pending, .moving, .draining, .faulted]) :
    s.obeyStart n = s.refuse n 1#3 .notAllowedInState := by
  refine if_neg fun takes => ?_
  rcases refuses with window | state
  · exact takes.1 window
  · rcases takes.2 with h | h | h <;> rw [h] at state <;> simp at state

/-- START taken: LOADING, START_COUNT one more, and the rest of the controller but the mailbox stands (R68). -/
theorem State.obeyStart_ctl (window : s.mgmt.windowState ≠ .disabling)
    (state : (s.chan n).ctl.state = .off ∨ (s.chan n).ctl.state = .ready ∨ (s.chan n).ctl.state = .halted) :
    ∃ m, ((s.obeyStart n).chan n).ctl =
      { (s.chan n).ctl with state := .loading, startCount := (s.chan n).ctl.startCount + 1#8, mailbox := m } := by
  by_cases line : (s.chan n).line = .invalid
  · refine ⟨0#3, ?_⟩
    rw [State.obeyStart_of_invalid window state line, State.startFill, State.chan_raise, State.chan_withdraw,
      State.chan_modChan_self, State.started, State.modStatus_ctl]
  · refine ⟨(s.chan n).ctl.mailbox, ?_⟩
    rw [State.obeyStart_of_held window state line, State.triggerWriteback_ctl, State.started, State.modStatus_ctl]

end

/-- A writeback that serves a reload makes the line one that is reloading (R59). -/
theorem State.WritebackServes.reloading {t : State} {n : ChanId} {v : ValidLine} (h : t.WritebackServes n .reload)
    (line : (t.chan n).line = .valid v) : v.reloading = true := by
  rcases h v line with ⟨phase, serves⟩ | ⟨o, f, w, -, requested, serves⟩
  · simp [ValidLine.reloading, phase, serves]
  · simp [ValidLine.reloading, requested, serves]

section
variable {s : State} {n : ChanId} (window : s.mgmt.windowState ≠ .disabling)
  (state : (s.chan n).ctl.state = .off ∨ (s.chan n).ctl.state = .ready ∨ (s.chan n).ctl.state = .halted)
include window state

/-- The fill of an INVALID line is claimed (R46, R68). -/
theorem State.obeyStart_fills (line : (s.chan n).line = .invalid) :
    ((s.obeyStart n).chan n).line = .filling .claimed 0#3 ∧
      { kind := .fill n, age := 0 } ∈ (s.obeyStart n).arb.upkeep := by
  rw [State.obeyStart_of_invalid window state line, State.startFill]
  exact ⟨by rw [State.chan_raise, State.chan_withdraw, State.chan_modChan_self],
    List.mem_append_right _ (List.mem_singleton_self _)⟩

theorem State.obeyStart_triggers : s.WritebackTriggered (s.obeyStart n) n := by
  by_cases line : (s.chan n).line = .invalid
  · intro v valid
    cases line.symm.trans valid
  · rw [State.obeyStart_of_held window state line]
    exact s.modStatus_triggered n _ _

/-- The reload of a VALID line waits for its writeback, and COMMAND stands (R59, R68). -/
theorem State.obeyStart_reloads {v : ValidLine} (line : (s.chan n).line = .valid v) :
    ∃ v', ((s.obeyStart n).chan n).line = .valid v' ∧ v'.reloading = true ∧
      commandOf v'.words.control = commandOf v.words.control := by
  have serves : ((s.started n).triggerWriteback n .reload).WritebackServes n .reload :=
    State.triggerWriteback_serves (s.modStatus_dirty n _) (w := .reload) (by decide)
  obtain ⟨v', line', words, -⟩ := State.triggerWriteback_line (State.modStatus_line line
    fun k => { k with state := .loading, startCount := k.startCount + 1#8 }) .reload
  rw [State.obeyStart_of_held window state (by rw [line]; nofun)]
  exact ⟨v', line', serves.reloading line', by rw [words]; rfl⟩

theorem State.obeyStart_quiet : (s.obeyStart n).events = s.events ∧ (s.obeyStart n).out = s.out := by
  by_cases line : (s.chan n).line = .invalid
  · rw [State.obeyStart_of_invalid window state line]
    exact ⟨rfl, rfl⟩
  · rw [State.obeyStart_of_held window state line, State.triggerWriteback_events]
    obtain ⟨-, out⟩ := (s.started n).triggerWriteback_leaves n .reload
    exact ⟨rfl, out⟩

end

/-- Settles O35: START's LOADING, with the fill or the reload by the line's state. -/
theorem startLoadsOrIsRefused : Obligations.StartLoadsOrIsRefused := by
  intro n s takes c
  have run := State.command_of_takes takes (code := 1#3) (by decide)
  change s.command n 1#3 = ((s.emptied n).obeyStart n).considerHeld n at run
  refine ⟨fun window state => ?_, fun refuses => ⟨_, rfl, State.command_refused takes (by decide)
    (State.obeyStart_refused (by rw [s.emptied_state]; exact refuses))⟩⟩
  obtain ⟨m, emptied⟩ := s.emptied_ctl n
  have state : ((s.emptied n).chan n).ctl.state = .off ∨ ((s.emptied n).chan n).ctl.state = .ready ∨
      ((s.emptied n).chan n).ctl.state = .halted := by
    rw [s.emptied_state]
    exact state
  have window : (s.emptied n).mgmt.windowState ≠ .disabling := window
  obtain ⟨m', ctl⟩ := State.obeyStart_ctl window state
  rw [emptied] at ctl
  rw [State.considerHeld_of_busy (by rw [ctl]; exact List.mem_cons_self ..)] at run
  refine ⟨_, congrArg Host.Outcome.next run, by rw [ctl], by rw [ctl], by rw [ctl], by rw [ctl], by rw [ctl],
    fun invalid => State.obeyStart_fills window state ?_, (State.obeyStart_triggers window state).of_emptied,
    fun v valid => ?_, State.obeyStart_quiet window state⟩
  · rw [s.emptied_chan, Channel.emptyMailbox, show (s.chan n).line = _ from invalid]
  · obtain ⟨v', line, reloading, command⟩ :=
      State.obeyStart_reloads window state (v := v.emptied) (by rw [s.emptied_chan_of_valid n valid])
    exact ⟨by rw [Channel.untaken_of_valid line, command, v.emptied_command], v', line, reloading⟩

/-! ## STOP (R70) -/

theorem RecordKept.done {n : ChanId} {s t : State} (h : RecordKept n s t) :
    (t.chan n).done24 = (s.chan n).done24 := congrArg (field 0 24) (h.words .done (by decide))

theorem RecordKept.count {n : ChanId} {s t : State} (h : RecordKept n s t) :
    (t.chan n).count = (s.chan n).count := congrArg countOf (h.words .count (by decide))

/-- HALTED, created at the entry to it (R63, R81). -/
def State.haltedEvent (s : State) (n : ChanId) : Event :=
  { kind := .halted, source := BitVec.ofNat 4 n.val, word1 := (s.chan n).cookie,
    detailA := (s.chan n).done24.setWidth 32, detailB := (s.chan n).count.setWidth 32 }

theorem State.enterHalted_eq (s : State) (n : ChanId) :
    s.enterHalted n = ((s.setState n .halted).createEvent n (s.haltedEvent n)).triggerPlain n := by
  have kept := s.setState_kept n .halted
  unfold State.enterHalted State.channelEvent State.haltedEvent
  simp only [kept.cookie, kept.done, kept.count]

/-- The entry to HALTED creates HALTED and triggers a writeback (R63). -/
theorem State.enterHalted_creates (s : State) (n : ChanId) :
    s.EventCreated (s.enterHalted n) n (s.haltedEvent n) ∧ s.WritebackTriggered (s.enterHalted n) n := by
  obtain ⟨slot, chan⟩ := (s.setState n .halted).createEvent_chan n (s.haltedEvent n)
  have dirty : ∀ v, (((s.setState n .halted).createEvent n (s.haltedEvent n)).chan n).line = .valid v →
      v.dirty.any = true := by
    intro v line
    rw [chan] at line
    exact s.modStatus_dirty n _ v line
  rw [State.enterHalted_eq]
  refine ⟨?_, fun v line => ?_⟩
  · exact ((s.setState n .halted).createEvent_created n (s.haltedEvent n)).congr rfl (by rw [State.setState_ctl])
      (State.triggerWriteback_events _ n _) (by rw [State.triggerPlain, State.triggerWriteback_ctl])
  · have set : (((s.setState n .halted).createEvent n (s.haltedEvent n)).chan n).line =
        .valid (v.put .status { (s.chan n).ctl with state := .halted : Controller }.statusWord) := by
      rw [chan]
      exact State.modStatus_line line _
    exact (State.triggerWriteback_triggered dirty .plain).of_phase line set rfl v line

section
variable {s : State} {n : ChanId}

theorem State.obeyStop_of_ready (state : (s.chan n).ctl.state = .ready) : s.obeyStop n = s.enterHalted n := by
  unfold State.obeyStop
  rw [state]

theorem State.obeyStop_of_request (state : (s.chan n).ctl.state = .pending ∨ (s.chan n).ctl.state = .moving) :
    s.obeyStop n = s.setState n .draining := by
  unfold State.obeyStop
  rcases state with state | state <;> rw [state]

theorem State.obeyStop_refused (state : (s.chan n).ctl.state ∈ [ChanState.off, .draining, .halted, .faulted]) :
    s.obeyStop n = s.refuse n 2#3 .notAllowedInState := by
  simp only [List.mem_cons, List.not_mem_nil, or_false] at state
  unfold State.obeyStop
  rcases state with h | h | h | h <;> rw [h]

end

theorem State.emptied_haltedEvent (s : State) (n : ChanId) : (s.emptied n).haltedEvent n = s.haltedEvent n := by
  unfold State.haltedEvent Channel.done24 Channel.count
  rw [s.emptied_cookie, s.emptied_word n (w := .done) (by decide), s.emptied_word n (w := .count) (by decide)]

/-- Settles O36: STOP's three rows. -/
theorem stopHaltsOrDrains : Obligations.StopHaltsOrDrains := by
  intro n s takes c
  have state := s.emptied_state n
  have run := State.command_of_takes takes (code := 2#3) (by decide)
  change s.command n 2#3 = ((s.emptied n).obeyStop n).considerHeld n at run
  refine ⟨fun ready => ?_, fun request => ?_, fun refuses =>
    ⟨_, rfl, State.command_refused takes (by decide) (State.obeyStop_refused (by rw [state]; exact refuses))⟩⟩
  · rw [State.obeyStop_of_ready (state.trans ready)] at run
    obtain ⟨created, triggered⟩ := (s.emptied n).enterHalted_creates n
    have halted := (s.emptied n).enterHalted_state n
    have answered := State.considerHeld_answered (s := (s.emptied n).enterHalted n) (n := n) (by rw [halted]; decide)
    rw [s.emptied_haltedEvent] at created
    exact ⟨_, congrArg Host.Outcome.next run, by rw [answered.ctl, halted], triggered.of_emptied.of_answered answered,
      created.of_emptied.of_answered answered⟩
  · rw [State.obeyStop_of_request (by rw [state]; exact request),
      State.considerHeld_of_busy (by rw [State.setState_ctl]; simp)] at run
    refine ⟨_, congrArg Host.Outcome.next run, by rw [State.setState_ctl], ?_, ?_, rfl, rfl, rfl⟩
    · rw [State.setState, State.modStatus_port, s.emptied_port]
    · rw [State.setState_untaken, s.emptied_untaken]

/-! ## CLEAR (R73) -/

section
variable {s : State} {n : ChanId}

theorem State.triggerPlain_of_invalid (line : (s.chan n).line = .invalid) : s.triggerPlain n = s :=
  State.triggerWriteback_of_not_valid (fun v valid => by cases line.symm.trans valid) .plain

theorem State.obeyClear_of_off (state : (s.chan n).ctl.state = .off) : s.obeyClear n =
    (s.modStatus n fun k => { k with lastFault := none, lastRefusal := none }).triggerPlain n := by
  unfold State.obeyClear
  rw [state]

/-- CLEAR in OFF (R73): LAST_FAULT and LAST_REFUSAL are NONE, and a VALID line is written back. -/
theorem State.obeyClear_resets (state : (s.chan n).ctl.state = .off) :
    ((s.obeyClear n).chan n).ctl = { (s.chan n).ctl with lastFault := none, lastRefusal := none } ∧
    s.WritebackTriggered (s.obeyClear n) n ∧
    ((s.chan n).line = .invalid → ((s.obeyClear n).chan n).line = .invalid) ∧ (s.obeyClear n).events = s.events := by
  rw [State.obeyClear_of_off state]
  refine ⟨by rw [State.triggerPlain, State.triggerWriteback_ctl, State.modStatus_ctl], s.modStatus_triggered n _ _,
    fun invalid => ?_, State.triggerWriteback_events _ n _⟩
  have line := s.modStatus_line_of_invalid n (fun k => { k with lastFault := none, lastRefusal := none }) invalid
  rw [State.triggerPlain_of_invalid line, line]

/-- The controller after a CLEAR of a FAULTED channel, but for the clearing flag (R73). -/
def State.cleared (s : State) (n : ChanId) : State := s.modStatus n fun k =>
  { k with state := .off, lastFault := none, lastRefusal := none, setup := none, ending := none, abortRecorded := false }

theorem State.obeyClear_of_faulted (state : (s.chan n).ctl.state = .faulted) : s.obeyClear n =
    if ((s.cleared n).chan n).lineValid then
      ((s.cleared n).modCtl n fun k => { k with clearing := true }).triggerWriteback n
        { consequence := .clear, disable := false }
    else s.cleared n := by
  unfold State.obeyClear
  rw [state]
  rfl

theorem State.obeyClear_refused (state : (s.chan n).ctl.state ∈ [ChanState.ready, .pending, .moving, .draining, .halted]) :
    s.obeyClear n = s.refuse n 5#3 .notAllowedInState := by
  simp only [List.mem_cons, List.not_mem_nil, or_false] at state
  unfold State.obeyClear
  rcases state with h | h | h | h | h <;> rw [h]

/-- CLEAR of a FAULTED channel (R73): OFF with its setup gone; the CLEAR writeback of a VALID line, with the clearing flag
set. -/
theorem State.obeyClear_clears (state : (s.chan n).ctl.state = .faulted) (idle : (s.chan n).ctl.clearing = false) :
    ((s.obeyClear n).chan n).ctl =
      { (s.chan n).ctl with
        state := .off, lastFault := none, lastRefusal := none, setup := none, ending := none, abortRecorded := false
        clearing := (s.chan n).lineValid } ∧
    s.WritebackTriggered (s.obeyClear n) n ∧ (s.obeyClear n).WritebackServes n .clear ∧
    ((s.chan n).line = .invalid → ((s.obeyClear n).chan n).line = .invalid) ∧ (s.obeyClear n).events = s.events := by
  rw [State.obeyClear_of_faulted state]
  by_cases valid : ∃ v, (s.chan n).line = .valid v
  · obtain ⟨v, line⟩ := valid
    obtain ⟨x, cleared⟩ : ∃ x, ((s.cleared n).chan n).line = .valid (v.put .status x) :=
      ⟨_, State.modStatus_line line _⟩
    have line' : (((s.cleared n).modCtl n fun k => { k with clearing := true }).chan n).line = .valid (v.put .status x) := by
      rw [State.chan_modCtl_self]
      exact cleared
    have dirty : ∀ x, (((s.cleared n).modCtl n fun k => { k with clearing := true }).chan n).line = .valid x →
        x.dirty.any = true := by
      intro x hx
      cases line'.symm.trans hx
      exact v.put_dirty_any _ _
    have is : (s.chan n).lineValid = true := by
      rw [Channel.lineValid, line]
    rw [if_pos (by rw [Channel.lineValid, cleared])]
    refine ⟨?_, (State.triggerWriteback_triggered dirty _).of_phase line line' rfl, ?_, fun invalid => ?_, ?_⟩
    · rw [State.triggerWriteback_ctl, State.chan_modCtl_self, State.cleared, State.modStatus_ctl, is]
    · exact State.triggerWriteback_serves dirty (w := { consequence := .clear, disable := false }) (by decide)
    · rw [line] at invalid
      cases invalid
    · rw [State.triggerWriteback_events]
      rfl
  · have no : ∀ v, ((s.cleared n).chan n).line ≠ .valid v := by
      intro v hv
      rw [State.cleared, State.modStatus, State.chan_modChan_self, Channel.modCtl, Channel.sync, Channel.modLine] at hv
      split at hv
      · rename_i x hx
        exact valid ⟨x, hx⟩
      · exact valid ⟨v, hv⟩
    have isNot : (s.chan n).lineValid = false := by
      rw [Channel.lineValid]
      split
      · rename_i x hx
        exact absurd ⟨x, hx⟩ valid
      · rfl
    have clearedNot : ((s.cleared n).chan n).lineValid = false := by
      rw [Channel.lineValid]
      split
      · rename_i x hx
        exact absurd hx (no x)
      · rfl
    rw [if_neg (by rw [clearedNot]; decide)]
    refine ⟨?_, fun v line => absurd ⟨v, line⟩ valid, fun v line => absurd line (no v), fun invalid =>
      s.modStatus_line_of_invalid n _ invalid, rfl⟩
    rw [State.cleared, State.modStatus_ctl, isNot, ← idle]

end

/-- Settles O39: CLEAR's three rows. -/
theorem clearReturnsToOff : Obligations.ClearReturnsToOff := by
  intro n s takes c
  have state := s.emptied_state n
  obtain ⟨m, ctl⟩ := s.emptied_ctl n
  have unclear := takes.free.2
  have invalid : c.line = .invalid → ((s.emptied n).chan n).line = .invalid := fun invalid => by
    rw [s.emptied_chan, Channel.emptyMailbox, show (s.chan n).line = _ from invalid]
  have run := State.command_of_takes takes (code := 5#3) (by decide)
  change s.command n 5#3 = ((s.emptied n).obeyClear n).considerHeld n at run
  refine ⟨fun off => ?_, fun faulted => ?_, fun refuses =>
    ⟨_, rfl, State.command_refused takes (by decide) (State.obeyClear_refused (by rw [state]; exact refuses))⟩⟩
  · obtain ⟨ctl', triggered, gone, events⟩ := State.obeyClear_resets (s := s.emptied n) (n := n) (state.trans off)
    rw [ctl] at ctl'
    have still : (((s.emptied n).obeyClear n).chan n).ctl.state = .off := by
      rw [ctl']
      exact off
    have answered := State.considerHeld_answered (s := (s.emptied n).obeyClear n) (n := n) (by rw [still]; decide)
    refine ⟨_, congrArg Host.Outcome.next run, by rw [answered.ctl, still], by rw [answered.ctl, ctl'],
      by rw [answered.ctl, ctl'], by rw [answered.ctl, ctl'], ?_, triggered.of_emptied.of_answered answered,
      fun no => ?_, ?_⟩
    · rw [answered.ctl, ctl']
      exact unclear
    · rw [answered.line]
      exact gone (invalid no)
    · rw [answered.events, events]
      rfl
  · have valid := s.emptied_lineValid n
    obtain ⟨ctl', triggered, serves, gone, events⟩ := State.obeyClear_clears (s := s.emptied n) (n := n)
      (state.trans faulted) (by rw [ctl]; exact unclear)
    rw [ctl, valid] at ctl'
    have gone' : (((s.emptied n).obeyClear n).chan n).ctl.state = .off := by rw [ctl']
    have answered := State.considerHeld_answered (s := (s.emptied n).obeyClear n) (n := n) (by rw [gone']; decide)
    refine ⟨_, congrArg Host.Outcome.next run, by rw [answered.ctl, gone'], by rw [answered.ctl, ctl'],
      by rw [answered.ctl, ctl'], by rw [answered.ctl, ctl'], by rw [answered.ctl, ctl'], by rw [answered.ctl, ctl'],
      triggered.of_emptied.of_answered answered, serves.of_answered answered, fun no => ?_, ?_⟩
    · rw [answered.line]
      exact gone (invalid no)
    · rw [answered.events, events]
      rfl

end Sys2Proof.Machine
end

section
/-! PROOFS. ABORT and RESUME by the channel's state (R69, R71, R72, R80, R105, R110). -/

namespace Sys2Proof.Machine

/-! ## The entry to ENDING (R80) -/

section
variable (s : State) (n : ChanId) (e : EndingKind)

/-- The entry to ENDING triggers the writeback that the final event waits for (R63, R80). -/
theorem State.enterEnding_triggers :
    s.WritebackTriggered (s.enterEnding n e) n ∧ (s.enterEnding n e).WritebackServes n .finalEvent :=
  ⟨s.modStatus_triggered n _ _, State.triggerWriteback_serves (s.modStatus_dirty n _)
    (w := { consequence := .finalEvent, disable := false }) (by decide)⟩

/-- The entry to ENDING leaves the port and the Chain Walker, and sends nothing. -/
theorem State.enterEnding_leaves :
    ((s.enterEnding n e).chan n).port = (s.chan n).port ∧ ((s.enterEnding n e).chan n).walker = (s.chan n).walker ∧
    (s.enterEnding n e).out = s.out := by
  obtain ⟨⟨l, chan⟩, out⟩ := (s.modStatus n fun k => { k with state := .ending, ending := some e }).triggerWriteback_leaves n
    { consequence := .finalEvent, disable := false }
  rw [State.enterEnding, chan, out]
  exact ⟨s.modStatus_port n _, s.modStatus_walker n _, rfl⟩

end

/-- A trigger is one of every state whose line of channel n is the same. -/
theorem State.WritebackTriggered.of_line {s u t : State} {n : ChanId} (h : u.WritebackTriggered t n)
    (line : (u.chan n).line = (s.chan n).line) : s.WritebackTriggered t n := by
  unfold State.WritebackTriggered at h ⊢
  rw [← line]
  exact h

/-! ## ABORT (R72, R105) -/

section
variable {s : State} {n : ChanId}

theorem State.obeyAbort_of_still (state : (s.chan n).ctl.state = .ready ∨ (s.chan n).ctl.state = .halted) :
    s.obeyAbort n = s.enterAborted n := by
  unfold State.obeyAbort
  rcases state with h | h <;> rw [h]

theorem State.obeyAbort_of_accepted {req : DeviceRequest} (port : (s.chan n).port = .accepted req)
    (state : (s.chan n).ctl.state = .pending ∨ (s.chan n).ctl.state = .draining) :
    s.obeyAbort n = (s.closePort n .cancelled).enterAborted n := by
  have cancels : s.cancelAccepted n = s.closePort n .cancelled := by
    unfold State.cancelAccepted
    rw [port]
  have claimed : (s.chan n).breakClaimed = true := by
    unfold Channel.breakClaimed
    rw [port]
  unfold State.obeyAbort
  rcases state with h | h
  · rw [h, cancels]
  · rw [h]
    exact (if_pos claimed).trans (by rw [cancels])

theorem State.obeyAbort_of_granted
    (state : (s.chan n).ctl.state = .moving ∨ (s.chan n).ctl.state = .draining ∧ (s.chan n).breakClaimed = false) :
    s.obeyAbort n = s.modCtl n fun k => { k with abortRecorded := true } := by
  unfold State.obeyAbort
  rcases state with h | ⟨h, granted⟩
  · rw [h]
  · rw [h]
    exact if_neg (by rw [granted]; decide)

theorem State.obeyAbort_refused (state : (s.chan n).ctl.state = .off ∨ (s.chan n).ctl.state = .faulted) :
    s.obeyAbort n = s.refuse n 4#3 .notAllowedInState := by
  unfold State.obeyAbort
  rcases state with h | h <;> rw [h]

end

theorem State.emptied_count (s : State) (n : ChanId) : ((s.emptied n).chan n).count = (s.chan n).count :=
  congrArg countOf (s.emptied_word n (by decide))

theorem State.emptied_chain (s : State) (n : ChanId) : ((s.emptied n).chan n).chain = (s.chan n).chain :=
  congrArg addrOf (s.emptied_word n (by decide))

/-- Settles O38: ABORT's four rows. -/
theorem abortEndsOrIsRecorded : Obligations.AbortEndsOrIsRecorded := by
  intro n s takes c
  have state := s.emptied_state n
  have port := s.emptied_port n
  obtain ⟨m, ctl⟩ := s.emptied_ctl n
  have run := State.command_of_takes takes (code := 4#3) (by decide)
  change s.command n 4#3 = ((s.emptied n).obeyAbort n).considerHeld n at run
  refine ⟨fun still held => ?_, fun req accepted waits => ?_, fun granted => ?_, fun refuses =>
    ⟨_, rfl, State.command_refused takes (by decide) (State.obeyAbort_refused (by rw [state]; exact refuses))⟩⟩
  · obtain ⟨port', -, out⟩ := (s.emptied n).enterEnding_leaves n (.aborted c.count)
    obtain ⟨triggered, serves⟩ := (s.emptied n).enterEnding_triggers n (.aborted c.count)
    rw [State.obeyAbort_of_still (by rw [state]; exact still), State.enterAborted, State.emptied_count,
      State.considerHeld_of_noHeld (fun req => by rw [port', port]; exact held req)] at run
    exact ⟨_, congrArg Host.Outcome.next run, by rw [State.enterEnding_ctl], by rw [State.enterEnding_ctl],
      triggered.of_emptied, serves, State.enterEnding_events _ n _, out⟩
  · have closed := (s.emptied n).closePort_chan n .cancelled
    have count : (((s.emptied n).closePort n .cancelled).chan n).count = c.count := by
      rw [closed]
      exact s.emptied_count n
    obtain ⟨port', -, out⟩ := ((s.emptied n).closePort n .cancelled).enterEnding_leaves n (.aborted c.count)
    obtain ⟨triggered, serves⟩ := ((s.emptied n).closePort n .cancelled).enterEnding_triggers n (.aborted c.count)
    rw [closed] at port'
    rw [State.obeyAbort_of_accepted (port.trans accepted) (by rw [state]; exact waits), State.enterAborted, count,
      State.considerHeld_of_noHeld (fun req => by rw [port']; nofun)] at run
    exact ⟨_, congrArg Host.Outcome.next run, by rw [State.enterEnding_ctl], by rw [State.enterEnding_ctl], port', out,
      (triggered.of_line (by rw [closed])).of_emptied, serves, State.enterEnding_events _ n _⟩
  · have claimed : ((s.emptied n).chan n).breakClaimed = c.breakClaimed := by
      unfold Channel.breakClaimed
      rw [port]
    have busy : (s.chan n).ctl.state ∈ [ChanState.loading, .linking, .pending, .moving, .draining] := by
      rcases granted with h | ⟨h, -⟩ <;> rw [h] <;> decide
    rw [State.obeyAbort_of_granted (by rw [state, claimed]; exact granted),
      State.considerHeld_of_busy (by rw [State.chan_modCtl_self]; exact state ▸ busy)] at run
    refine ⟨_, congrArg Host.Outcome.next run, ?_, ?_, ?_, rfl, rfl, rfl⟩
    · rw [State.chan_modCtl_self, ctl]
    · rw [State.chan_modCtl_self]
      exact port
    · rw [State.chan_modCtl_self]
      exact s.emptied_untaken n

/-! ## RESUME (R71) -/

/-- The checks of a setup read no COMMAND (R69). -/
theorem validateSetup_setCommand (code : CommandCode) (w : Word) :
    validateSetup (setCommand code w) = validateSetup w := by
  have apart : ∀ start len, start + len ≤ 12 → field start len (setCommand code w) = field start len w :=
    fun start len below => field_setField_apart 12 3 start len code w (.inl below)
  unfold validateSetup modeOf directionOf trackOf strideValid strideOf
  rw [apart 0 2 (by decide), apart 2 2 (by decide), apart 4 2 (by decide), apart 6 5 (by decide)]

/-- The taking of a command leaves what is in flight. -/
theorem State.emptied_opInFlight (s : State) (n : ChanId) :
    ((s.emptied n).chan n).opInFlight = (s.chan n).opInFlight := by
  have fill : ((s.emptied n).chan n).fillInFlight = (s.chan n).fillInFlight := by
    rw [Channel.fillInFlight, s.emptied_state, s.emptied_chan, Channel.emptyMailbox, Channel.fillInFlight]
    cases line : (s.chan n).line with
    | invalid => simp only
    | filling p w => rfl
    | valid v => rfl
  rw [Channel.opInFlight, s.emptied_port, s.emptied_walker, fill, Channel.opInFlight]

theorem State.emptied_faultEvent (s : State) (n : ChanId) (code : FaultCode) (a : Addr) :
    (s.emptied n).faultEvent n code a = s.faultEvent n code a := by
  obtain ⟨m, ctl⟩ := s.emptied_ctl n
  rw [State.faultEvent, s.emptied_cookie, ctl, State.faultEvent]

section
variable {s : State} {n : ChanId}

theorem State.obeyResume_of_good (state : (s.chan n).ctl.state = .halted) {u : Setup}
    (good : validateSetup ((s.chan n).word .control) = some u) : s.obeyResume n = s.enterByRecord n u := by
  unfold State.obeyResume
  rw [if_pos state, good]

theorem State.obeyResume_of_bad (state : (s.chan n).ctl.state = .halted)
    (bad : validateSetup ((s.chan n).word .control) = none) : s.obeyResume n = s.faultArise n (.of .badSetup 0#26) := by
  unfold State.obeyResume
  rw [if_pos state, bad]

theorem State.obeyResume_refused
    (state : (s.chan n).ctl.state ∈ [ChanState.off, .ready, .pending, .moving, .draining, .faulted]) :
    s.obeyResume n = s.refuse n 3#3 .notAllowedInState :=
  if_neg fun halted => by
    rw [halted] at state
    revert state
    decide

theorem State.setState_noHeld (held : (s.chan n).NoHeld) (st : ChanState) : ((s.setState n st).chan n).NoHeld := fun req => by
  rw [State.setState, State.modStatus_port]
  exact held req

theorem State.enterEnding_noHeld (held : (s.chan n).NoHeld) (e : EndingKind) :
    ((s.enterEnding n e).chan n).NoHeld := fun req => by
  obtain ⟨port, -⟩ := s.enterEnding_leaves n e
  rw [port]
  exact held req

theorem State.faultArise_noHeld (held : (s.chan n).NoHeld) (f : PendingFault) :
    ((s.faultArise n f).chan n).NoHeld := by
  unfold State.faultArise
  simp only
  split
  · exact held
  · split
    · rw [State.pendFault, State.chan_modCtl_self]
      exact held
    · exact s.enterFaulted_noHeld n f

theorem State.enterLinking_noHeld (held : (s.chan n).NoHeld) : ((s.enterLinking n).chan n).NoHeld := by
  unfold State.enterLinking
  simp only
  split
  · exact State.faultArise_noHeld (State.setState_noHeld held _) _
  · rw [State.chan_raise, State.chan_modChan_self]
    exact State.setState_noHeld held .linking

theorem State.enterByRecord_noHeld (held : (s.chan n).NoHeld) (u : Setup) :
    ((s.enterByRecord n u).chan n).NoHeld := by
  have latched : ((s.modCtl n fun k => { k with setup := some u }).chan n).NoHeld := by
    rw [State.chan_modCtl_self]
    exact held
  unfold State.enterByRecord
  simp only
  split
  · exact State.setState_noHeld latched _
  · split
    · exact State.enterLinking_noHeld latched
    · exact State.enterEnding_noHeld latched _

theorem State.enterByRecord_kept (s : State) (n : ChanId) (u : Setup) : RecordKept n s (s.enterByRecord n u) := by
  have latched : RecordKept n s (s.modCtl n fun k => { k with setup := some u }) :=
    .of_line (by rw [State.chan_modCtl_self]) (by rw [State.chan_modCtl_self])
  unfold State.enterByRecord
  simp only
  split
  · exact latched.trans (State.setState_kept _ n _)
  · split
    · exact latched.trans (State.enterLinking_kept _ n)
    · exact latched.trans (State.enterEnding_kept _ n _)

/-- A record whose segment touches the window faults the channel as it goes on (R110). -/
theorem State.enterByRecord_inside (none : (s.chan n).count = 0#24) (names : (s.chan n).chain ≠ 0#26)
    (inside : (segmentAddrs (s.chan n).chain).any (fun a => s.inWindow a) = true)
    (pends : (s.chan n).ctl.pendingFault = .none) (idle : (s.chan n).opInFlight = false)
    (unstalled : (s.chan n).ctl.stalled = .none) (u : Setup) :
    ((s.enterByRecord n u).chan n).ctl.state = .faulted ∧
    ((s.enterByRecord n u).chan n).ctl.lastFault = some .windowTarget := by
  have chan := s.chan_modCtl_self n fun k => { k with setup := some u }
  obtain ⟨-, links, -⟩ := s.enterByRecord_cases n u
  rw [links none names]
  refine State.enterLinking_of_inside ?_ (by rw [chan]; exact pends) ?_ (by rw [chan]; exact unstalled)
  · rw [chan]
    exact inside
  · exact Channel.opInFlight_of_linking idle (by rw [State.setState_ctl])
      (by rw [State.setState, State.modStatus_port, chan]) (by rw [State.setState, State.modStatus_walker, chan])

end

/-- Settles O37: RESUME by the checks of the line's setup, and the rows of the record (`State.enterByRecord`). -/
theorem resumeValidatesAndGoesOn : Obligations.ResumeValidatesAndGoesOn := by
  intro n s takes c checked
  have state := s.emptied_state n
  obtain ⟨m, ctl⟩ := s.emptied_ctl n
  have control : ∀ v, c.line = .valid v → validateSetup (((s.emptied n).chan n).word .control) = checked :=
    fun v line => by
      rw [s.emptied_chan_of_valid n line, show checked = validateSetup (v.words.get .control) from
        congrArg validateSetup (Channel.word_of_valid line _)]
      exact validateSetup_setCommand 0#3 _
  have run := State.command_of_takes takes (code := 3#3) (by decide)
  change s.command n 3#3 = ((s.emptied n).obeyResume n).considerHeld n at run
  refine ⟨fun v u halted line good held idle pends => ?_, fun v halted line bad idle pends => ?_, fun refuses =>
    ⟨_, rfl, State.command_refused takes (by decide) (State.obeyResume_refused (by rw [state]; exact refuses))⟩⟩
  · have valid : ((s.emptied n).chan n).line = .valid v.emptied := by rw [s.emptied_chan_of_valid n line]
    have pends' : ((s.emptied n).chan n).ctl.pendingFault = none := by
      rw [ctl]
      exact pends
    have good' := (control v line).trans good
    have word := Channel.word_of_valid valid .control
    have goes := State.installTransition_of_good pends' good'
    rw [State.obeyResume_of_good (state.trans halted) good', State.considerHeld_of_noHeld
      (State.enterByRecord_noHeld (fun req => by rw [s.emptied_port]; exact held req) u)] at run
    obtain ⟨ready, links, ends⟩ := State.installTransition_good valid pends' (word ▸ good')
    rw [goes] at ready links ends
    have count : countOf v.emptied.words.count = c.count :=
      congrArg countOf (Channel.word_of_valid (c := s.chan n) line .count).symm
    have chain : addrOf v.emptied.words.chain = c.chain :=
      congrArg addrOf (Channel.word_of_valid (c := s.chan n) line .chain).symm
    rw [count] at ready links ends
    rw [chain] at links ends
    have kept := (s.emptied n).enterByRecord_kept n u
    refine ⟨_, congrArg Host.Outcome.next run, fun some => ?_, fun none names outside => ?_,
      fun none names inside => ?_, fun none ended => ?_, ?_, ?_, ?_⟩
    · rw [ready some]
      exact ⟨rfl, rfl⟩
    · obtain ⟨ctl', walker, claim⟩ := links none names outside
      rw [ctl', walker]
      exact ⟨rfl, rfl, rfl, claim⟩
    · exact State.enterByRecord_inside ((s.emptied_count n).trans none) (by rw [s.emptied_chain]; exact names)
        (by rw [s.emptied_chain]; exact inside) pends' ((s.emptied_opInFlight n).trans idle)
        (by rw [ctl]; exact takes.free.1) u
    · obtain ⟨ctl', -, -, triggered, serves⟩ := ends none ended
      rw [ctl']
      exact ⟨rfl, rfl, rfl, triggered.of_emptied, serves⟩
    · rw [kept.startCount, ctl]
    · exact kept.done.trans (congrArg (field 0 24) (s.emptied_word n (by decide)))
    · exact kept.segments.trans (congrArg segmentsOf (s.emptied_word n (by decide)))
  · have taken := State.faultArise_taken (s := s.emptied n) (n := n) (by rw [state.trans halted]; decide)
      (by rw [ctl]; exact pends) ((s.emptied_opInFlight n).trans idle) (by rw [ctl]; exact takes.free.1)
      (.of .badSetup 0#26)
    rw [State.obeyResume_of_bad (state.trans halted) ((control v line).trans bad), taken,
      State.considerHeld_of_noHeld (State.enterFaulted_noHeld _ n _)] at run
    obtain ⟨faulted, code, created⟩ := (s.emptied n).enterFaulted_faulted n (.of .badSetup 0#26)
    rw [s.emptied_faultEvent] at created
    refine ⟨_, congrArg Host.Outcome.next run, faulted, code, ?_, created.of_emptied⟩
    rw [(State.enterFaulted_kept _ n _).startCount, ctl]

end Sys2Proof.Machine
end

section
/-! PROOFS. What the operations of a channel leave of an IDLE port and of a VALID line: the port stays IDLE with nothing
sent, and the line stays VALID with its COUNT, ADDRESS and DONE (R65, R74, R75, R78, R88, R116). -/

namespace Sys2Proof.Machine

/-- An operation of channel n keeps an IDLE port IDLE, with nothing sent, and a VALID line VALID, with COUNT, ADDRESS and
DONE. -/
structure IdleStep (n : ChanId) (s t : State) : Prop where
  idle : (s.chan n).port = .idle → (t.chan n).port = .idle ∧ t.out = s.out
  valid : ∀ v, (s.chan n).line = .valid v → ∃ v', (t.chan n).line = .valid v' ∧ v'.words.count = v.words.count ∧
    v'.words.address = v.words.address ∧ v'.words.done = v.words.done

theorem IdleStep.trans {n : ChanId} {s t u : State} (h : IdleStep n s t) (k : IdleStep n t u) : IdleStep n s u where
  idle := fun port => by
    obtain ⟨port₁, out₁⟩ := h.idle port
    obtain ⟨port₂, out₂⟩ := k.idle port₁
    exact ⟨port₂, out₂.trans out₁⟩
  valid := fun v line => by
    obtain ⟨v₁, line₁, count₁, address₁, done₁⟩ := h.valid v line
    obtain ⟨v₂, line₂, count₂, address₂, done₂⟩ := k.valid v₁ line₁
    exact ⟨v₂, line₂, count₂.trans count₁, address₂.trans address₁, done₂.trans done₁⟩

/-- An operation that leaves the line, and the port where it is IDLE. -/
theorem IdleStep.of_line {n : ChanId} {s t : State}
    (idle : (s.chan n).port = .idle → (t.chan n).port = .idle ∧ t.out = s.out)
    (line : (t.chan n).line = (s.chan n).line) : IdleStep n s t :=
  ⟨idle, fun v valid => ⟨v, line.trans valid, rfl, rfl, rfl⟩⟩

/-- An operation that leaves the line, the port and what has been sent. -/
theorem IdleStep.of_parts {n : ChanId} {s t : State} (port : (t.chan n).port = (s.chan n).port) (out : t.out = s.out)
    (line : (t.chan n).line = (s.chan n).line) : IdleStep n s t := .of_line (fun idle => ⟨port.trans idle, out⟩) line

theorem IdleStep.refl (n : ChanId) (s : State) : IdleStep n s s := .of_parts rfl rfl rfl

/-- A change of the VALID line that leaves the three words. -/
theorem IdleStep.of_modLine (s : State) (n : ChanId) (f : ValidLine → ValidLine)
    (h : ∀ v, (f v).words.count = v.words.count ∧ (f v).words.address = v.words.address ∧
      (f v).words.done = v.words.done := by intro v; exact ⟨rfl, rfl, rfl⟩) :
    IdleStep n s (s.modChan n fun c => c.modLine f) where
  idle := fun port => ⟨by rw [State.chan_modChan_self, Channel.modLine_port]; exact port, rfl⟩
  valid := fun v line => ⟨f v, by rw [State.chan_modChan_self, Channel.modLine_of_valid line], h v⟩

/-! ## Events, triggers, states -/

section
variable (s : State) (n : ChanId)

theorem State.modCtl_idleStep (f : Controller → Controller) : IdleStep n s (s.modCtl n f) :=
  .of_parts (by rw [State.chan_modCtl_self]) rfl (by rw [State.chan_modCtl_self])

theorem State.modStatus_idleStep (f : Controller → Controller) : IdleStep n s (s.modStatus n f) where
  idle := fun port => ⟨(s.modStatus_port n f).trans port, rfl⟩
  valid := fun _ line => ⟨_, State.modStatus_line line f, rfl, rfl, rfl⟩

theorem State.pushEvent_out (ev : Event) : (s.pushEvent ev).out = s.out := by
  rw [State.pushEvent, State.raisePost_out]
  rfl

theorem State.createEvent_out (ev : Event) : (s.createEvent n ev).out = s.out := by
  unfold State.createEvent
  split
  · rfl
  · split
    · exact s.pushEvent_out ev
    · rfl

theorem State.createEvent_idleStep (ev : Event) : IdleStep n s (s.createEvent n ev) := by
  obtain ⟨slot, chan⟩ := s.createEvent_chan n ev
  exact .of_parts (by rw [chan]) (s.createEvent_out n ev) (by rw [chan])

theorem State.triggerWriteback_idleStep (w : WbServes) : IdleStep n s (s.triggerWriteback n w) where
  idle := fun port => by
    obtain ⟨⟨l, chan⟩, out⟩ := s.triggerWriteback_leaves n w
    exact ⟨by rw [chan]; exact port, out⟩
  valid := fun v line => by
    obtain ⟨v', line', words, -⟩ := State.triggerWriteback_line line w
    exact ⟨v', line', by rw [words], by rw [words], by rw [words]⟩

theorem State.closePort_idleStep (busy : (s.chan n).port ≠ .idle) (a : Answer) : IdleStep n s (s.closePort n a) :=
  .of_line (fun idle => absurd idle busy) (by rw [State.closePort_chan])

theorem State.enterEnding_idleStep (e : EndingKind) : IdleStep n s (s.enterEnding n e) :=
  (s.modStatus_idleStep n _).trans (State.triggerWriteback_idleStep _ n _)

theorem State.enterHalted_idleStep : IdleStep n s (s.enterHalted n) :=
  ((s.modStatus_idleStep n _).trans (State.createEvent_idleStep _ n _)).trans (State.triggerWriteback_idleStep _ n _)

theorem State.failPort_idleStep (code : FaultCode) : IdleStep n s (s.failPort n code) := by
  unfold State.failPort
  split
  · rename_i port
    exact s.closePort_idleStep n (by rw [port]; nofun) _
  · rename_i port
    exact s.closePort_idleStep n (by rw [port]; nofun) _
  · exact .refl n s

theorem State.dropLinkClaim_idleStep : IdleStep n s (s.dropLinkClaim n) := by
  unfold State.dropLinkClaim
  split
  · exact .of_parts (by rw [State.chan_withdraw, State.chan_modChan_self]) rfl
      (by rw [State.chan_withdraw, State.chan_modChan_self])
  · exact .refl n s

theorem State.faultTaken_idleStep (f : PendingFault) : IdleStep n s (s.faultTaken n f) :=
  (((s.failPort_idleStep n _).trans (State.dropLinkClaim_idleStep _ n)).trans (State.modStatus_idleStep _ n _)).trans
    (.of_modLine _ n _)

theorem State.enterFaulted_idleStep (f : PendingFault) : IdleStep n s (s.enterFaulted n f) := by
  have created := (s.faultTaken_idleStep n f).trans
    (State.createEvent_idleStep _ n (s.faultEvent n f.code f.address))
  rw [State.enterFaulted_eq]
  split
  · exact created
  · exact created.trans (State.triggerWriteback_idleStep _ n _)

theorem State.faultArise_idleStep (f : PendingFault) : IdleStep n s (s.faultArise n f) := by
  unfold State.faultArise
  simp only
  split
  · exact .refl n s
  · split
    · exact s.modCtl_idleStep n _
    · exact s.enterFaulted_idleStep n f

theorem State.enterLinking_idleStep : IdleStep n s (s.enterLinking n) := by
  unfold State.enterLinking
  simp only
  split
  · exact (s.modStatus_idleStep n _).trans (State.faultArise_idleStep _ n _)
  · exact (s.modStatus_idleStep n _).trans
      (.of_parts (by rw [State.chan_raise, State.chan_modChan_self]; rfl) rfl
        (by rw [State.chan_raise, State.chan_modChan_self]; rfl))

theorem State.goToSegment_idleStep : IdleStep n s (s.goToSegment n) := by
  unfold State.goToSegment
  split
  · exact s.enterEnding_idleStep n _
  · exact s.enterLinking_idleStep n

theorem State.enterByRecord_idleStep (u : Setup) : IdleStep n s (s.enterByRecord n u) := by
  unfold State.enterByRecord
  simp only
  refine (s.modCtl_idleStep n fun k => { k with setup := some u }).trans ?_
  split
  · exact State.modStatus_idleStep _ n _
  · split
    · exact State.enterLinking_idleStep _ n
    · exact State.enterEnding_idleStep _ n _

/-! ## Commands and held requests -/

theorem State.refuse_idleStep (code : CommandCode) (r : RefusalReason) : IdleStep n s (s.refuse n code r) :=
  (s.modStatus_idleStep n _).trans (State.createEvent_idleStep _ n _)

theorem State.obeyStart_idleStep : IdleStep n s (s.obeyStart n) := by
  by_cases takes : s.mgmt.windowState ≠ .disabling ∧
      ((s.chan n).ctl.state = .off ∨ (s.chan n).ctl.state = .ready ∨ (s.chan n).ctl.state = .halted)
  · by_cases line : (s.chan n).line = .invalid
    · rw [State.obeyStart_of_invalid takes.1 takes.2 line]
      refine ⟨fun port => ⟨?_, rfl⟩, fun v valid => by cases line.symm.trans valid⟩
      rw [State.startFill, State.chan_raise, State.chan_withdraw, State.chan_modChan_self]
      exact (s.modStatus_port n _).trans port
    · rw [State.obeyStart_of_held takes.1 takes.2 line]
      exact (s.modStatus_idleStep n _).trans (State.triggerWriteback_idleStep _ n _)
  · rw [show s.obeyStart n = s.refuse n 1#3 .notAllowedInState from if_neg takes]
    exact s.refuse_idleStep n _ _

theorem State.obeyStop_idleStep : IdleStep n s (s.obeyStop n) := by
  unfold State.obeyStop
  split
  · exact s.enterHalted_idleStep n
  · exact s.modStatus_idleStep n _
  · exact s.modStatus_idleStep n _
  · exact s.refuse_idleStep n _ _

theorem State.obeyResume_idleStep : IdleStep n s (s.obeyResume n) := by
  unfold State.obeyResume
  split
  · split
    · exact s.faultArise_idleStep n _
    · exact s.enterByRecord_idleStep n _
  · exact s.refuse_idleStep n _ _

theorem State.cancelAccepted_idleStep : IdleStep n s (s.cancelAccepted n) := by
  unfold State.cancelAccepted
  split
  · rename_i port
    exact s.closePort_idleStep n (by rw [port]; nofun) _
  · exact .refl n s

theorem State.obeyAbort_idleStep : IdleStep n s (s.obeyAbort n) := by
  have cancelled : IdleStep n s ((s.cancelAccepted n).enterAborted n) :=
    (s.cancelAccepted_idleStep n).trans (State.enterEnding_idleStep _ n _)
  unfold State.obeyAbort
  split
  · exact s.enterEnding_idleStep n _
  · exact s.enterEnding_idleStep n _
  · exact cancelled
  · split
    · exact cancelled
    · exact s.modCtl_idleStep n _
  · exact s.modCtl_idleStep n _
  · exact s.refuse_idleStep n _ _

theorem State.obeyClear_idleStep : IdleStep n s (s.obeyClear n) := by
  unfold State.obeyClear
  split
  · exact (s.modStatus_idleStep n _).trans (State.triggerWriteback_idleStep _ n _)
  · simp only
    split
    · exact ((s.modStatus_idleStep n _).trans (State.modCtl_idleStep _ n _)).trans
        (State.triggerWriteback_idleStep _ n _)
    · exact s.modStatus_idleStep n _
  · exact s.refuse_idleStep n _ _

theorem State.obey_idleStep (code : CommandCode) : IdleStep n s (s.obey n code) := by
  unfold State.obey
  split
  · exact .refl n s
  · exact s.obeyStart_idleStep n
  · exact s.obeyStop_idleStep n
  · exact s.obeyResume_idleStep n
  · exact s.obeyAbort_idleStep n
  · exact s.obeyClear_idleStep n
  · exact s.refuse_idleStep n _ _

theorem State.emptied_idleStep : IdleStep n s (s.emptied n) where
  idle := fun port => ⟨(s.emptied_port n).trans port, rfl⟩
  valid := fun v line => ⟨v.emptied, by rw [s.emptied_chan_of_valid n line], rfl, rfl, rfl⟩

theorem State.takeUntaken_idleStep : IdleStep n s (s.takeUntaken n) := by
  unfold State.takeUntaken
  simp only
  split
  · exact (s.emptied_idleStep n).trans (State.obey_idleStep _ n _)
  · exact .refl n s

theorem State.considerHeld_idleStep : IdleStep n s (s.considerHeld n) := by
  by_cases port : (s.chan n).port = .idle
  · rw [State.considerHeld_of_noHeld (by rw [Channel.NoHeld, port]; nofun)]
    exact .refl n s
  · by_cases ready : (s.chan n).ctl.state = .ready
    · unfold State.considerHeld
      simp only [ready]
      split
      · split
        · exact .refl n s
        · split
          · exact ⟨fun idle => absurd idle port, fun v line =>
              ⟨_, State.modStatus_line (by rw [State.chan_modChan_self]; exact line) _, rfl, rfl, rfl⟩⟩
          · exact s.closePort_idleStep n port _
      · exact .refl n s
    · exact .of_line (fun idle => absurd idle port) (State.considerHeld_answered ready).line

theorem State.settle_idleStep : IdleStep n s (s.settle n) :=
  (s.takeUntaken_idleStep n).trans (State.considerHeld_idleStep _ n)

/-! ## The transition after a break group (R74, R75, R116) -/

theorem State.segmentTransition_idleStep (e : BreakEnd) : IdleStep n s (s.segmentTransition n e) := by
  unfold State.segmentTransition
  split
  · exact s.enterEnding_idleStep n _
  · split
    · exact s.enterHalted_idleStep n
    · exact s.goToSegment_idleStep n

theorem State.segmentEvent_idleStep (e : BreakEnd) : IdleStep n s (s.segmentEvent n e) := by
  unfold State.segmentEvent
  simp only
  split
  · exact s.createEvent_idleStep n _
  · exact .refl n s

theorem State.segmentEnd_idleStep (e : BreakEnd) : IdleStep n s (s.segmentEnd n e) := by
  have extent : IdleStep n s ((s.raiseSegments n).segmentEvent n e) :=
    (IdleStep.of_modLine s n _).trans (State.segmentEvent_idleStep _ n e)
  unfold State.segmentEnd
  split
  · exact s.segmentTransition_idleStep n e
  · simp only
    split
    · exact extent.trans (State.modCtl_idleStep _ n _)
    · exact extent.trans (State.segmentTransition_idleStep _ n e)

theorem State.breakTransition_idleStep (e : BreakEnd) : IdleStep n s (s.breakTransition n e) := by
  unfold State.breakTransition
  simp only
  split
  · exact s.enterFaulted_idleStep n _
  · split
    · exact s.enterEnding_idleStep n _
    · split
      · exact s.segmentEnd_idleStep n e
      · split
        · exact s.enterHalted_idleStep n
        · exact s.modStatus_idleStep n _

/-- What follows the answer of a break group (R82, R106). -/
theorem State.afterBreak_idleStep (e : BreakEnd) : IdleStep n s (s.afterBreak n e) := by
  unfold State.afterBreak
  split
  · exact s.modCtl_idleStep n _
  · split
    · exact s.modCtl_idleStep n _
    · exact (s.breakTransition_idleStep n e).trans (State.settle_idleStep _ n)

end

end Sys2Proof.Machine
end

section
/-! PROOFS. Device requests: those that arrive at a port, and the held one that settle considers (R65, R89 to R92). -/

namespace Sys2Proof.Machine

/-! ## An accepted request (R91) -/

/-- The controller and the parts of channel n but its line after a request is accepted. -/
structure RequestAccepted (n : ChanId) (req : DeviceRequest) (s t : State) : Prop where
  port : (t.chan n).port = .accepted req
  ctl : (t.chan n).ctl = { (s.chan n).ctl with state := .pending }
  quiet : (t.chan n).quiet = (s.chan n).quiet
  walker : (t.chan n).walker = (s.chan n).walker
  words : ∀ i, i ≠ .status → (t.chan n).word i = (s.chan n).word i
  mport : t.mport = s.mport
  out : t.out = s.out
  arb : t.arb = s.arb
  events : t.events = s.events

theorem Channel.modLine_quiet (c : Channel) (f : ValidLine → ValidLine) : (c.modLine f).quiet = c.quiet := by
  unfold Channel.modLine
  split <;> rfl

theorem State.acceptRequest_accepted (s : State) (n : ChanId) (req : DeviceRequest) :
    RequestAccepted n req s (s.acceptRequest n req) := by
  have chan := s.chan_modChan_self n fun c => { c with port := .accepted req }
  have kept := (s.modChan n fun c => { c with port := .accepted req }).setState_kept n .pending
  refine ⟨?_, ?_, ?_, ?_, fun i other => ?_, rfl, rfl, rfl, rfl⟩
  · rw [State.acceptRequest, State.setState, State.modStatus_port, chan]
  · rw [State.acceptRequest, State.setState_ctl, chan]
  · rw [State.acceptRequest, State.setState, State.modStatus, State.chan_modChan_self, Channel.modCtl, Channel.sync,
      Channel.modLine_quiet, chan]
  · rw [State.acceptRequest, State.setState, State.modStatus_walker, chan]
  · rw [State.acceptRequest, kept.words i other, chan]
    rfl

/-! ## The untaken command through the entry to FAULTED (R66, R78) -/

theorem Channel.modLine_untaken (c : Channel) {f : ValidLine → ValidLine}
    (h : ∀ v, (f v).words.control = v.words.control := by intro _; rfl) : (c.modLine f).untaken = c.untaken := by
  unfold Channel.modLine
  split
  · rename_i v line
    rw [Channel.untaken_of_valid line, Channel.untaken_of_valid (v := f v) rfl, h]
  · rfl

theorem State.triggerWriteback_untaken (s : State) (n : ChanId) (w : WbServes) :
    ((s.triggerWriteback n w).chan n).untaken = (s.chan n).untaken := by
  by_cases valid : ∃ v, (s.chan n).line = .valid v
  · obtain ⟨v, line⟩ := valid
    obtain ⟨v', line', words, -⟩ := State.triggerWriteback_line line w
    rw [Channel.untaken_of_valid line', words, Channel.untaken_of_valid line]
  · rw [State.triggerWriteback_of_not_valid (not_exists.1 valid)]

/-- A fault leaves the untaken command for settle (R65, R78). -/
theorem State.enterFaulted_untaken (s : State) (n : ChanId) (f : PendingFault) :
    ((s.enterFaulted n f).chan n).untaken = (s.chan n).untaken := by
  obtain ⟨w, drop⟩ := (s.failPort n f.code).dropLinkClaim_chan n
  obtain ⟨p, fail⟩ := s.failPort_chan n f.code
  have answered : (((s.failPort n f.code).dropLinkClaim n).chan n).untaken = (s.chan n).untaken := by
    rw [drop, fail]
    rfl
  have taken : ((s.faultTaken n f).chan n).untaken = (s.chan n).untaken := by
    rw [State.faultTaken, State.chan_modChan_self]
    exact (Channel.modLine_untaken _).trans ((State.modStatus_untaken _ n _).trans answered)
  obtain ⟨slot, chan⟩ := (s.faultTaken n f).createEvent_chan n (s.faultEvent n f.code f.address)
  have created : (((s.faultTaken n f).createEvent n (s.faultEvent n f.code f.address)).chan n).untaken =
      (s.chan n).untaken := by
    rw [chan, ← taken]
    rfl
  rw [State.enterFaulted_eq]
  split
  · exact created
  · rw [State.triggerPlain, State.triggerWriteback_untaken, created]

/-! ## A request at an IDLE port (R89) -/

theorem Channel.directionMatches_iff {c : Channel} {u : Setup} (setup : c.ctl.setup = some u) (req : DeviceRequest) :
    c.directionMatches req = true ↔ u.direction = req.direction := by
  unfold Channel.directionMatches
  rw [setup]
  exact beq_iff_eq

section
variable {s : State} {n : ChanId} {req : DeviceRequest}

theorem State.arriveIdle_refused :
    ((s.chan n).ctl.state = .off ∨ (s.chan n).ctl.state = .halted ∨ (s.chan n).ctl.state = .ending →
      s.arriveIdle n req = s.answer n (.refused .notArmed)) ∧
    ((s.chan n).ctl.state = .faulted → s.arriveIdle n req = s.answer n (.refused .channelFaulted)) := by
  unfold State.arriveIdle
  refine ⟨fun state => ?_, fun state => ?_⟩
  · rcases state with h | h | h <;> simp only [h]
  · simp only [state]

theorem State.arriveIdle_held (busy : (s.chan n).ctl.state ∈ [ChanState.loading, .linking, .pending, .moving, .draining]) :
    s.arriveIdle n req = s.setChan n { s.chan n with port := .held req } := by
  simp only [List.mem_cons, List.not_mem_nil, or_false] at busy
  unfold State.arriveIdle
  rcases busy with h | h | h | h | h <;> simp only [h] <;> rfl

theorem State.arriveIdle_ready {u : Setup} (ready : (s.chan n).ctl.state = .ready) (setup : (s.chan n).ctl.setup = some u) :
    s.arriveIdle n req =
      if u.direction ≠ req.direction then s.answer n (.refused .directionMismatch)
      else if (s.chan n).ctl.stalled.isSome = true then s.setChan n { s.chan n with port := .held req }
      else s.acceptRequest n req := by
  have agrees := Channel.directionMatches_iff setup req
  have eq : s.arriveIdle n req =
      if !(s.chan n).directionMatches req then s.answer n (.refused .directionMismatch)
      else if (s.chan n).isStalled then s.setChan n { s.chan n with port := .held req } else s.acceptRequest n req := by
    unfold State.arriveIdle
    simp only [ready]
    rfl
  rw [eq]
  by_cases direction : u.direction = req.direction
  · rw [agrees.2 direction, if_neg (by decide), if_neg (not_not_intro direction)]
    rfl
  · rw [Bool.eq_false_iff.2 (agrees.not.2 direction), if_pos (by decide), if_pos direction]

/-! ## A second request (R92) -/

/-- The first request of a HELD or ACCEPTED port is answered, and the fault arises. -/
theorem State.arrive_second {old : DeviceRequest} (port : (s.chan n).port = .held old ∨ (s.chan n).port = .accepted old) :
    s.arrive n req = (((s.closePort n (.failed .portProtocol)).faultArise n portProtocol).settle n) := by
  unfold State.arrive State.arriveSecond
  rcases port with h | h <;> simp only [h]

theorem State.arrive_granted {old : DeviceRequest} {g : BreakProgress} (port : (s.chan n).port = .granted old g) :
    s.arrive n req = s.faultArise n portProtocol := by
  unfold State.arrive State.arriveSecond
  simp only [port]

theorem State.arrive_idle (port : (s.chan n).port = .idle) : s.arrive n req = s.arriveIdle n req := by
  unfold State.arrive
  simp only [port]

/-- A port with no granted break has nothing in flight (R78). -/
theorem State.closePort_opInFlight (granted : ∀ req g, (s.chan n).port ≠ .granted req g) (a : Answer) :
    ((s.closePort n a).chan n).opInFlight = (s.chan n).opInFlight := by
  rw [State.closePort_chan]
  unfold Channel.opInFlight
  cases port : (s.chan n).port with
  | granted req g => exact absurd port (granted req g)
  | _ => rfl

/-- The answer of the first request, and what follows with the port IDLE. -/
theorem State.secondRequest_closes {old : DeviceRequest}
    (port : (s.chan n).port = .held old ∨ (s.chan n).port = .accepted old) :
    ((s.arrive n req).chan n).port = .idle ∧ (s.arrive n req).out = s.out ++ [.answer n (.failed .portProtocol)] := by
  rw [State.arrive_second port]
  exact ((State.faultArise_idleStep _ n portProtocol).trans (State.settle_idleStep _ n)).idle
    (congrArg Channel.port (s.closePort_chan n (.failed .portProtocol)))

/-- PORT_PROTOCOL is taken where nothing holds it back (R78, R92). -/
theorem State.secondRequest_faults {old : DeviceRequest}
    (port : (s.chan n).port = .held old ∨ (s.chan n).port = .accepted old) (state : (s.chan n).ctl.state ≠ .faulted)
    (pends : (s.chan n).ctl.pendingFault = none) (untaken : (s.chan n).untaken = 0#3)
    (idle : (s.chan n).opInFlight = false) (unstalled : (s.chan n).ctl.stalled = none) :
    ((s.arrive n req).chan n).ctl.state = .faulted ∧
    ((s.arrive n req).chan n).ctl.lastFault = some .portProtocol ∧
    s.EventCreated (s.arrive n req) n (s.faultEvent n .portProtocol 0#26) := by
  have chan := s.closePort_chan n (.failed .portProtocol)
  have idle' : ((s.closePort n (.failed .portProtocol)).chan n).opInFlight = false :=
    (State.closePort_opInFlight (by rcases port with h | h <;> rw [h] <;> nofun) _).trans idle
  have taken := State.faultArise_taken (s := s.closePort n (.failed .portProtocol)) (n := n) (by rw [chan]; exact state)
    (by rw [chan]; exact pends) idle' (by rw [chan]; exact unstalled) portProtocol
  have event : (s.closePort n (.failed .portProtocol)).faultEvent n .portProtocol 0#26 =
      s.faultEvent n .portProtocol 0#26 := by
    rw [State.faultEvent, chan]
    rfl
  obtain ⟨faulted, code, created⟩ := (s.closePort n (.failed .portProtocol)).enterFaulted_faulted n portProtocol
  have created' := created.congr (s' := s) (t' := (s.closePort n (.failed .portProtocol)).enterFaulted n portProtocol) rfl
    (by rw [chan]) rfl rfl
  rw [show State.faultEvent _ n portProtocol.code portProtocol.address = _ from event] at created'
  have still : (((s.closePort n (.failed .portProtocol)).enterFaulted n portProtocol).chan n).untaken = 0#3 := by
    rw [State.enterFaulted_untaken, chan]
    exact untaken
  rw [State.arrive_second port, taken, State.settle_of_nothing (.inl still) (State.enterFaulted_noHeld _ n _)]
  exact ⟨faulted, code, created'⟩

theorem Channel.canTake_of_waits {c : Channel}
    (waits : c.ctl.stalled.isSome = true ∨ c.ctl.state = .loading ∨ c.ctl.state = .linking) : c.canTake = false := by
  unfold Channel.canTake Channel.isStalled
  rcases waits with h | h | h
  · simp [h]
  · simp [h, ChanState.taking]
  · simp [h, ChanState.taking]

/-- PORT_PROTOCOL waits behind an operation or a stall, and no command can be taken (R64, R78, R92). -/
theorem State.secondRequest_pends {old : DeviceRequest}
    (port : (s.chan n).port = .held old ∨ (s.chan n).port = .accepted old) (state : (s.chan n).ctl.state ≠ .faulted)
    (pends : (s.chan n).ctl.pendingFault = none)
    (holds : (s.chan n).opInFlight = true ∨ (s.chan n).ctl.stalled.isSome = true)
    (waits : (s.chan n).ctl.stalled.isSome = true ∨ (s.chan n).ctl.state = .loading ∨ (s.chan n).ctl.state = .linking) :
    ((s.arrive n req).chan n).ctl = { (s.chan n).ctl with pendingFault := some portProtocol } := by
  have chan := s.closePort_chan n (.failed .portProtocol)
  have holds' : ((s.closePort n (.failed .portProtocol)).chan n).opInFlight = true ∨
      ((s.closePort n (.failed .portProtocol)).chan n).ctl.stalled ≠ none := by
    rw [State.closePort_opInFlight (by rcases port with h | h <;> rw [h] <;> nofun), chan]
    exact holds.imp_right Option.isSome_iff_ne_none.1
  have pended := State.faultArise_pends (by rw [chan]; exact state) holds' portProtocol
  have chan' := (s.closePort n (.failed .portProtocol)).chan_modCtl_self n fun k =>
    { k with pendingFault := some (k.pendingFault.getD portProtocol) }
  rw [chan] at chan'
  rw [State.arrive_second port, pended, State.settle_of_nothing, chan']
  · simp only [pends, Option.getD_none]
  · exact .inr (Channel.canTake_of_waits (by rw [chan']; exact waits))
  · rw [chan']
    nofun

/-! ## The held request (R90) -/

theorem State.considerHeld_refused (port : (s.chan n).port = .held req) (unstalled : (s.chan n).ctl.stalled = none) :
    ((s.chan n).ctl.state = .off ∨ (s.chan n).ctl.state = .halted ∨ (s.chan n).ctl.state = .ending →
      s.considerHeld n = s.closePort n (.refused .notArmed)) ∧
    ((s.chan n).ctl.state = .faulted → s.considerHeld n = s.closePort n (.refused .channelFaulted)) := by
  unfold State.considerHeld
  simp only [port, Channel.isStalled, unstalled]
  refine ⟨fun state => ?_, fun state => ?_⟩
  · rcases state with h | h | h <;> rw [h] <;> rfl
  · rw [state]
    rfl

theorem State.considerHeld_ready {u : Setup} (port : (s.chan n).port = .held req)
    (unstalled : (s.chan n).ctl.stalled = none) (ready : (s.chan n).ctl.state = .ready)
    (setup : (s.chan n).ctl.setup = some u) :
    (u.direction ≠ req.direction → s.considerHeld n = s.closePort n (.refused .directionMismatch)) ∧
    (u.direction = req.direction → s.considerHeld n = s.acceptRequest n req) := by
  have agrees := Channel.directionMatches_iff setup req
  have eq : s.considerHeld n = if (s.chan n).directionMatches req then s.acceptRequest n req
      else s.closePort n (.refused .directionMismatch) := by
    unfold State.considerHeld
    simp only [port, Channel.isStalled, unstalled, ready]
    rfl
  rw [eq]
  exact ⟨fun differs => if_neg (agrees.not.2 differs), fun same => if_pos (agrees.2 same)⟩

end

/-- Settles O40: the requests by the port's phase and the channel's state. -/
theorem channelRequestByState : Obligations.ChannelRequestByState := by
  intro n req s c run refused held
  refine ⟨fun port => ?_, fun old port => ?_, fun old g port state => ?_, fun port waits => ?_⟩
  · have arrives : run = .next (s.arriveIdle n req) := congrArg Host.Outcome.next (State.arrive_idle port)
    have holds : c.ctl.state ∈ [ChanState.loading, .linking, .pending, .moving, .draining] → held := fun busy =>
      arrives.trans (congrArg _ (State.arriveIdle_held busy))
    obtain ⟨off, faulted⟩ := State.arriveIdle_refused (s := s) (n := n) (req := req)
    refine ⟨fun state => arrives.trans (congrArg _ (off state)), fun state => arrives.trans (congrArg _ (faulted state)),
      fun state => holds ?_, fun state => holds ?_, fun u ready setup => ?_⟩
    · rcases state with h | h <;> rw [h] <;> decide
    · rcases state with h | h | h <;> rw [h] <;> decide
    · rw [State.arriveIdle_ready ready setup] at arrives
      refine ⟨fun differs => ?_, fun same stalled => ?_, fun same unstalled => ?_⟩
      · exact arrives.trans (congrArg _ (if_pos differs))
      · exact arrives.trans (congrArg _ ((if_neg (not_not_intro same)).trans (if_pos stalled)))
      · have goes : ¬ (s.chan n).ctl.stalled.isSome = true := by
          rw [show (s.chan n).ctl.stalled = none from unstalled]
          decide
        rw [if_neg (not_not_intro same), if_neg goes] at arrives
        have accepted := s.acceptRequest_accepted n req
        exact ⟨_, arrives, accepted.port, accepted.ctl, accepted.quiet, accepted.walker, accepted.words, accepted.out,
          accepted.arb, accepted.events⟩
  · obtain ⟨idle, out⟩ := State.secondRequest_closes (req := req) port
    exact ⟨_, rfl, idle, out, fun state pends untaken idle unstalled =>
      State.secondRequest_faults port state pends untaken idle unstalled, fun state pends holds waits =>
      State.secondRequest_pends port state pends holds waits⟩
  · have flies : (s.chan n).opInFlight = true := by
      unfold Channel.opInFlight
      rw [port]
      rfl
    exact congrArg Host.Outcome.next ((State.arrive_granted port).trans
      (State.faultArise_pends state (.inl flies) portProtocol))
  · intro t closed
    have considers : t = s.considerHeld n := congrArg (State.considerHeld · n) (State.takeUntaken_of_nothing waits)
    refine ⟨fun stalled => considers.trans (State.considerHeld_of_stalled stalled), fun unstalled =>
      ⟨fun state => ?_, fun state => ?_, fun u ready setup => ⟨fun differs => ?_, fun same => ?_⟩, fun busy =>
        considers.trans (State.considerHeld_of_busy busy)⟩⟩
    · exact considers.trans ((State.considerHeld_refused port unstalled).1 state)
    · exact considers.trans ((State.considerHeld_refused port unstalled).2 state)
    · exact considers.trans ((State.considerHeld_ready port unstalled ready setup).1 differs)
    · have accepts := considers.trans ((State.considerHeld_ready port unstalled ready setup).2 same)
      have accepted := s.acceptRequest_accepted n req
      have only := (s.acceptRequest_step n req).onlyChannel
      rw [accepts]
      exact ⟨accepted.port, accepted.ctl, accepted.quiet, accepted.walker, accepted.words, only, accepted.mport,
        accepted.out, accepted.arb, accepted.events⟩

end Sys2Proof.Machine
end

section
/-! PROOFS. What acts at a boundary: the end of the disable sequence, the waiting FLUSH and the waiting CHANNEL_RESET (R84,
R86, R106, R109, R118, R134, R145, R147, R182, R183). -/

namespace Sys2Proof.Machine

theorem State.atBoundary_iff (s : State) : s.atBoundary = true ↔ s.mport.lock = none := Option.isNone_iff_eq_none

/-! ## The end of the disable sequence (R182) -/

theorem State.exec_disableEnd (s : State) :
    exec .disableEnd s = .next (if s.mgmt.sequence = some .d3 ∧ s.atBoundary = true then s.endDisable else s) := rfl

theorem State.endDisable_chan (s : State) (n : ChanId) : s.endDisable.chan n = (s.chan n).afterDisable :=
  s.chan_mapChannels Channel.afterDisable n

theorem State.endDisable_cell (s : State) (k : CellId) :
    s.endDisable.cell k = { Cell.reset with copy := (s.cell k).copy } :=
  s.cell_mapCells (fun c => { Cell.reset with copy := c.copy }) k

/-- Every claim is withdrawn (R182). -/
theorem State.endDisable_arb (s : State) : s.endDisable.arb = { s.arb with upkeep := [] } := by
  have none : (s.arb.upkeep.filter fun c => !(fun _ => true) c.kind) = [] := List.filter_eq_nil_iff.2 (by simp)
  exact congrArg (fun l => { s.arb with upkeep := l }) none

/-- Settles O57: the sequence's end by its blocks. -/
theorem disableEndClearsTheWindow : Obligations.DisableEndClearsTheWindow := by
  intro s
  rw [State.exec_disableEnd]
  refine ⟨fun d3 free => ⟨_, congrArg _ (if_pos ⟨d3, s.atBoundary_iff.2 free⟩), rfl, rfl, s.endDisable_arb, fun n => ?_, fun k => ?_,
    ?_,
    rfl, rfl⟩, fun not => congrArg _ (if_neg (not_and_or.2 (not.imp_right s.atBoundary_iff.not.2)))⟩
  · rw [s.endDisable_chan, State.chan_reset]
    exact ⟨rfl, rfl, rfl, rfl, rfl⟩
  · rw [s.endDisable_cell, State.cell_reset]
  · rw [← free]
    rfl

/-! ## FLUSH (R183) -/

/-- What a trigger of some channel leaves of the part, and the claims that stand. -/
structure FlushFrame (s t : State) : Prop where
  mgmt : t.mgmt = s.mgmt
  cells : t.cells = s.cells
  events : t.events = s.events
  mport : t.mport = s.mport
  pass : t.pass = s.pass
  out : t.out = s.out
  claims : ∀ c ∈ s.arb.upkeep, c ∈ t.arb.upkeep

theorem FlushFrame.trans {s t u : State} (h : FlushFrame s t) (k : FlushFrame t u) : FlushFrame s u :=
  ⟨k.mgmt.trans h.mgmt, k.cells.trans h.cells, k.events.trans h.events, k.mport.trans h.mport, k.pass.trans h.pass,
    k.out.trans h.out, fun c mem => k.claims c (h.claims c mem)⟩

theorem State.triggerWriteback_claims (s : State) (n : ChanId) (w : WbServes) :
    ∀ c ∈ s.arb.upkeep, c ∈ (s.triggerWriteback n w).arb.upkeep := by
  by_cases valid : ∃ v, (s.chan n).line = .valid v
  · obtain ⟨v, line⟩ := valid
    obtain ⟨-, -, eq⟩ | ⟨-, -, eq⟩ | ⟨-, eq⟩ | ⟨-, -, -, eq⟩ := State.triggerWriteback_cases line w <;> rw [eq]
    · exact fun c mem => List.mem_append_left _ mem
    · exact fun c mem => mem
    · exact fun c mem => mem
    · exact fun c mem => mem
  · rw [State.triggerWriteback_of_not_valid (not_exists.1 valid)]
    exact fun c mem => mem

theorem State.triggerPlain_frame (s : State) (n : ChanId) : FlushFrame s (s.triggerPlain n) := by
  have step := s.triggerPlain_step n
  exact ⟨step.mgmt, step.cells, s.triggerWriteback_events n _, step.mport, step.pass, (s.triggerWriteback_leaves n _).2,
    s.triggerWriteback_claims n _⟩

/-- What FLUSH does to channel m (R183): a dirty VALID line is written back; a clean one with no writeback, and a line
that is not VALID, stand; the controller and the port do. -/
structure LineFlushed (m : ChanId) (s t : State) : Prop where
  dirty : ∀ v, (s.chan m).line = .valid v → v.dirty.any = true → s.WritebackTriggered t m
  clean : ∀ v, (s.chan m).line = .valid v → v.wbPhase = .none → v.dirty.any = false → t.chan m = s.chan m
  gone : (s.chan m).lineValid = false → t.chan m = s.chan m
  ctl : (t.chan m).ctl = (s.chan m).ctl
  port : (t.chan m).port = (s.chan m).port

theorem State.triggerPlain_flushed (s : State) (m : ChanId) : LineFlushed m s (s.triggerPlain m) := by
  obtain ⟨⟨l, chan⟩, -⟩ := s.triggerWriteback_leaves m .plain
  refine ⟨fun v line dirty => State.triggerWriteback_triggered (fun x valid => ?_) _, fun v line phase clean => ?_,
    fun gone => ?_, by rw [State.triggerPlain, chan], by rw [State.triggerPlain, chan]⟩
  · cases line.symm.trans valid
    exact dirty
  · rw [State.triggerPlain, State.triggerWriteback_of_clean line phase clean]
  · rw [State.triggerPlain, State.triggerWriteback_of_not_valid]
    intro v line
    rw [Channel.lineValid, line] at gone
    cases gone

/-- What FLUSH does to channel m is seen from every state with that channel, at every later one with the claims. -/
theorem LineFlushed.congr {m : ChanId} {s s' t t' : State} (h : LineFlushed m s t) (before : s'.chan m = s.chan m)
    (after : t'.chan m = t.chan m) (claims : ∀ c ∈ t.arb.upkeep, c ∈ t'.arb.upkeep) : LineFlushed m s' t' := by
  obtain ⟨dirty, clean, gone, ctl, port⟩ := h
  refine ⟨fun v line marked x valid => ?_, ?_, ?_, ?_, ?_⟩
  · obtain ⟨v', line', phase⟩ := dirty v (by rw [← before]; exact line) marked x (by rw [← before]; exact valid)
    refine ⟨v', by rw [after, line'], ?_⟩
    revert phase
    cases x.wbPhase with
    | none => exact fun phase => ⟨phase.1, claims _ phase.2⟩
    | claimed => exact id
    | granted o f => exact id
  · rw [before, after]
    exact clean
  · rw [before, after]
    exact gone
  · rw [before, after, ctl]
  · rw [before, after, port]

/-- The triggers of several channels, one after the other. -/
theorem State.triggers_flush (l : List ChanId) (once : l.Nodup) (s : State) :
    FlushFrame s (l.foldl (fun s n => s.triggerPlain n) s) ∧
    (∀ m, m ∉ l → (l.foldl (fun s n => s.triggerPlain n) s).chan m = s.chan m) ∧
    ∀ m ∈ l, LineFlushed m s (l.foldl (fun s n => s.triggerPlain n) s) := by
  induction l generalizing s with
  | nil => exact ⟨⟨rfl, rfl, rfl, rfl, rfl, rfl, fun _ mem => mem⟩, fun _ _ => rfl, nofun⟩
  | cons a l ih =>
    obtain ⟨fresh, once⟩ := List.nodup_cons.1 once
    obtain ⟨frame, others, flushed⟩ := ih once (s.triggerPlain a)
    have other : ∀ m, m ≠ a → (s.triggerPlain a).chan m = s.chan m := (s.triggerPlain_step a).others
    refine ⟨(s.triggerPlain_frame a).trans frame, fun m mem => ?_, fun m mem => ?_⟩
    · obtain ⟨ne, mem⟩ := not_or.1 (List.mem_cons.not.1 mem)
      exact (others m mem).trans (other m ne)
    · rcases List.mem_cons.1 mem with rfl | mem
      · exact (s.triggerPlain_flushed m).congr rfl (others m fresh) frame.claims
      · exact (flushed m mem).congr (other m fun eq => fresh (eq ▸ mem)).symm rfl fun _ mem => mem

theorem chanIds_nodup : chanIds.Nodup := by decide

theorem State.exec_flushAtBoundary (s : State) :
    exec .flushAtBoundary s = .next (if s.mgmt.flushWaiting && s.atBoundary then s.flushNow else s) := rfl

/-- FLUSH acts on every channel, and waits no more (R183). -/
theorem State.flushNow_flushes (s : State) :
    FlushFrame (s.modMgmt fun m => { m with flushWaiting := false }) s.flushNow ∧ ∀ m, LineFlushed m s s.flushNow := by
  obtain ⟨frame, -, flushed⟩ := State.triggers_flush chanIds chanIds_nodup (s.modMgmt fun m => { m with flushWaiting := false })
  unfold State.flushNow
  exact ⟨frame, fun m => (flushed m (mem_chanIds m)).congr (State.chan_modMgmt s _ m).symm rfl fun _ mem => mem⟩

/-! ## CHANNEL_RESET (R106, R145) -/

theorem UpkeepKind.ofChannel_eq (n : ChanId) (k : UpkeepKind) :
    k.ofChannel n = (k == .fill n || k == .writeback n || k == .link n) := by
  cases k <;> simp [UpkeepKind.ofChannel, beq_eq_decide]

/-- Channel n leaves the waiting mask, and the others stay in it (R183). -/
theorem resetMask_cleared (mask : BitVec 8) (n i : ChanId) :
    (mask &&& ~~~(1#8 <<< n.val)).getLsbD i.val = (mask.getLsbD i.val && i != n) := by
  have bit : ∀ n i : ChanId, (~~~(1#8 <<< n.val)).getLsbD i.val = (i != n) := by decide
  rw [BitVec.getLsbD_and, bit]

theorem State.exec_channelResetTakesEffect (s : State) (n : ChanId) :
    exec (.channelResetTakesEffect n) s = .next (if s.resetWaits n && s.atBoundary && (s.chan n).noGrantedBreak
      then (s.resetChannel n).disableProgress else s) := rfl

theorem Channel.noGrantedBreak_iff (c : Channel) : c.noGrantedBreak = true ↔ ∀ req g, c.port ≠ .granted req g := by
  unfold Channel.noGrantedBreak
  cases c.port <;> simp

/-- The row acts where the reset waits, the lock is free and no granted break runs (R106). -/
theorem State.channelResetActs_iff (s : State) (n : ChanId) :
    (s.resetWaits n && s.atBoundary && (s.chan n).noGrantedBreak) = true ↔
      s.resetWaits n = true ∧ s.mport.lock = none ∧ ∀ req g, (s.chan n).port ≠ .granted req g := by
  rw [Bool.and_eq_true, Bool.and_eq_true, State.atBoundary_iff, Channel.noGrantedBreak_iff, and_assoc]

/-- What CHANNEL_RESET of channel n leaves (R60, R84, R106, R145). -/
structure ChannelReset (n : ChanId) (s t : State) : Prop where
  chan : t.chan n = { Channel.reset with ctl := { Controller.reset with startCount := (s.chan n).ctl.startCount } }
  others : ∀ m, m ≠ n → t.chan m = s.chan m
  out : t.out = s.out ++ (if (s.chan n).port = .idle then [] else [.answer n .cancelled])
  mport : t.mport = { s.mport with
    inflight := s.mport.inflight.map fun e => if e.owner.isFillOrLink n then { e with orphan := true } else e }
  arb : t.arb = { s.arb with
    upkeep := s.arb.upkeep.filter fun c => !(c.kind == .fill n || c.kind == .writeback n || c.kind == .link n) }
  mask : t.mgmt.resetMask = s.mgmt.resetMask &&& ~~~(1#8 <<< n.val)
  cells : t.cells = s.cells
  pass : t.pass = s.pass
  events : t.events = { s.events with intake := t.events.intake }

/-- The answer of an outstanding request changes the port of channel n alone, and sends CANCELLED (R106). -/
theorem State.cancelPort_frame (s : State) (n : ChanId) :
    (∃ p, (s.cancelPort n).chan n = { s.chan n with port := p }) ∧
    (s.cancelPort n).out = s.out ++ (if (s.chan n).port = .idle then [] else [.answer n .cancelled]) ∧
    (s.cancelPort n).arb = s.arb ∧ (s.cancelPort n).events = s.events := by
  obtain ⟨idle, eq⟩ | ⟨busy, eq⟩ := s.cancelPort_cases n <;> rw [eq]
  · exact ⟨⟨_, rfl⟩, by rw [if_pos idle, List.append_nil], rfl, rfl⟩
  · exact ⟨⟨_, s.closePort_chan n _⟩, by rw [if_neg busy]; rfl, rfl, rfl⟩

theorem State.resetChannel_reset (s : State) (n : ChanId) : ChannelReset n s (s.resetChannel n) := by
  obtain ⟨⟨p, chan⟩, out, arb, events⟩ := s.cancelPort_frame n
  have step := s.cancelPort_step n
  let u := ((s.cancelPort n).withdraw (UpkeepKind.ofChannel n)).orphan (Owner.isFillOrLink n)
  have reset := u.chan_modChan_self n fun c =>
    { Channel.reset with ctl := { Controller.reset with startCount := c.ctl.startCount } }
  refine ⟨?_, fun m ne => ?_, out, ?_, ?_, ?_, step.cells, step.pass, ?_⟩
  · refine (State.chan_modMgmt _ _ n).trans (reset.trans ?_)
    rw [State.chan_orphan, State.chan_withdraw, chan]
  · refine (State.chan_modMgmt _ _ m).trans ((State.chan_modChan_other u _ ne).trans ?_)
    rw [State.chan_orphan, State.chan_withdraw, step.others m ne]
  · change u.mport = _
    rw [State.orphan_mport, State.withdraw_mport, step.mport]
  · change u.arb = _
    rw [State.orphan_arb, State.withdraw_arb, arb]
    simp only [UpkeepKind.ofChannel_eq]
  · change (s.cancelPort n).mgmt.resetMask &&& _ = _
    rw [step.mgmt]
  · change (s.cancelPort n).events = { s.events with intake := (s.cancelPort n).events.intake }
    rw [events]

/-- The disable sequence may advance behind the reset, by its step and Intake alone (R181). -/
theorem ChannelReset.disableProgress {n : ChanId} {s t : State} (h : ChannelReset n s t) :
    ChannelReset n s t.disableProgress := by
  have frame := t.disableProgress_frame
  obtain ⟨events, mgmt, -⟩ := frame.only
  refine ⟨(State.chan_congr frame.channels n).trans h.chan, fun m ne =>
    (State.chan_congr frame.channels m).trans (h.others m ne), frame.out.trans h.out, frame.mport.trans h.mport,
    frame.arb.trans h.arb, ?_, frame.cells.trans h.cells, frame.pass.trans h.pass, ?_⟩
  · rw [mgmt]
    exact h.mask
  · rw [events, h.events]

/-- Settles O59: FLUSH by the triggers of the channels in their order, CHANNEL_RESET by its blocks. -/
theorem waitingActionsActAtABoundary : Obligations.WaitingActionsActAtABoundary := by
  intro n s
  rw [State.exec_flushAtBoundary, State.exec_channelResetTakesEffect]
  refine ⟨fun waits free => ?_, fun not => ?_, fun waits free granted => ?_, fun not => ?_⟩
  · obtain ⟨frame, flushed⟩ := s.flushNow_flushes
    exact ⟨_, congrArg _ (if_pos (Bool.and_eq_true_iff.2 ⟨waits, s.atBoundary_iff.2 free⟩)), frame.mgmt,
      fun m => (flushed m).dirty, fun m => (flushed m).clean, fun m => (flushed m).gone,
      fun m => ⟨(flushed m).ctl, (flushed m).port⟩, frame.cells, frame.events, frame.mport, frame.pass, frame.out⟩
  · refine congrArg _ (if_neg fun both => ?_)
    obtain ⟨waits, boundary⟩ := Bool.and_eq_true_iff.1 both
    rcases not with idle | held
    · rw [idle] at waits
      cases waits
    · exact held (s.atBoundary_iff.1 boundary)
  · have reset := (s.resetChannel_reset n).disableProgress
    refine ⟨_, congrArg _ (if_pos ((s.channelResetActs_iff n).2 ⟨waits, free, granted⟩)), ?_, reset.out, fun i => ?_,
      reset.mport, reset.arb, reset.others, reset.cells, reset.pass, reset.events⟩
    · rw [reset.chan, State.chan_reset]
      rfl
    · rw [reset.mask, resetMask_cleared]
  · refine congrArg _ (if_neg fun acts => ?_)
    obtain ⟨waits, free, granted⟩ := (s.channelResetActs_iff n).1 acts
    rcases not with idle | held | ⟨req, g, port⟩
    · rw [State.resetWaits, idle] at waits
      cases waits
    · exact held free
    · exact granted req g port

end Sys2Proof.Machine
end

section
/-! PROOFS. The end of a break group: its answer, and the transition that follows (R74, R75, R78, R82, R101, R102, R106). -/

namespace Sys2Proof.Machine

/-! ## The channel after the answer (R82, R106) -/

/-- The FAULT event of a part that has changed channel n but not its COOKIE, START_COUNT and stalled slot (R78, R81). -/
theorem State.EventCreated.of_faultEvent {s u t : State} {n : ChanId} {code : FaultCode} {a : Addr}
    (h : u.EventCreated t n (u.faultEvent n code a)) (events : u.events = s.events)
    (slot : (u.chan n).ctl.stalled = (s.chan n).ctl.stalled) (cookie : (u.chan n).cookie = (s.chan n).cookie)
    (count : (u.chan n).ctl.startCount = (s.chan n).ctl.startCount) : s.EventCreated t n (s.faultEvent n code a) := by
  have same : u.faultEvent n code a = s.faultEvent n code a := by
    unfold State.faultEvent
    rw [cookie, count]
  rw [same] at h
  exact h.congr events.symm slot.symm rfl rfl

section
variable {u : State} {n : ChanId} {v : ValidLine} {e : BreakEnd}

/-- After its answer the port of a group stays IDLE, nothing more is sent, and no access leaves (R101). -/
theorem State.afterBreak_closed (port : (u.chan n).port = .idle) (e : BreakEnd) :
    ((u.afterBreak n e).chan n).port = .idle ∧ (u.afterBreak n e).out = u.out ∧ (u.afterBreak n e).mport = u.mport := by
  obtain ⟨idle, out⟩ := (u.afterBreak_idleStep n e).idle port
  exact ⟨idle, out, (u.afterBreak_step n e).mport⟩

theorem State.afterBreak_of_reset (waits : u.resetWaits n = true) (e : BreakEnd) :
    u.afterBreak n e = u.modCtl n fun k => { k with pendingFault := none } := (u.afterBreak_groupEnds n e).1 waits

theorem State.afterBreak_of_stalled (waits : u.resetWaits n = false) (stalled : (u.chan n).ctl.stalled ≠ none)
    (e : BreakEnd) : u.afterBreak n e = u.modCtl n fun k => { k with heldCompletion := some (.breakGroup e) } :=
  (u.afterBreak_groupEnds n e).2.1 waits stalled

theorem State.afterBreak_of_free (waits : u.resetWaits n = false) (unstalled : (u.chan n).ctl.stalled = none)
    (e : BreakEnd) : u.afterBreak n e = (u.breakTransition n e).settle n :=
  (u.afterBreak_groupEnds n e).2.2 waits unstalled

/-- An IDLE port holds no request. -/
theorem Channel.noHeld_of_idle {c : Channel} (port : c.port = .idle) : c.NoHeld := fun req => by
  rw [port]
  nofun

variable (line : (u.chan n).line = .valid v) (command : commandOf v.words.control = 0#3)
include line command

/-- A fault that pends at the end of a group is taken in place of the transition (R78), and settle finds nothing. -/
theorem State.afterBreak_of_fault {f : PendingFault} (waits : u.resetWaits n = false)
    (unstalled : (u.chan n).ctl.stalled = none) (pends : (u.chan n).ctl.pendingFault = some f) (e : BreakEnd) :
    u.afterBreak n e = u.enterFaulted n f := by
  rw [State.afterBreak_of_free waits unstalled, State.breakTransition_of_fault pends, State.settle_of_nothing]
  · exact .inl (by rw [State.enterFaulted_untaken, Channel.untaken_of_valid line, command])
  · exact u.enterFaulted_noHeld n f

/-- A fault that pends at the end of a group faults the channel and is reported (R78): told of a state s that the group's
end has left as it was but for the channel's port, the words that were undone and the fault. -/
theorem State.afterBreak_faults {s : State} {f : PendingFault} (waits : u.resetWaits n = false)
    (unstalled : (u.chan n).ctl.stalled = none) (pends : (u.chan n).ctl.pendingFault = some f)
    (events : u.events = s.events) (slot : (u.chan n).ctl.stalled = (s.chan n).ctl.stalled)
    (cookie : (u.chan n).cookie = (s.chan n).cookie) (count : (u.chan n).ctl.startCount = (s.chan n).ctl.startCount)
    (e : BreakEnd) :
    ((u.afterBreak n e).chan n).ctl.state = .faulted ∧ ((u.afterBreak n e).chan n).ctl.lastFault = some f.code ∧
    s.EventCreated (u.afterBreak n e) n (s.faultEvent n f.code f.address) := by
  rw [State.afterBreak_of_fault line command waits unstalled pends]
  obtain ⟨state, code, event⟩ := u.enterFaulted_faulted n f
  exact ⟨state, code, event.of_faultEvent events slot cookie count⟩

/-- With COUNT above 0 a MOVING channel enters READY, and a DRAINING one HALTED (R74, R75). -/
theorem State.afterBreak_goes (port : (u.chan n).port = .idle) (free : u.Unhindered n)
    (abort : (u.chan n).ctl.abortRecorded = false) (count : e.countZero = false) :
    ((u.chan n).ctl.state = .moving → ((u.afterBreak n e).chan n).ctl.state = .ready) ∧
    ((u.chan n).ctl.state = .draining → ((u.afterBreak n e).chan n).ctl.state = .halted) := by
  obtain ⟨unstalled, pends, waits⟩ := free
  have held := Channel.noHeld_of_idle port
  have untaken : (u.chan n).untaken = 0#3 := by rw [Channel.untaken_of_valid line, command]
  rw [State.afterBreak_of_free waits unstalled, State.breakTransition_of_no_fault pends, abort, count]
  refine ⟨fun moving => ?_, fun draining => ?_⟩
  · rw [if_neg (by decide), if_neg (by decide), if_neg (by rw [moving]; decide), State.settle_of_nothing
      (.inl (by rw [State.setState_untaken, untaken])) (State.setState_noHeld held _), State.setState_ctl]
  · rw [if_neg (by decide), if_neg (by decide), if_pos draining]
    obtain ⟨v', halted, -⟩ : ∃ v', ((u.enterHalted n).chan n).line = .valid v' ∧ True := by
      obtain ⟨v', line', -⟩ := (u.enterHalted_idleStep n).valid v line
      exact ⟨v', line', trivial⟩
    have port' := ((u.enterHalted_idleStep n).idle port).1
    have command' : ((u.enterHalted n).chan n).untaken = 0#3 := by
      rw [Channel.untaken_of_valid halted, ← command]
      exact congrArg commandOf (((Channel.word_of_valid halted .control).symm.trans
        ((u.enterHalted_kept n).words .control (by decide))).trans (Channel.word_of_valid line .control))
    rw [State.settle_of_nothing (.inl command') (Channel.noHeld_of_idle port'), State.enterHalted_state]

end

/-! ## The completion of a group (R101) -/

theorem Channel.breakEnd_of_valid {c : Channel} {v : ValidLine} (line : c.line = .valid v) : c.breakEnd = v.breakEnd := by
  unfold Channel.breakEnd Channel.count Channel.chain
  simp only [Channel.word_of_valid line]
  rfl

theorem State.breakOver_congr {s t : State} (h : t.mport = s.mport) (n : ChanId) : t.breakOver n = s.breakOver n := by
  unfold State.breakOver State.heldBy
  rw [h]

/-- A group is over when neither the lock nor the in-flight list has anything of it (R101). -/
theorem State.breakOver_iff (s : State) (n : ChanId) : s.breakOver n = true ↔
    s.heldBy (.brk n) = false ∧ ¬ ∃ e ∈ s.mport.inflight, e.owner.isBreak n = true ∧ e.orphan = false := by
  unfold State.breakOver
  simp

theorem State.breakOver_answered (s : State) (rest : List InFlight) (n : ChanId) :
    (s.answered rest).breakOver n = true ↔ ¬ s.BreakGoesOn n rest := by
  rw [State.breakOver_iff, State.BreakGoesOn, not_or, Bool.not_eq_true]
  exact Iff.rfl

theorem State.finishBreak_of_going {s : State} {n : ChanId} (goes : ¬ s.breakOver n = true) : s.finishBreak n = s := by
  unfold State.finishBreak
  split
  · exact if_neg goes
  · rfl

/-- The answer leaves, the port is IDLE, and the channel goes on (R101). -/
theorem State.finishBreak_of_over {s : State} {n : ChanId} {req : DeviceRequest} {g : BreakProgress} {v : ValidLine}
    {a : Answer} (port : (s.chan n).port = .granted req g) (line : (s.chan n).line = .valid v)
    (ended : s.breakOver n = true) (answer : finalAnswer g.result v.breakEnd = some a) :
    s.finishBreak n = (s.closePort n a).afterBreak n v.breakEnd := by
  unfold State.finishBreak
  rw [port]
  refine (if_pos ended).trans ?_
  unfold State.completeBreak
  simp only [Channel.breakEnd_of_valid line, answer]

theorem State.closePort_setChan (s : State) (n : ChanId) (c : Channel) (a : Answer) :
    (s.setChan n c).closePort n a =
      State.setChan { s with out := s.out ++ [.answer n a] } n { c with port := .idle } := by
  unfold State.closePort State.modChan
  rw [State.chan_setChan_self, State.setChan_setChan]
  rfl

theorem State.modProgress_of_granted {s : State} {n : ChanId} {req : DeviceRequest} {g : BreakProgress}
    (port : (s.chan n).port = .granted req g) (f : BreakProgress → BreakProgress) :
    s.modProgress n f = s.setChan n { s.chan n with port := .granted req (f g) } := by
  unfold State.modProgress State.modChan
  simp only [port]

/-- A granted break is in flight (R78). -/
theorem Channel.opInFlight_of_granted {c : Channel} {req : DeviceRequest} {g : BreakProgress}
    (port : c.port = .granted req g) : c.opInFlight = true := by
  unfold Channel.opInFlight
  rw [port]
  rfl

/-- The group of channel n has ended: answer `a` has left, and the channel is `c` with its port IDLE (R101). -/
def State.groupAnswered (s : State) (n : ChanId) (c : Channel) (a : Answer) : State :=
  State.setChan { s with out := s.out ++ [.answer n a] } n { c with port := .idle }

theorem State.groupAnswered_chan (s : State) (n : ChanId) (c : Channel) (a : Answer) :
    (s.groupAnswered n c a).chan n = { c with port := .idle } := State.chan_setChan_self _ n _

/-- The end of a group on a part whose channel n is `c`: its answer, and what follows it (R82, R101). -/
theorem State.finishBreak_setChan {s : State} {n : ChanId} {c : Channel} {req : DeviceRequest} {g : BreakProgress}
    {v : ValidLine} {a : Answer} (port : c.port = .granted req g) (line : c.line = .valid v)
    (ended : s.breakOver n = true) (answer : finalAnswer g.result v.breakEnd = some a) :
    (s.setChan n c).finishBreak n = (s.groupAnswered n c a).afterBreak n v.breakEnd := by
  have chan := s.chan_setChan_self n c
  exact (State.finishBreak_of_over (s := s.setChan n c) (by rw [chan, port]) (by rw [chan, line])
    ((State.breakOver_congr rfl n).trans ended) answer).trans (by rw [State.closePort_setChan]; rfl)

/-! ## The undo (R102) -/

/-- What the undo leaves of a line (R102; log 16). -/
theorem ValidLine.undo_spec (v : ValidLine) (g : BreakProgress) :
    (v.undo g).words.done = g.prevDone ∧ (v.undo g).dirty.done = true ∧
    (v.undo g).words.count = (if g.countReplaced then v.words.count else g.prevCount) ∧
    (v.undo g).dirty.count = (if g.countReplaced then v.dirty.count else true) ∧
    (v.undo g).words.address =
      (if g.addressTouched && !g.addressReplaced then g.prevAddress else v.words.address) ∧
    (v.undo g).dirty.address = (if g.addressTouched && !g.addressReplaced then true else v.dirty.address) := by
  unfold ValidLine.undo
  cases g.countReplaced <;> cases g.addressTouched && !g.addressReplaced <;> exact ⟨rfl, rfl, rfl, rfl, rfl, rfl⟩

/-- The undo leaves CONTROL and COOKIE. -/
theorem ValidLine.undo_keeps (v : ValidLine) (g : BreakProgress) :
    (v.undo g).words.control = v.words.control ∧ (v.undo g).words.cookie = v.words.cookie := by
  unfold ValidLine.undo
  cases g.countReplaced <;> cases g.addressTouched && !g.addressReplaced <;> exact ⟨rfl, rfl⟩

/-- The lock after the early end of channel n's group (R142). -/
def State.breakFreed (s : State) (n : ChanId) : State :=
  { s with mport := { s.mport with lock := if s.heldBy (.brk n) then none else s.mport.lock } }

theorem State.endGroup_brk (s : State) (n : ChanId) : s.endGroup (.brk n) = s.breakFreed n := by
  unfold State.endGroup State.breakFreed
  split <;> rfl

theorem State.breakFreed_not_held (s : State) (n : ChanId) : (s.breakFreed n).heldBy (.brk n) = false := by
  by_cases held : s.heldBy (.brk n) = true
  · have freed : (s.breakFreed n).mport.lock = none := if_pos held
    unfold State.heldBy
    rw [freed]
  · rw [Bool.not_eq_true] at held
    simp only [State.breakFreed, held]
    exact held

/-- A freed group is over when no access of it is outstanding (R101). -/
theorem State.breakFreed_over_iff (s : State) (n : ChanId) : (s.breakFreed n).breakOver n = true ↔
    ¬ ∃ e ∈ s.mport.inflight, e.owner.isBreak n = true ∧ e.orphan = false := by
  rw [State.breakOver_iff, and_iff_right (s.breakFreed_not_held n)]
  exact Iff.rfl

/-- Channel c after its break has failed: the line undone, the result known, the fault pending (R78, R102). -/
def Channel.breakFailed (c : Channel) (req : DeviceRequest) (g : BreakProgress) (v : ValidLine) (code : FaultCode)
    (a : Addr) : Channel :=
  { c with
    line := .valid (v.undo g)
    port := .granted req { g with result := .failed code }
    ctl := { c.ctl with pendingFault := some (c.ctl.pendingFault.getD (.of code a)) } }

/-- The group of a stepped break ends without moving its word: the lock ends, the steps are undone, and the fault pends
(R78, R102). -/
theorem State.breakFails_of_stepped {s : State} {n : ChanId} {req : DeviceRequest} {g : BreakProgress} {v : ValidLine}
    (port : (s.chan n).port = .granted req g) (line : (s.chan n).line = .valid v) (stepped : g.stepped = true)
    (state : (s.chan n).ctl.state ≠ .faulted) (code : FaultCode) (a : Addr) :
    s.breakFails n code a = (s.breakFreed n).setChan n ((s.chan n).breakFailed req g v code a) := by
  have undone : (s.breakFreed n).undoBreak n = (s.breakFreed n).setChan n { s.chan n with line := .valid (v.undo g) } := by
    unfold State.undoBreak State.modChan
    simp only [show (s.breakFreed n).chan n = s.chan n from rfl, port, stepped, if_true, Channel.modLine_of_valid line]
  have known : ((s.breakFreed n).undoBreak n).setResult n (.failed code) = (s.breakFreed n).setChan n
      { s.chan n with line := .valid (v.undo g), port := .granted req { g with result := .failed code } } := by
    rw [undone, State.setResult, State.modProgress_of_granted (req := req) (g := g) (by rw [State.chan_setChan_self, port]),
      State.chan_setChan_self, State.setChan_setChan]
  rw [State.breakFails, State.endGroup_brk, known, State.faultArise_pends]
  · unfold State.modCtl State.modChan
    rw [State.chan_setChan_self, State.setChan_setChan]
    rfl
  · rw [State.chan_setChan_self]
    exact state
  · rw [State.chan_setChan_self]
    exact .inl (Channel.opInFlight_of_granted rfl)

/-- The failure of a stepped break none of whose accesses is outstanding ends its group (R101, R102). -/
theorem State.breakFails_ends {s : State} {n : ChanId} {req : DeviceRequest} {g : BreakProgress} {v : ValidLine}
    (port : (s.chan n).port = .granted req g) (line : (s.chan n).line = .valid v) (stepped : g.stepped = true)
    (state : (s.chan n).ctl.state ≠ .faulted)
    (last : ¬ ∃ e ∈ s.mport.inflight, e.owner.isBreak n = true ∧ e.orphan = false) (code : FaultCode) (a : Addr) :
    (s.breakFails n code a).finishBreak n =
      ((s.breakFreed n).groupAnswered n ((s.chan n).breakFailed req g v code a) (.failed code)).afterBreak n
        (v.undo g).breakEnd := by
  rw [State.breakFails_of_stepped port line stepped state]
  exact State.finishBreak_setChan rfl rfl ((s.breakFreed_over_iff n).2 last) rfl

/-- The entry to FAULTED with the words that the undo has left (R78, R102). -/
theorem State.enterFaulted_breakFailed {u : State} {n : ChanId} {v : ValidLine} {g : BreakProgress}
    (port : (u.chan n).port = .idle) (line : (u.chan n).line = .valid (v.undo g)) (f : PendingFault) :
    (u.enterFaulted n f).BreakFailed n g v f.code := by
  obtain ⟨state, code, -⟩ := u.enterFaulted_faulted n f
  obtain ⟨v', line', words, dirty, -⟩ := State.enterFaulted_line line f
  have idle := ((u.enterFaulted_idleStep n f).idle port).1
  refine ⟨idle, state, code, v', line', ?_⟩
  rw [words, dirty]
  exact v.undo_spec g

end Sys2Proof.Machine
end

section
/-! PROOFS. The responses of a break's data access and of its STRICT record writes (R99, R101, R102). -/

namespace Sys2Proof.Machine

/-! ## The response of the data access (R101, R102) -/

theorem InFlight.row_of_brkData {e : InFlight} {n : ChanId} (o : e.orphan = false) (h : e.owner = .brk n .data) :
    e.row = .breakData := by
  unfold InFlight.row
  rw [if_neg (by rw [o]; decide), h]

theorem State.exec_breakDataResponse {s : State} {n : ChanId} {rest : List InFlight} (r : MemResponse)
    (h : s.Awaits (.brk n .data) rest) : exec (.breakDataResponse r) s = .next ((s.answered rest).dataResponse n r) := by
  obtain ⟨e, inflight, owner, orphan⟩ := h
  refine congrArg Host.Outcome.next ?_
  rw [State.respond_of_row _ inflight (InFlight.row_of_brkData orphan owner), owner]
  rfl

section
variable {s : State} {n : ChanId} {req : DeviceRequest} {g : BreakProgress} {v : ValidLine}

theorem State.dataResponse_okay (port : (s.chan n).port = .granted req g) (d : Word) :
    s.dataResponse n (.okay d) = (s.setChan n
      { s.chan n with port := .granted req { g with result := .moved (movedWord req d) } }).finishBreak n := by
  unfold State.dataResponse
  simp only [port]
  rw [State.setResult, State.modProgress_of_granted port]

theorem State.dataResponse_error (port : (s.chan n).port = .granted req g) :
    s.dataResponse n .error = (s.breakFails n .memoryData g.dataAddr).finishBreak n := by
  unfold State.dataResponse
  simp only [port]

/-- A response of the data access acts on channel n and on the M-port (R101, R102). -/
theorem State.answered_dataResponse_onlyChannel (s : State) (n : ChanId) (rest : List InFlight) (r : MemResponse) :
    s.OnlyChannel n ((s.answered rest).dataResponse n r) :=
  ((s.answered rest).dataResponse_turn n r).1.onlyChannel

/-- The end of a group whose word has moved (R101). -/
theorem State.dataResponse_okay_ends {rest : List InFlight} (port : (s.chan n).port = .granted req g)
    (line : (s.chan n).line = .valid v) (last : ¬ s.BreakGoesOn n rest) (d : Word) :
    (s.answered rest).dataResponse n (.okay d) =
      ((s.answered rest).groupAnswered n
        { s.chan n with port := .granted req { g with result := .moved (movedWord req d) } }
        (.complete (movedWord req d) (v.breakEnd.countZero && v.breakEnd.chainZero)
          (v.breakEnd.countZero && !v.breakEnd.chainZero))).afterBreak n v.breakEnd :=
  (State.dataResponse_okay (s := s.answered rest) port d).trans
    (State.finishBreak_setChan (s := s.answered rest) rfl line ((s.breakOver_answered rest n).2 last) rfl)

/-- The end of a group whose data access failed (R102). -/
theorem State.dataResponse_error_ends {rest : List InFlight} (port : (s.chan n).port = .granted req g)
    (line : (s.chan n).line = .valid v) (stepped : g.stepped = true) (state : (s.chan n).ctl.state ≠ .faulted)
    (last : ¬ ∃ e ∈ rest, e.owner.isBreak n = true ∧ e.orphan = false) :
    (s.answered rest).dataResponse n .error =
      (((s.answered rest).breakFreed n).groupAnswered n
        ((s.chan n).breakFailed req g v .memoryData g.dataAddr) (.failed .memoryData)).afterBreak n (v.undo g).breakEnd :=
  (State.dataResponse_error (s := s.answered rest) port).trans
    (State.breakFails_ends (s := s.answered rest) port line stepped state last _ _)

/-- While other accesses of the break are outstanding, the failed data access leaves its fault pending (R102). -/
theorem State.dataResponse_error_goes {rest : List InFlight} (port : (s.chan n).port = .granted req g)
    (line : (s.chan n).line = .valid v) (stepped : g.stepped = true) (state : (s.chan n).ctl.state ≠ .faulted)
    (goes : ∃ e ∈ rest, e.owner.isBreak n = true ∧ e.orphan = false) :
    (s.answered rest).dataResponse n .error =
      ((s.answered rest).breakFreed n).setChan n ((s.chan n).breakFailed req g v .memoryData g.dataAddr) :=
  (State.dataResponse_error (s := s.answered rest) port).trans (by
    rw [State.breakFails_of_stepped (s := s.answered rest) port line stepped state]
    exact State.finishBreak_of_going fun ended => ((s.answered rest).breakFreed_over_iff n).1
      ((State.breakOver_congr rfl n).symm.trans ended) goes)

end

/-- What follows the answer of a break whose word has moved, in the words of the statement (R74, R75, R78, R82, R106). -/
theorem State.afterBreak_moved {s u : State} {n : ChanId} {v : ValidLine} (line : (s.chan n).line = .valid v)
    (chan : u.chan n = { s.chan n with port := .idle }) (mgmt : u.mgmt = s.mgmt) (events : u.events = s.events) :
    let t := u.afterBreak n v.breakEnd
    (∀ f, s.resetWaits n = false → (s.chan n).ctl.stalled = none → (s.chan n).ctl.pendingFault = some f →
      commandOf v.words.control = 0#3 →
      (t.chan n).ctl.state = .faulted ∧ (t.chan n).ctl.lastFault = some f.code ∧
      s.EventCreated t n (s.faultEvent n f.code f.address)) ∧
    (s.resetWaits n = true → (t.chan n).ctl = { (s.chan n).ctl with pendingFault := none }) ∧
    (s.resetWaits n = false → (s.chan n).ctl.stalled.isSome = true →
      (t.chan n).ctl.state = (s.chan n).ctl.state ∧
      (t.chan n).ctl.heldCompletion = some (.breakGroup v.breakEnd)) ∧
    (s.Unhindered n → (s.chan n).ctl.abortRecorded = false → commandOf v.words.control = 0#3 →
      v.breakEnd.countZero = false →
      ((s.chan n).ctl.state = .moving → (t.chan n).ctl.state = .ready) ∧
      ((s.chan n).ctl.state = .draining → (t.chan n).ctl.state = .halted)) := by
  have waits : u.resetWaits n = s.resetWaits n := by rw [State.resetWaits, State.resetWaits, mgmt]
  have ctl : (u.chan n).ctl = (s.chan n).ctl := by rw [chan]
  have line' : (u.chan n).line = .valid v := by rw [chan, line]
  have port : (u.chan n).port = .idle := by rw [chan]
  refine ⟨fun f free unstalled pends command => ?_, fun reset => ?_, fun free stalled => ?_,
    fun free abort command count => ?_⟩
  · exact State.afterBreak_faults line' command (by rw [waits, free]) (by rw [ctl, unstalled]) (by rw [ctl, pends]) events
      (by rw [ctl]) (by rw [chan]; rfl) (by rw [ctl]) _
  · rw [State.afterBreak_of_reset (by rw [waits, reset]), State.chan_modCtl_self, ctl]
  · rw [State.afterBreak_of_stalled (by rw [waits, free]) (by rw [ctl]; exact Option.isSome_iff_ne_none.1 stalled),
      State.chan_modCtl_self, ctl]
    exact ⟨rfl, rfl⟩
  · obtain ⟨unstalled, pends, reset⟩ := free
    rw [← ctl]
    exact State.afterBreak_goes line' command port
      ⟨by rw [ctl, unstalled], by rw [ctl, pends], by rw [waits, reset]⟩ (by rw [ctl, abort]) count

/-- What follows a failed break whose channel a fault pends for (R78). -/
theorem State.afterBreak_failed {s u : State} {n : ChanId} {v : ValidLine} {req : DeviceRequest} {g : BreakProgress}
    {code : FaultCode} {a : Addr} (line : (s.chan n).line = .valid v)
    (chan : u.chan n = { (s.chan n).breakFailed req g v code a with port := .idle })
    (mgmt : u.mgmt = s.mgmt) (events : u.events = s.events) (waits : s.resetWaits n = false)
    (unstalled : (s.chan n).ctl.stalled = none) (command : commandOf v.words.control = 0#3) :
    let t := u.afterBreak n (v.undo g).breakEnd
    let f := (s.chan n).ctl.pendingFault.getD (.of code a)
    (t.chan n).ctl.state = .faulted ∧ (t.chan n).ctl.lastFault = some f.code ∧
      s.EventCreated t n (s.faultEvent n f.code f.address) := by
  have waits' : u.resetWaits n = false := by
    rw [← waits, State.resetWaits, State.resetWaits, mgmt]
  obtain ⟨control, cookie⟩ := v.undo_keeps g
  have ctl : (u.chan n).ctl = ((s.chan n).breakFailed req g v code a).ctl := by rw [chan]
  have line' : (u.chan n).line = .valid (v.undo g) := by rw [chan]; rfl
  have stalled : (u.chan n).ctl.stalled = (s.chan n).ctl.stalled := by rw [ctl]; rfl
  exact State.afterBreak_faults line' (by rw [control, command]) waits' (by rw [stalled, unstalled]) (by rw [ctl]; rfl)
    events stalled (by simp only [Channel.cookie, line', line, cookie]) (by rw [ctl]; rfl) _

/-- A break that failed while nothing hindered its channel: the group's answer, the words that came back, and the entry to
FAULTED (R78, R101, R102). -/
theorem State.afterBreak_breakFailed {u : State} {n : ChanId} {v : ValidLine} {c : Channel} {req : DeviceRequest}
    {g : BreakProgress} {code : FaultCode} {a : Addr}
    (chan : u.chan n = { c.breakFailed req g v code a with port := .idle }) (waits : u.resetWaits n = false)
    (unstalled : c.ctl.stalled = none) (pends : c.ctl.pendingFault = none) (command : commandOf v.words.control = 0#3) :
    (u.afterBreak n (v.undo g).breakEnd).BreakFailed n g v code := by
  have ctl : (u.chan n).ctl = (c.breakFailed req g v code a).ctl := by rw [chan]
  have line : (u.chan n).line = .valid (v.undo g) := by rw [chan]; rfl
  have fault : (u.chan n).ctl.pendingFault = some (.of code a) := by
    rw [ctl]
    exact congrArg some (by rw [pends]; rfl)
  rw [State.afterBreak_of_fault line (by rw [(v.undo_keeps g).1, command]) waits (by rw [ctl]; exact unstalled) fault]
  exact State.enterFaulted_breakFailed (by rw [chan]) line _

/-- Settles O29: the four ends of a data access, by what its response says and by what of the group is left. -/
theorem breakDataResponseEndsTheGroup : Obligations.BreakDataResponseEndsTheGroup := by
  intro n rest req g v s awaits port line
  dsimp only
  have exec := fun r => State.exec_breakDataResponse r awaits
  have only := s.answered_dataResponse_onlyChannel n rest
  refine ⟨fun d goes => ?_, fun d last => ?_, fun last free state command stepped => ?_, fun last state stepped => ?_,
    fun goes state stepped => ?_⟩
  · rw [exec, State.dataResponse_okay (s := s.answered rest) port, State.finishBreak_of_going]
    · rfl
    · exact fun ended => (s.breakOver_answered rest n).1 ((State.breakOver_congr rfl n).symm.trans ended) goes
  · have ends := State.dataResponse_okay_ends port line last d
    refine ⟨_, exec _, ?_⟩
    have only := only (.okay d)
    rw [ends] at only ⊢
    have idle := State.groupAnswered_chan (s.answered rest) n
      { s.chan n with port := .granted req { g with result := .moved (movedWord req d) } }
      (.complete (movedWord req d) (v.breakEnd.countZero && v.breakEnd.chainZero)
          (v.breakEnd.countZero && !v.breakEnd.chainZero))
    obtain ⟨closed, out, mport⟩ := State.afterBreak_closed (by rw [idle]) v.breakEnd
    exact ⟨out, closed, mport, only, State.afterBreak_groupEnds _ n _, State.afterBreak_moved line idle rfl rfl⟩
  · have ends := State.dataResponse_error_ends port line stepped state last
    refine ⟨_, exec _, ?_⟩
    have only := only .error
    rw [ends] at only ⊢
    obtain ⟨unstalled, pends, waits⟩ := free
    have idle := State.groupAnswered_chan ((s.answered rest).breakFreed n) n
      ((s.chan n).breakFailed req g v .memoryData g.dataAddr) (.failed .memoryData)
    obtain ⟨-, out, mport⟩ := State.afterBreak_closed (by rw [idle]) (v.undo g).breakEnd
    obtain ⟨-, -, event⟩ := State.afterBreak_failed line idle rfl rfl waits unstalled command
    rw [pends] at event
    exact ⟨out, State.afterBreak_breakFailed idle waits unstalled pends command, mport, event, only⟩
  · have ends := State.dataResponse_error_ends port line stepped state last
    refine ⟨_, exec _, ?_⟩
    rw [ends]
    exact ⟨State.afterBreak_groupEnds _ n _, fun waits unstalled command =>
      State.afterBreak_failed line (State.groupAnswered_chan _ n _ _) rfl rfl waits unstalled command⟩
  · rw [exec, State.dataResponse_error_goes port line stepped state goes]
    rfl

end Sys2Proof.Machine
end

section
/-! PROOFS. The responses of a group's STRICT record writes (R99, R101). -/

namespace Sys2Proof.Machine

/-- The response that arrives is that of the STRICT write of word i in channel n's group (R99). -/
def State.AwaitsStrict (s : State) (n : ChanId) (rest : List InFlight) (i : RecWord) : Prop :=
  i = .count ∧ s.Awaits (.brk n .countWrite) rest ∨ i = .address ∧ s.Awaits (.brk n .addressWrite) rest

theorem InFlight.row_of_countWrite {e : InFlight} {n : ChanId} (o : e.orphan = false)
    (h : e.owner = .brk n .countWrite) : e.row = .strictWrite := by
  unfold InFlight.row
  rw [if_neg (by rw [o]; decide), h]

theorem InFlight.row_of_addressWrite {e : InFlight} {n : ChanId} (o : e.orphan = false)
    (h : e.owner = .brk n .addressWrite) : e.row = .strictWrite := by
  unfold InFlight.row
  rw [if_neg (by rw [o]; decide), h]

theorem State.exec_strictWriteResponse {s : State} {n : ChanId} {rest : List InFlight} {i : RecWord} (r : MemResponse)
    (h : s.AwaitsStrict n rest i) :
    exec (.strictWriteResponse r) s = .next ((s.answered rest).strictResponse n i r) := by
  refine congrArg Host.Outcome.next ?_
  rcases h with ⟨rfl, e, inflight, owner, orphan⟩ | ⟨rfl, e, inflight, owner, orphan⟩
  · rw [State.respond_of_row _ inflight (InFlight.row_of_countWrite orphan owner), owner]
    rfl
  · rw [State.respond_of_row _ inflight (InFlight.row_of_addressWrite orphan owner), owner]
    rfl

/-- Channel c after the STRICT write of word i has failed: the word dirty, the fault pending (R78, R99). -/
def Channel.strictFailed (c : Channel) (v : ValidLine) (i : RecWord) (a : Addr) : Channel :=
  { c with
    line := .valid (v.mark i)
    ctl := { c.ctl with pendingFault := some (c.ctl.pendingFault.getD (.of .memoryDescriptor a)) } }

section
variable {s : State} {n : ChanId} {req : DeviceRequest} {g : BreakProgress} {v : ValidLine} {i : RecWord}

theorem State.strictResponse_okay (d : Word) : s.strictResponse n i (.okay d) = s.finishBreak n := by
  unfold State.strictResponse
  rw [if_neg nofun]

theorem State.strictResponse_error (port : (s.chan n).port = .granted req g) (line : (s.chan n).line = .valid v)
    (state : (s.chan n).ctl.state ≠ .faulted) :
    s.strictResponse n i .error =
      (s.setChan n ((s.chan n).strictFailed v i (s.recordAddr n i))).finishBreak n := by
  have marked : (s.modChan n fun c => c.modLine fun v => v.mark i) =
      s.setChan n { s.chan n with line := .valid (v.mark i) } := by
    unfold State.modChan
    exact congrArg (s.setChan n) (Channel.modLine_of_valid line _)
  have chan := s.chan_setChan_self n { s.chan n with line := .valid (v.mark i) }
  unfold State.strictResponse
  rw [if_pos rfl, marked, State.faultArise_pends (by rw [chan]; exact state)
    (.inl (by rw [chan]; exact Channel.opInFlight_of_granted port))]
  unfold State.modCtl State.modChan
  rw [chan, State.setChan_setChan]
  rfl

variable {rest : List InFlight} {b : Answer}

theorem State.strictResponse_okay_ends (port : (s.chan n).port = .granted req g) (line : (s.chan n).line = .valid v)
    (last : ¬ s.BreakGoesOn n rest) (answer : finalAnswer g.result v.breakEnd = some b) (d : Word) :
    (s.answered rest).strictResponse n i (.okay d) =
      ((s.answered rest).groupAnswered n (s.chan n) b).afterBreak n v.breakEnd := by
  have same : (s.answered rest).setChan n (s.chan n) = s.answered rest := (s.answered rest).setChan_self n
  rw [State.strictResponse_okay, ← State.finishBreak_setChan (s := s.answered rest) port line
    ((s.breakOver_answered rest n).2 last) answer, same]

/-- The mark of the failed word leaves what the completion finds (R101). -/
theorem State.strictResponse_error_ends (port : (s.chan n).port = .granted req g) (line : (s.chan n).line = .valid v)
    (last : ¬ s.BreakGoesOn n rest) (answer : finalAnswer g.result v.breakEnd = some b)
    (state : (s.chan n).ctl.state ≠ .faulted) :
    (s.answered rest).strictResponse n i .error =
      ((s.answered rest).groupAnswered n ((s.chan n).strictFailed v i (s.recordAddr n i)) b).afterBreak n v.breakEnd :=
  (State.strictResponse_error (s := s.answered rest) port line state).trans
    (State.finishBreak_setChan (s := s.answered rest) (v := v.mark i) port rfl ((s.breakOver_answered rest n).2 last) answer)

end

/-- The final answer of a result that is known: the word's, or the fault's (R101, R102). -/
theorem finalAnswer_of_known {r : BreakResult} {e : BreakEnd} {n : ChanId} {a : PortMessage}
    (known : (∃ x, r = .moved x ∧ a = .answer n (.complete x (e.countZero && e.chainZero) (e.countZero && !e.chainZero))) ∨
      ∃ code, r = .failed code ∧ a = .answer n (.failed code)) :
    ∃ b, finalAnswer r e = some b ∧ a = .answer n b := by
  rcases known with ⟨x, rfl, rfl⟩ | ⟨code, rfl, rfl⟩
  · exact ⟨_, rfl, rfl⟩
  · exact ⟨_, rfl, rfl⟩

/-- The end of a group after the STRICT write of word i has failed: its fault is taken (R78, R99). -/
theorem State.afterBreak_strictFailed {s u : State} {n : ChanId} {v : ValidLine} {i : RecWord} {a : Addr}
    (line : (s.chan n).line = .valid v) (chan : u.chan n = { (s.chan n).strictFailed v i a with port := .idle })
    (mgmt : u.mgmt = s.mgmt) (events : u.events = s.events) (waits : s.resetWaits n = false)
    (unstalled : (s.chan n).ctl.stalled = none) (command : commandOf v.words.control = 0#3) (e : BreakEnd) :
    let t := u.afterBreak n e
    let f := (s.chan n).ctl.pendingFault.getD (.of .memoryDescriptor a)
    (t.chan n).ctl.state = .faulted ∧ (t.chan n).ctl.lastFault = some f.code ∧
      s.EventCreated t n (s.faultEvent n f.code f.address) := by
  have waits' : u.resetWaits n = false := by
    rw [← waits, State.resetWaits, State.resetWaits, mgmt]
  have ctl : (u.chan n).ctl = ((s.chan n).strictFailed v i a).ctl := by rw [chan]
  have line' : (u.chan n).line = .valid (v.mark i) := by rw [chan]; rfl
  have slot : (u.chan n).ctl.stalled = (s.chan n).ctl.stalled := by rw [ctl]; rfl
  exact State.afterBreak_faults line' command waits' (by rw [slot, unstalled]) (by rw [ctl]; rfl) events slot
    (by simp only [Channel.cookie, line', line]; rfl) (by rw [ctl]; rfl) e

/-- The entry to FAULTED leaves the values of the line, and the mark of the failed word (R99). -/
theorem State.enterFaulted_marked {u : State} {n : ChanId} {v : ValidLine} {i : RecWord}
    (line : (u.chan n).line = .valid (v.mark i)) (which : i = .count ∨ i = .address) (f : PendingFault) :
    ∃ v', ((u.enterFaulted n f).chan n).line = .valid v' ∧ v'.words.count = v.words.count ∧
      v'.words.address = v.words.address ∧ v'.words.done = v.words.done ∧ v'.dirty.get i = true := by
  obtain ⟨v', line', words, dirty, -⟩ := State.enterFaulted_line line f
  refine ⟨v', line', ?_, ?_, ?_, ?_⟩
  · rw [words]; rfl
  · rw [words]; rfl
  · rw [words]; rfl
  · rw [dirty]
    rcases which with rfl | rfl <;> rfl

/-- Settles O31: the response by what it says and by what of the group is left; the end is that of the group. -/
theorem strictWriteResponseMarksAFailedWord : Obligations.StrictWriteResponseMarksAFailedWord := by
  intro n rest i req g v s awaits port line
  dsimp only
  have exec := fun r => State.exec_strictWriteResponse r (show s.AwaitsStrict n rest i from awaits)
  have only := fun r => ((s.answered rest).strictResponse_step n i r).onlyChannel
  have moves : ∀ {x}, g.result = .moved x → finalAnswer g.result v.breakEnd =
      some (.complete x (v.breakEnd.countZero && v.breakEnd.chainZero)
        (v.breakEnd.countZero && !v.breakEnd.chainZero)) := fun moved => by rw [moved]; rfl
  refine ⟨fun d goes => ?_, fun goes state => ?_, fun d x last moved => ?_, fun x last moved free state command => ?_,
    fun a last known => ?_⟩
  · rw [exec, State.strictResponse_okay,
      State.finishBreak_of_going fun ended => (s.breakOver_answered rest n).1 ended goes]
    rfl
  · rw [exec, State.strictResponse_error (s := s.answered rest) port line state, State.finishBreak_of_going]
    · rfl
    · exact fun ended => (s.breakOver_answered rest n).1 ((State.breakOver_congr rfl n).symm.trans ended) goes
  · refine ⟨_, exec _, ?_⟩
    have only := only (.okay d)
    rw [State.strictResponse_okay_ends port line last (moves moved) d] at only ⊢
    obtain ⟨closed, out, mport⟩ := State.afterBreak_closed
      (congrArg Channel.port (State.groupAnswered_chan (s.answered rest) n (s.chan n) _)) v.breakEnd
    simp only [moved]
    exact ⟨out, closed, mport, only⟩
  · have only := only .error
    have ends := State.strictResponse_error_ends (i := i) port line last (moves moved) state
    rw [ends] at only
    obtain ⟨unstalled, pends, waits⟩ := free
    have idle := State.groupAnswered_chan (s.answered rest) n ((s.chan n).strictFailed v i (s.recordAddr n i))
      (.complete x (v.breakEnd.countZero && v.breakEnd.chainZero) (v.breakEnd.countZero && !v.breakEnd.chainZero))
    obtain ⟨closed, out, mport⟩ := State.afterBreak_closed (congrArg Channel.port idle) v.breakEnd
    obtain ⟨faulted, code, event⟩ := State.afterBreak_strictFailed line idle rfl rfl waits unstalled command v.breakEnd
    have taken := State.afterBreak_of_fault (congrArg Channel.line idle) command waits
      ((congrArg (·.ctl.stalled) idle).trans unstalled) (congrArg (·.ctl.pendingFault) idle) v.breakEnd
    obtain ⟨v', line', values⟩ := State.enterFaulted_marked (congrArg Channel.line idle)
      (awaits.imp And.left And.left) ((s.chan n).ctl.pendingFault.getD (.of .memoryDescriptor (s.recordAddr n i)))
    obtain ⟨count, address, done, dirty⟩ := values
    rw [pends] at code event
    simp only [moved]
    exact ⟨_, v', (exec _).trans (congrArg _ ends), out, closed, mport, taken ▸ line', count, address, done, dirty, faulted,
      code, event, only⟩
  · obtain ⟨b, answer, rfl⟩ : ∃ b, finalAnswer g.result v.breakEnd = some b ∧ a = .answer n b := by
      refine finalAnswer_of_known (known.imp_left fun ⟨x, moved, sent⟩ => ⟨x, moved, ?_⟩)
      rw [sent, moved]
      rfl
    refine ⟨fun d => ⟨_, exec _, ?_⟩, fun state => ⟨_, exec _, ?_⟩⟩
    · rw [State.strictResponse_okay_ends port line last answer d]
      have ⟨taken, _⟩ := State.afterBreak_moved line (State.groupAnswered_chan (s.answered rest) n (s.chan n) b) rfl rfl
      exact ⟨State.afterBreak_groupEnds _ n _, taken⟩
    · rw [State.strictResponse_error_ends port line last answer state]
      have idle := State.groupAnswered_chan (s.answered rest) n ((s.chan n).strictFailed v i (s.recordAddr n i)) b
      exact ⟨State.afterBreak_groupEnds _ n _, fun waits unstalled command =>
        State.afterBreak_strictFailed line idle rfl rfl waits unstalled command v.breakEnd⟩

end Sys2Proof.Machine
end

section
/-! PROOFS. The grant of a break that issues nothing: an empty count, a data address in the window, a cell that is gone
(R74, R93 to R95, R101, R140). -/

namespace Sys2Proof.Machine

theorem State.completeBreak_setChan {s : State} {n : ChanId} {c : Channel} {v : ValidLine} {r : BreakResult} {a : Answer}
    (line : c.line = .valid v) (answer : finalAnswer r v.breakEnd = some a) :
    (s.setChan n c).completeBreak n r = (s.groupAnswered n c a).afterBreak n v.breakEnd := by
  have breakEnd : ((s.setChan n c).chan n).breakEnd = v.breakEnd :=
    Channel.breakEnd_of_valid (by rw [State.chan_setChan_self, line])
  unfold State.completeBreak
  simp only [breakEnd, answer, State.closePort_setChan]
  rfl

/-- What the grant leaves of a channel before the checks (R57, R62, R93). -/
structure AtGrant (c c' : Channel) (req : DeviceRequest) (v v' : ValidLine) : Prop where
  line : c'.line = .valid v'
  port : c'.port = .granted req .fresh
  ctl : c'.ctl = { c.ctl with state := if c.ctl.state = .pending then .moving else c.ctl.state }
  walker : c'.walker = c.walker
  breakEnd : v'.breakEnd = v.breakEnd
  words : ∀ w, w ≠ .status → v'.words.get w = v.words.get w
  wbPhase : v'.wbPhase = v.wbPhase

theorem Channel.atGrant_spec {c : Channel} {v : ValidLine} (line : c.line = .valid v) (req : DeviceRequest)
    (interval : BitVec 12) : ∃ v', AtGrant c (c.atGrant req interval) req v v' := by
  obtain ⟨v', eq, status⟩ := Channel.atGrant_of_valid line req interval
  refine ⟨v', by rw [eq], by rw [eq], by rw [eq], by rw [eq], ?_, fun w hw => ?_, ?_⟩
  · rcases status with rfl | ⟨x, rfl⟩ <;> rfl
  · rcases status with rfl | ⟨x, rfl⟩
    · rfl
    · exact Record.get_set_status _ _ hw
  · rcases status with rfl | ⟨x, rfl⟩ <;> rfl

/-- Channel c, which a grant has left so, with fault f pending, or the one that pends already (R78). -/
def Channel.pends (c : Channel) (f : PendingFault) : Channel :=
  { c with ctl := { c.ctl with pendingFault := some (c.ctl.pendingFault.getD f) } }

/-- What a fault at the grant leaves of the channel as it was before the grant (R78, R93, R95). -/
theorem AtGrant.pends_spec {c c' : Channel} {req : DeviceRequest} {v v' : ValidLine} (h : AtGrant c c' req v v')
    (line : c.line = .valid v) (f : PendingFault) :
    (c'.pends f).line = .valid v' ∧ (c'.pends f).ctl.stalled = c.ctl.stalled ∧ (c'.pends f).cookie = c.cookie ∧
    (c'.pends f).ctl.startCount = c.ctl.startCount ∧
    (c.ctl.pendingFault = none → (c'.pends f).ctl.pendingFault = some f) := by
  refine ⟨h.line, by simp only [Channel.pends, h.ctl], ?_, by simp only [Channel.pends, h.ctl], fun none => ?_⟩
  · simp only [Channel.cookie, Channel.pends, h.line, line]
    exact h.words .cookie (by decide)
  · simp only [Channel.pends, h.ctl, none]
    rfl

section
variable {s : State} {n : ChanId} {req : DeviceRequest} {v : ValidLine} (accepted : (s.chan n).port = .accepted req)
  (line : (s.chan n).line = .valid v)

theorem State.modChan_answer (s : State) (n : ChanId) (f : Channel → Channel) (a : Answer) :
    (s.modChan n f).answer n a = (s.answer n a).setChan n (f (s.chan n)) := rfl

section
include accepted line

/-- A break that finds COUNT 0 completes at its grant (R74, R94). -/
theorem State.grantBreak_of_empty (count : countOf v.words.count = 0#24) :
    s.grantBreak n = ((s.answer n .granted).groupAnswered n ((s.chan n).atGrant req s.mgmt.quietInterval)
      (.complete none (v.breakEnd.countZero && v.breakEnd.chainZero)
        (v.breakEnd.countZero && !v.breakEnd.chainZero))).afterBreak n v.breakEnd := by
  obtain ⟨v₁, granted⟩ := Channel.atGrant_spec line req s.mgmt.quietInterval
  have chan : (((s.modChan n fun c => c.atGrant req s.mgmt.quietInterval).answer n .granted).chan n) =
      (s.chan n).atGrant req s.mgmt.quietInterval :=
    s.chan_modChan_self n fun c => c.atGrant req s.mgmt.quietInterval
  have empty : (((s.modChan n fun c => c.atGrant req s.mgmt.quietInterval).answer n .granted).chan n).count = 0#24 := by
    rw [chan, Channel.count, Channel.word_of_valid granted.line, granted.words .count (by decide)]
    exact count
  unfold State.grantBreak
  simp only [accepted]
  rw [if_pos empty, State.modChan_answer, ← granted.breakEnd]
  exact State.completeBreak_setChan granted.line rfl

end

/-- A check that fails at the grant answers with its code (R95). -/
theorem State.breakEndsAtGrant_atGrant (line : (s.chan n).line = .valid v)
    (state : (s.chan n).ctl.state = .pending ∨ (s.chan n).ctl.state = .draining) (code : FaultCode) (a : Addr) :
    ((s.modChan n fun c => c.atGrant req s.mgmt.quietInterval).answer n .granted).breakEndsAtGrant n code a =
      ((s.answer n .granted).groupAnswered n
        (((s.chan n).atGrant req s.mgmt.quietInterval).pends (.of code a)) (.failed code)).afterBreak n v.breakEnd := by
  obtain ⟨v₁, granted⟩ := Channel.atGrant_spec line req s.mgmt.quietInterval
  have chan := (s.answer n .granted).chan_setChan_self n ((s.chan n).atGrant req s.mgmt.quietInterval)
  have going : ((s.chan n).atGrant req s.mgmt.quietInterval).ctl.state ≠ .faulted := by
    rw [granted.ctl]
    rcases state with state | state <;> simp [state]
  rw [State.modChan_answer, State.breakEndsAtGrant, State.faultArise_pends (by rw [chan]; exact going)
    (.inl (by rw [chan]; exact Channel.opInFlight_of_granted granted.port)), ← granted.breakEnd]
  unfold State.modCtl State.modChan
  rw [chan, State.setChan_setChan]
  exact State.completeBreak_setChan granted.line rfl

end

/-! ## The grant, and what its command leaves -/

/-- A grant at which a break of channel n, its line being v, ends at once with answer a, in the words of the statement: the
device's two answers, the counter, and channel n alone (R93 to R95, R140); `outcome` says what it makes of the channel. -/
def State.EndsAtGrant (s : State) (n : ChanId) (v : ValidLine) (a : Answer) (outcome : State → ValidLine → Prop) : Prop :=
  ∃ t x, exec .grantDecision s = .next t ∧
    t.out = s.out ++ [.answer n .granted, .answer n a] ∧ t.mport = s.mport ∧
    t.arb.breakRun = min (s.arb.breakRun + 1) 15 ∧ (t.chan n).port = .idle ∧ (t.chan n).line = .valid x ∧
    x.words.count = v.words.count ∧ x.words.address = v.words.address ∧ x.words.done = v.words.done ∧
    (∀ m, m ≠ n → t.chan m = s.chan m) ∧ t.cells = s.cells ∧ t.pass = s.pass ∧ outcome t x

/-- A grant that has closed the port at once changes channel n alone. -/
theorem State.exec_grant_ends {s : State} {n : ChanId} {v v' : ValidLine} {c : Channel} {a : Answer} {e : BreakEnd}
    {outcome : State → ValidLine → Prop} (h : s.Grants (.brk n)) (line : c.line = .valid v')
    (words : ∀ w, w ≠ .status → v'.words.get w = v.words.get w)
    (performed : (s.arbitrated (.brk n)).grantBreak n =
      (((s.arbitrated (.brk n)).answer n .granted).groupAnswered n c a).afterBreak n e)
    (out : ∀ x, let t := ((((s.arbitrated (.brk n)).answer n .granted).groupAnswered n c a).afterBreak n e).disableProgress
      (t.chan n).line = .valid x → outcome t x) :
    s.EndsAtGrant n v a outcome := by
  let u := ((s.arbitrated (.brk n)).answer n .granted).groupAnswered n c a
  have chan : u.chan n = { c with port := .idle } := State.groupAnswered_chan _ n c a
  have step : ChannelStep n u (u.afterBreak n e) := u.afterBreak_step n e
  have frame := (u.afterBreak n e).disableProgress_frame
  obtain ⟨port, sent, mport⟩ := State.afterBreak_closed (congrArg Channel.port chan) e
  obtain ⟨x, line', count, address, done⟩ := (u.afterBreak_idleStep n e).valid v' ((congrArg Channel.line chan).trans line)
  have line' : ((u.afterBreak n e).disableProgress.chan n).line = .valid x := by rw [State.disableProgress_chan, line']
  refine ⟨_, x, (State.exec_grant h).trans (congrArg (fun t : State => Host.Outcome.next t.disableProgress) performed),
    ?_, frame.mport.trans mport, ?_, by rw [State.disableProgress_chan, port], line',
    count.trans (words .count (by decide)), address.trans (words .address (by decide)),
    done.trans (words .done (by decide)), fun m hm => ?_, frame.cells.trans step.cells, frame.pass.trans step.pass,
    out x line'⟩
  · rw [frame.out, sent]
    exact List.append_assoc s.out [_] [_]
  · rw [frame.arb, step.breakRun]
    exact breakRunAfter_brk n _
  · rw [State.disableProgress_chan, step.others m hm]
    exact State.chan_setChan_other _ _ hm

theorem State.WritebackTriggered.of_disableProgress {s t : State} {n : ChanId} (h : s.WritebackTriggered t n) :
    s.WritebackTriggered t.disableProgress n := by
  unfold State.WritebackTriggered at h ⊢
  rw [State.disableProgress_chan, t.disableProgress_frame.arb]
  exact h

theorem State.WritebackServes.of_disableProgress {t : State} {n : ChanId} {q : WbConsequence}
    (h : t.WritebackServes n q) : t.disableProgress.WritebackServes n q := by
  unfold State.WritebackServes at h ⊢
  rw [State.disableProgress_chan]
  exact h

/-- The end of the last extent, where no SEGMENT_DONE is asked for: the chain ends (R63, R74, R75, R80, R116). -/
theorem State.afterBreak_terminal {u : State} {n : ChanId} {v : ValidLine} (line : (u.chan n).line = .valid v)
    (port : (u.chan n).port = .idle) (free : u.Unhindered n) (abort : (u.chan n).ctl.abortRecorded = false)
    (count : v.breakEnd.countZero = true) (chain : v.breakEnd.chainZero = true)
    (asked : v.breakEnd.evSegment = false) (flag : (u.chan n).walker.flags.evEnd = false) :
    let t := u.afterBreak n v.breakEnd
    (t.chan n).segments16 = segmentsOf v.words.segments + 1#16 ∧ (t.chan n).ctl.state = .ending ∧
      (t.chan n).ctl.ending = some .terminal ∧ u.WritebackTriggered t n ∧ t.WritebackServes n .finalEvent := by
  obtain ⟨unstalled, pends, waits⟩ := free
  obtain ⟨-, -, extent, -⟩ := breakCompletionTable n v.breakEnd v u line unstalled
  obtain ⟨segments, ends, -⟩ := extent ⟨pends, abort⟩ count
  have unasked : ¬ (v.breakEnd.segmentDone = false ∧
      ((u.chan n).walker.flags.evEnd = true ∨ v.breakEnd.evSegment = true)) := by
    rw [flag, asked]
    rintro ⟨-, no | no⟩ <;> cases no
  obtain ⟨state, ending, ⟨triggered, serves⟩, -⟩ := ends (.inl unasked) chain
  have port' := ((u.breakTransition_idleStep n v.breakEnd).idle port).1
  have settled : (u.breakTransition n v.breakEnd).settle n = u.breakTransition n v.breakEnd :=
    State.settle_of_nothing (.inr (by rw [Channel.canTake, state]; rfl)) (Channel.noHeld_of_idle port')
  rw [State.afterBreak_of_free waits unstalled, settled]
  exact ⟨segments, state, ending, triggered, serves⟩

/-- A check that fails at the grant of an unhindered channel faults it (R78, R95). -/
theorem State.exec_grant_faults {s : State} {n : ChanId} {req : DeviceRequest} {v : ValidLine} {code : FaultCode} {a : Addr}
    (h : s.Grants (.brk n)) (line : (s.chan n).line = .valid v)
    (performed : (s.arbitrated (.brk n)).grantBreak n =
      (((s.arbitrated (.brk n)).answer n .granted).groupAnswered n
        (((s.chan n).atGrant req s.mgmt.quietInterval).pends (.of code a)) (.failed code)).afterBreak n v.breakEnd) :
    s.EndsAtGrant n v (.failed code) fun t _ => s.Unhindered n ∧ commandOf v.words.control = 0#3 →
      (t.chan n).ctl.state = .faulted ∧ (t.chan n).ctl.lastFault = some code ∧
      s.EventCreated t n
        { kind := .fault, source := BitVec.ofNat 4 n.val, word1 := v.words.cookie,
          detailA := faultDetail code (s.chan n).ctl.startCount, detailB := a.setWidth 32 } := by
  obtain ⟨v', granted⟩ := Channel.atGrant_spec line req s.mgmt.quietInterval
  obtain ⟨line₁, slot, cookie, count, fault⟩ := granted.pends_spec line (.of code a)
  refine State.exec_grant_ends h line₁ granted.words performed fun x line' rests => ?_
  obtain ⟨⟨unstalled, pends, waits⟩, command⟩ := rests
  have chan := State.groupAnswered_chan ((s.arbitrated (.brk n)).answer n .granted) n
    (((s.chan n).atGrant req s.mgmt.quietInterval).pends (.of code a)) (.failed code)
  have command' : commandOf v'.words.control = 0#3 :=
    (congrArg commandOf (granted.words .control (by decide))).trans command
  have named : (s.chan n).cookie = v.words.cookie := by simp only [Channel.cookie, line]
  obtain ⟨faulted, last, event⟩ := State.afterBreak_faults (s := s) ((congrArg Channel.line chan).trans line₁)
    command' waits ((congrArg (·.ctl.stalled) chan).trans (slot.trans unstalled))
    ((congrArg (·.ctl.pendingFault) chan).trans (fault pends)) rfl ((congrArg (·.ctl.stalled) chan).trans slot)
    ((congrArg Channel.cookie chan).trans cookie) ((congrArg (·.ctl.startCount) chan).trans count) v.breakEnd
  unfold State.faultEvent at event
  rw [named] at event
  rw [State.disableProgress_chan]
  exact ⟨faulted, last, event.of_queue (State.disableProgress_queue _) (by rw [State.disableProgress_chan])⟩

theorem State.grantCell_of_gone {s : State} {k : CellId} (gone : (s.cell k).isLive = false) (n : ChanId)
    (req : DeviceRequest) : s.grantCell n req k = s.breakEndsAtGrant n .cellGone 0#26 := by
  unfold State.grantCell
  unfold Cell.isLive at gone
  split
  · rename_i f live
    rw [live] at gone
    cases gone
  · rfl

/-- Settles O27: the three checks that end a break at its grant, in their order. -/
theorem breakGrantThatIssuesNothing : Obligations.BreakGrantThatIssuesNothing := by
  intro n req v s h accepted line state c a k rests ends faulted
  refine ⟨fun count => ?_, fun count mode window => ?_, fun count mode gone => ?_⟩
  · obtain ⟨v', granted⟩ := Channel.atGrant_spec line req s.mgmt.quietInterval
    have performed := State.grantBreak_of_empty (s := s.arbitrated (.brk n)) accepted line count
    have zero : v.breakEnd.countZero = true := beq_iff_eq.2 count
    have found := granted.breakEnd
    rw [zero, Bool.true_and, Bool.true_and] at performed
    refine State.exec_grant_ends h granted.line granted.words performed fun x line' rests chain asked flag abort => ?_
    obtain ⟨⟨unstalled, pends, waits⟩, -⟩ := rests
    have chan := State.groupAnswered_chan ((s.arbitrated (.brk n)).answer n .granted) n
      ((s.chan n).atGrant req s.mgmt.quietInterval) (.complete none v.breakEnd.chainZero (!v.breakEnd.chainZero))
    obtain ⟨segments, ending, kind, triggered, serves⟩ := State.afterBreak_terminal
      ((congrArg Channel.line chan).trans granted.line) (congrArg Channel.port chan)
      ⟨by rw [chan, granted.ctl]; exact unstalled, by rw [chan, granted.ctl]; exact pends, waits⟩
      (by rw [chan, granted.ctl]; exact abort) (by rw [found, zero]) (by rw [found]; exact beq_iff_eq.2 chain)
      (by rw [found]; exact asked) (by rw [chan, granted.walker]; exact flag)
    rw [found] at segments ending kind triggered serves
    rw [State.disableProgress_chan] at line' ⊢
    have stands : v'.words.segments = v.words.segments := granted.words .segments (by decide)
    rw [stands] at segments
    exact ⟨(congrArg segmentsOf (Channel.word_of_valid line' .segments)).symm.trans segments, ending, kind,
      (triggered.of_phase line ((congrArg Channel.line chan).trans granted.line) granted.wbPhase).of_disableProgress,
      serves.of_disableProgress⟩
  · have performed := (State.grantBreak_by_mode (s := s.arbitrated (.brk n)) accepted line count).1 mode
    exact State.exec_grant_faults h line (performed.trans ((if_pos window).trans
      (State.breakEndsAtGrant_atGrant (s := s.arbitrated (.brk n)) line state .windowTarget a)))
  · have performed := (State.grantBreak_by_mode (s := s.arbitrated (.brk n)) accepted line count).2 mode
    have fails := State.grantCell_of_gone (s := ((s.arbitrated (.brk n)).modChan n fun c =>
      c.atGrant req s.mgmt.quietInterval).answer n .granted) gone n req
    exact State.exec_grant_faults h line (performed.trans (fails.trans
      (State.breakEndsAtGrant_atGrant (s := s.arbitrated (.brk n)) line state .cellGone 0#26)))

end Sys2Proof.Machine
end

section
/-! PROOFS. The response of a CELL break's read (R100, R102, R127 to R129). -/

namespace Sys2Proof.Machine

/-! ## A fetch does not look at the M-port -/

/-- The part with another M-port. -/
def State.withMport (s : State) (m : MPort) : State := { s with mport := m }

theorem State.raisePost_withMport (s : State) (m : MPort) : (s.withMport m).raisePost = s.raisePost.withMport m := by
  unfold State.raisePost
  by_cases wanted : s.postWanted = true
  · rw [if_pos wanted, if_pos (show (s.withMport m).postWanted = true from wanted)]
    rfl
  · rw [if_neg wanted, if_neg (show ¬ (s.withMport m).postWanted = true from wanted)]

theorem State.enterOccurrence_withMport (s : State) (m : MPort) (k : CellId) (o : Occurrence) :
    (s.withMport m).enterOccurrence k o = (s.enterOccurrence k o).withMport m :=
  State.raisePost_withMport ((s.modCell k fun c => { c with queuedMark := true }).modEvents
    fun e => { e with queue := e.queue ++ [cellEvent k (s.cell k) o] }) m

theorem State.cellOccurs_withMport (s : State) (m : MPort) (k : CellId) (kind : OccKind) (d : Word) :
    (s.withMport m).cellOccurs k kind d = (s.cellOccurs k kind d).withMport m := by
  by_cases cells : s.NoCells
  · rw [State.cellOccurs_of_noCells cells, State.cellOccurs_of_noCells (s := s.withMport m) cells]
  cases opened : s.events.intake with
  | closed => rw [State.cellOccurs_of_closed opened, State.cellOccurs_of_closed (s := s.withMport m) opened]
  | opened =>
    cases held : (s.cell k).held with
    | some o =>
      rw [State.cellOccurs_of_held cells opened held, State.cellOccurs_of_held (s := s.withMport m) cells opened held]
      rfl
    | none =>
      by_cases enters : s.OccurrenceEnters k
      · rw [State.cellOccurs_of_enters cells opened held enters,
          State.cellOccurs_of_enters (s := s.withMport m) cells opened held enters, State.enterOccurrence_withMport]
      · rw [State.cellOccurs_of_waits cells opened held enters,
          State.cellOccurs_of_waits (s := s.withMport m) cells opened held enters]
        rfl

theorem State.markAtLimit_withMport (s : State) (m : MPort) (k : CellId) (b : Bool) :
    (s.withMport m).markAtLimit k b = (s.markAtLimit k b).withMport m := by
  unfold State.markAtLimit
  by_cases cells : s.NoCells
  · rw [if_pos cells, if_pos (show (s.withMport m).NoCells from cells)]
  · rw [if_neg cells, if_neg (show ¬ (s.withMport m).NoCells from cells)]
    rfl

theorem State.fetched_withMport (s : State) (m : MPort) (k : CellId) (f : CellFields) (v : Word) :
    (s.withMport m).fetched k f v = (s.fetched k f v).withMport m := by
  unfold State.fetched
  split
  · dsimp only
    split <;> simp only [State.markAtLimit_withMport, State.cellOccurs_withMport]
  · dsimp only
    split <;> simp only [State.markAtLimit_withMport, State.cellOccurs_withMport]
  · exact s.markAtLimit_withMport m k false

/-! ## The response -/

theorem InFlight.row_of_cellRead {e : InFlight} {n : ChanId} (o : e.orphan = false) (h : e.owner = .brk n .cellRead) :
    e.row = .breakCellRead := by
  unfold InFlight.row
  rw [if_neg (by rw [o]; decide), h]

/-- The response goes to the fetch that the lock waits for (R144). -/
theorem State.exec_breakCellReadResponse {s : State} {n : ChanId} {rest : List InFlight} {f : Fetch} {todo : List Access}
    {src : GroupSource} (r : MemResponse) (h : s.Awaits (.brk n .cellRead) rest)
    (lock : s.mport.lock = some { source := src, todo := todo, fetch := some f }) :
    exec (.breakCellReadResponse r) s = .next ((s.answered rest).cellReadResponse n f r) := by
  obtain ⟨e, inflight, owner, orphan⟩ := h
  have fetch : State.fetch? { s with mport := { s.mport with inflight := rest } } = some f := by
    unfold State.fetch?
    simp only [lock]
  refine congrArg Host.Outcome.next ?_
  rw [State.respond_of_row _ inflight (InFlight.row_of_cellRead orphan owner), owner, fetch]
  rfl

section
variable {s : State} {n : ChanId} {req : DeviceRequest} {g : BreakProgress} {f : Fetch}
  (port : (s.chan n).port = .granted req g)
include port

theorem State.cellReadResponse_okay (x : Word) : s.cellReadResponse n f (.okay x) =
    ((s.fetched f.cell f.fields x).issue (f.writeBack x)).checkCellValue n req x := by
  unfold State.cellReadResponse
  simp only [port]

theorem State.cellReadResponse_error : s.cellReadResponse n f .error =
    ((s.cellFault f.cell).breakFails n .cellFetch f.addr).finishBreak n := by
  unfold State.cellReadResponse
  simp only [port]

end

/-- The code of a value that is no data address (R100). -/
def cellValueCode (x : Word) : FaultCode := if 0x3FFFFFF < x.toNat then .addressRange else .windowTarget

theorem State.checkCellValue_of_bad {s : State} {n : ChanId} {x : Word}
    (bad : 0x3FFFFFF < x.toNat ∨ s.inWindow (addrOf x) = true) (req : DeviceRequest) : s.checkCellValue n req x =
      (s.breakFails n (cellValueCode x)
        (if 0x3FFFFFF < x.toNat then (s.chan n).lineAddress else addrOf x)).finishBreak n := by
  unfold State.checkCellValue cellValueCode
  by_cases range : 0x3FFFFFF < x.toNat
  · simp only [if_pos range]
  · simp only [if_neg range, if_pos (bad.resolve_left range)]

theorem State.checkCellValue_of_good {s : State} {n : ChanId} {x : Word} (range : x.toNat ≤ 0x3FFFFFF)
    (outside : s.inWindow (addrOf x) = false) (req : DeviceRequest) : s.checkCellValue n req x =
      (s.modProgress n fun g => { g with dataAddr := addrOf x }).release (.brk n) (s.cellRest n req x) := by
  unfold State.checkCellValue
  rw [if_neg (Nat.not_lt.2 range), if_neg (by rw [outside]; decide)]

/-- The STRICT writes of a group read the channel and the window (R98, R99). -/
theorem State.strictWrites_congr {s t : State} {n : ChanId} (chan : t.chan n = s.chan n) (mgmt : t.mgmt = s.mgmt) :
    t.strictWrites n = s.strictWrites n := by
  have address : ∀ w, t.recordAddr n w = s.recordAddr n w := fun w => by
    unfold State.recordAddr State.wordAddr
    rw [mgmt]
  unfold State.strictWrites
  simp only [chan, address]

/-- The data access of a group, by its direction (R98). -/
theorem dataAccess_eq (n : ChanId) (req : DeviceRequest) (a : Addr) : dataAccess n req req.direction a =
    { owner := .brk n .data, kind := (match req.direction with | .dirIn => .write | .dirOut => .read), addr := a,
      lanes := 0xF#4, data := (match req.direction with | .dirIn => req.data | .dirOut => 0#32) } := by
  unfold dataAccess
  cases req.direction <;> rfl

/-! ## The failed break (R100, R102) -/

/-- Channel n's group has ended on part w: the messages `sent` have left, the M-port is m, and the channel is `c` with its
port IDLE. -/
def State.groupEnded (w : State) (n : ChanId) (m : MPort) (sent : List PortMessage) (c : Channel) : State :=
  State.setChan { w with mport := m, out := sent } n { c with port := .idle }

theorem State.groupEnded_chan (w : State) (n : ChanId) (m : MPort) (sent : List PortMessage) (c : Channel) :
    (w.groupEnded n m sent c).chan n = { c with port := .idle } := State.chan_setChan_self _ n _

theorem State.breakFreed_of_locked {s : State} {n : ChanId} {todo : List Access} {fetch : Option Fetch}
    (lock : s.mport.lock = some { source := .brk n, todo := todo, fetch := fetch }) :
    s.breakFreed n = s.withMport { s.mport with lock := none } := by
  have held : s.heldBy (.brk n) = true := by
    unfold State.heldBy
    rw [lock]
    exact beq_self_eq_true _
  unfold State.breakFreed
  rw [held]
  rfl

/-- The failure of the break whose group holds the lock frees it and ends the group (R102, R142). -/
theorem State.breakFails_locked {y : State} {n : ChanId} {c : Channel} {req : DeviceRequest} {g : BreakProgress}
    {v : ValidLine} {todo : List Access} {fetch : Option Fetch}
    (lock : y.mport.lock = some { source := .brk n, todo := todo, fetch := fetch }) (chan : y.chan n = c)
    (port : c.port = .granted req g) (line : c.line = .valid v) (stepped : g.stepped = true)
    (state : c.ctl.state ≠ .faulted)
    (last : ¬ ∃ e ∈ y.mport.inflight, e.owner.isBreak n = true ∧ e.orphan = false) (code : FaultCode) (a : Addr) :
    (y.breakFails n code a).finishBreak n =
      (y.groupEnded n { y.mport with lock := none } (y.out ++ [.answer n (.failed code)])
        (c.breakFailed req g v code a)).afterBreak n (v.undo g).breakEnd := by
  subst chan
  rw [State.breakFails_ends port line stepped state last, State.breakFreed_of_locked lock]
  rfl

section
variable {s : State} {n : ChanId} {rest : List InFlight} {f : Fetch} {todo : List Access} {req : DeviceRequest}
  {g : BreakProgress} {v : ValidLine}
  (lock : s.mport.lock = some { source := .brk n, todo := todo, fetch := some f })
  (port : (s.chan n).port = .granted req g) (line : (s.chan n).line = .valid v) (stepped : g.stepped = true)
  (state : (s.chan n).ctl.state ≠ .faulted) (last : ¬ ∃ e ∈ rest, e.owner.isBreak n = true ∧ e.orphan = false)
include lock port line stepped state last

/-- A value that is no data address: the write-back leaves all the same, and the group ends by FAILED (R100, R102). -/
theorem State.cellReadResponse_bad {x : Word} (bad : 0x3FFFFFF < x.toNat ∨ s.inWindow (addrOf x) = true) :
    (s.answered rest).cellReadResponse n f (.okay x) =
      (((s.withMport { inflight := rest, lock := none }).fetched f.cell f.fields x).groupEnded n
        { inflight := rest ++
            [{ owner := .cellWriteBack f.cell, kind := .write, addr := f.addr, lanes := 0xF#4, orphan := false }],
          lock := none }
        (s.out ++ [.memWrite f.addr 0xF#4 (steppedWord f.fields x), .answer n (.failed (cellValueCode x))])
        ((s.chan n).breakFailed req g v (cellValueCode x)
          (if 0x3FFFFFF < x.toNat then addrOf v.words.address else addrOf x))).afterBreak n (v.undo g).breakEnd := by
  have marked := (s.answered rest).fetched_marked f.cell f.fields x
  obtain ⟨-, -, channels, -, -, -, -, -, out⟩ := marked.only
  have chan : (((s.answered rest).fetched f.cell f.fields x).issue (f.writeBack x)).chan n = s.chan n :=
    State.chan_congr channels n
  have inflight : (((s.answered rest).fetched f.cell f.fields x).issue (f.writeBack x)).mport =
      { s.mport with inflight := rest ++
          [{ owner := .cellWriteBack f.cell, kind := .write, addr := f.addr, lanes := 0xF#4, orphan := false }] } := by
    unfold State.issue
    simp only [marked.mport]
    rfl
  have sent : (((s.answered rest).fetched f.cell f.fields x).issue (f.writeBack x)).out ++
      [.answer n (.failed (cellValueCode x))] =
      s.out ++ [.memWrite f.addr 0xF#4 (steppedWord f.fields x), .answer n (.failed (cellValueCode x))] :=
    (congrArg (fun o => (o ++ _) ++ _) out).trans (List.append_assoc ..)
  have alone : ¬ ∃ e ∈ (((s.answered rest).fetched f.cell f.fields x).issue (f.writeBack x)).mport.inflight,
      e.owner.isBreak n = true ∧ e.orphan = false := by
    rw [inflight]
    rintro ⟨e, mem, isBreak, orphan⟩
    rcases List.mem_append.1 mem with mem | mem
    · exact last ⟨e, mem, isBreak, orphan⟩
    · rw [List.mem_singleton.1 mem] at isBreak
      cases isBreak
  have found : 0x3FFFFFF < x.toNat ∨
      (((s.answered rest).fetched f.cell f.fields x).issue (f.writeBack x)).inWindow (addrOf x) = true :=
    bad.imp_right fun inside => (State.inWindow_congr marked.mgmt _).trans inside
  rw [State.cellReadResponse_okay (s := s.answered rest) port, State.checkCellValue_of_bad found,
    State.breakFails_locked ((congrArg MPort.lock inflight).trans lock) chan port line stepped state alone, sent, inflight,
    chan, Channel.lineAddress_of_valid line,
    show (s.answered rest) = s.withMport { s.mport with inflight := rest } from rfl, s.fetched_withMport, s.fetched_withMport]
  rfl

/-- The read failed: CELL_FAULT arises, and the group ends by FAILED (R129). -/
theorem State.cellReadResponse_missed :
    (s.answered rest).cellReadResponse n f .error =
      (((s.withMport { inflight := rest, lock := none }).cellFault f.cell).groupEnded n
        { inflight := rest, lock := none } (s.out ++ [.answer n (.failed .cellFetch)])
        ((s.chan n).breakFailed req g v .cellFetch f.addr)).afterBreak n (v.undo g).breakEnd := by
  have marked : CellMarked f.cell (s.answered rest) ((s.answered rest).cellFault f.cell) :=
    (s.answered rest).cellOccurs_marked f.cell _ _
  obtain ⟨-, -, channels, -, -, -, -, -, out⟩ := marked.only
  have missed : ∀ m, (s.withMport m).cellFault f.cell = (s.cellFault f.cell).withMport m := fun m =>
    s.cellOccurs_withMport m f.cell _ _
  rw [State.cellReadResponse_error (s := s.answered rest) port, State.breakFails_locked
      ((congrArg MPort.lock marked.mport).trans lock) (State.chan_congr channels n) port line stepped state
      (by rw [marked.mport]; exact last), out, marked.mport, missed,
    show (s.answered rest) = s.withMport { s.mport with inflight := rest } from rfl, missed]
  rfl

end

section
variable {s w : State} {n : ChanId} {g : BreakProgress} {v : ValidLine} {m : MPort} {sent : List PortMessage}
  {req : DeviceRequest} {code : FaultCode} {a : Addr}

/-- What follows the answer of a failed CELL break whose cell's operation has left part w: the channel is FAULTED, and its
FAULT event comes after the cell's (R78, R102; log 28). -/
theorem State.afterBreak_groupEnded (channels : w.channels = s.channels) (mgmt : w.mgmt = s.mgmt) (pass : w.pass = s.pass)
    (line : (s.chan n).line = .valid v) (free : s.Unhindered n) (command : commandOf v.words.control = 0#3) :
    let t := (w.groupEnded n m sent ((s.chan n).breakFailed req g v code a)).afterBreak n (v.undo g).breakEnd
    t.out = sent ∧ t.mport = m ∧ t.BreakFailed n g v code ∧ t.cells = w.cells ∧
      w.EventCreated t n (s.faultEvent n code a) ∧ (∀ i, i ≠ n → t.chan i = s.chan i) ∧ t.pass = s.pass ∧
      t.mgmt = s.mgmt := by
  obtain ⟨unstalled, pends, waits⟩ := free
  have same : w.chan n = s.chan n := State.chan_congr channels n
  have waits' : w.resetWaits n = false := by
    rw [← waits, State.resetWaits, State.resetWaits, mgmt]
  have chan := w.groupEnded_chan n m sent ((s.chan n).breakFailed req g v code a)
  have step := (w.groupEnded n m sent ((s.chan n).breakFailed req g v code a)).afterBreak_step n (v.undo g).breakEnd
  obtain ⟨-, out, mport⟩ := State.afterBreak_closed (congrArg Channel.port chan) (v.undo g).breakEnd
  obtain ⟨-, -, event⟩ := State.afterBreak_failed (s := w)
    (u := w.groupEnded n m sent ((s.chan n).breakFailed req g v code a)) (req := req) (g := g) (code := code) (a := a)
    (by rw [same, line]) (by rw [same]; exact chan) rfl rfl waits' (by rw [same, unstalled]) command
  have named : w.faultEvent n code a = s.faultEvent n code a := by
    unfold State.faultEvent
    rw [same]
  rw [same, pends] at event
  exact ⟨out, mport, State.afterBreak_breakFailed chan waits' unstalled pends command, step.cells, named ▸ event,
    fun i hi => (step.others i hi).trans ((State.chan_setChan_other _ _ hi).trans (State.chan_congr channels i)),
    step.pass.trans pass, step.mgmt.trans mgmt⟩

end

/-- A value that is a data address (R98, R100): the data access and the STRICT writes are released under the lock. -/
theorem State.cellReadResponse_good {s : State} {n : ChanId} {rest : List InFlight} {f : Fetch} {req : DeviceRequest}
    {g : BreakProgress} {x : Word} (port : (s.chan n).port = .granted req g) (range : x.toNat ≤ 0x3FFFFFF)
    (outside : s.inWindow (addrOf x) = false) :
    (s.answered rest).cellReadResponse n f (.okay x) =
      ((((s.answered rest).fetched f.cell f.fields x).issue (f.writeBack x)).setChan n
        { s.chan n with port := .granted req { g with dataAddr := addrOf x } }).release (.brk n)
        (dataAccess n req req.direction (addrOf x) :: s.strictWrites n) := by
  have marked := (s.answered rest).fetched_marked f.cell f.fields x
  obtain ⟨-, -, channels, -⟩ := marked.only
  have chan : (((s.answered rest).fetched f.cell f.fields x).issue (f.writeBack x)).chan n = s.chan n :=
    State.chan_congr channels n
  have writes : (((s.answered rest).fetched f.cell f.fields x).issue (f.writeBack x)).strictWrites n = s.strictWrites n :=
    State.strictWrites_congr chan marked.mgmt
  have found : (((s.answered rest).fetched f.cell f.fields x).issue (f.writeBack x)).inWindow (addrOf x) = false :=
    (State.inWindow_congr marked.mgmt _).trans outside
  rw [State.cellReadResponse_okay (s := s.answered rest) port, State.checkCellValue_of_good range found,
    State.modProgress_of_granted (chan ▸ port), chan,
    State.cellRest, writes]

/-- Settles O30: the value read is a data address, or the break fails, or the read has failed. -/
theorem breakCellReadResponseChecksTheValue : Obligations.BreakCellReadResponseChecksTheValue := by
  intro n rest f req g v s awaits lock port line
  have exec := fun r => State.exec_breakCellReadResponse r awaits lock
  refine ⟨fun x range outside => ?_, fun x bad ends => ?_, fun ends => ?_, fun last state stepped => ?_⟩
  · have marked := (s.answered rest).fetched_marked f.cell f.fields x
    obtain ⟨pass, -, channels, -, -, -, -, -, out⟩ := marked.only
    refine ⟨_, exec _, ?_⟩
    rw [State.cellReadResponse_good port range outside, dataAccess_eq]
    have same : ∀ m, (s.withMport m).fetched f.cell f.fields x = (s.fetched f.cell f.fields x).withMport m :=
      fun m => s.fetched_withMport m f.cell f.fields x
    have cells : ((s.answered rest).fetched f.cell f.fields x).cells =
        ((s.withMport { inflight := rest, lock := none }).fetched f.cell f.fields x).cells :=
      (congrArg State.cells (same { s.mport with inflight := rest })).trans
        (congrArg State.cells (same { inflight := rest, lock := none })).symm
    have events : ((s.answered rest).fetched f.cell f.fields x).events =
        ((s.withMport { inflight := rest, lock := none }).fetched f.cell f.fields x).events :=
      (congrArg State.events (same { s.mport with inflight := rest })).trans
        (congrArg State.events (same { inflight := rest, lock := none })).symm
    exact ⟨congrArg (· ++ _) out, congrArg (·.inflight ++ _) marked.mport, rfl, State.chan_setChan_self _ n _,
      fun i hi => (State.chan_setChan_other _ _ hi).trans (State.chan_congr channels i), marked.cstate,
      fun some => State.fetched_atLimit (s := s.answered rest) some f.cell f.fields x, cells, events, pass, marked.mgmt⟩
  · obtain ⟨last, free, state, command, stepped⟩ := ends
    have marked := (s.withMport { inflight := rest, lock := none }).fetched_marked f.cell f.fields x
    obtain ⟨pass, -, channels, -⟩ := marked.only
    refine ⟨_, exec _, ?_⟩
    rw [State.cellReadResponse_bad lock port line stepped state last bad]
    exact State.afterBreak_groupEnded channels marked.mgmt pass line free command
  · obtain ⟨last, free, state, command, stepped⟩ := ends
    have marked : CellMarked f.cell (s.withMport { inflight := rest, lock := none })
      ((s.withMport { inflight := rest, lock := none }).cellFault f.cell) := State.cellOccurs_marked _ f.cell _ _
    obtain ⟨pass, -, channels, -⟩ := marked.only
    refine ⟨_, exec _, ?_⟩
    rw [State.cellReadResponse_missed lock port line stepped state last]
    obtain ⟨out, mport, failed, cells, event, others, pass, mgmt⟩ := State.afterBreak_groupEnded (s := s)
      (req := req) (g := g) (m := { inflight := rest, lock := none }) (sent := s.out ++ [.answer n (.failed .cellFetch)]) (code := .cellFetch)
      (a := f.addr) channels marked.mgmt pass line free command
    refine ⟨out, mport, failed, cells, event, others, ?_, ?_, pass, mgmt⟩
    · rw [State.cell_congr cells]
      exact marked.cstate
    · rw [State.cell_congr cells]
      exact State.cellOccurs_atLimit _ f.cell _ _
  · dsimp only
    refine ⟨fun x bad => ⟨_, exec _, ?_⟩, _, exec _, ?_⟩
    · rw [State.cellReadResponse_bad lock port line stepped state last bad]
      exact State.afterBreak_groupEnds _ n _
    · have marked : CellMarked f.cell (s.withMport { inflight := rest, lock := none })
        ((s.withMport { inflight := rest, lock := none }).cellFault f.cell) := State.cellOccurs_marked _ f.cell _ _
      have ended := fun sent c => congrArg (fun m => State.groupEnded
        ((s.withMport { inflight := rest, lock := none }).cellFault f.cell) n m sent c) marked.mport
      rw [State.cellReadResponse_missed lock port line stepped state last]
      exact (ended _ _) ▸ State.afterBreak_groupEnds _ n _

end Sys2Proof.Machine
end

section
/-! PROOFS. The response of a link read: the load of a segment, and what the channel makes of it (R110, R113 to R115). -/

namespace Sys2Proof.Machine

/-! ## The line under a change of STATUS -/

/-- The VALID line of channel n keeps its words but STATUS, which is dirty, and its other marks (R45, R54). -/
def LineTouched (n : ChanId) (s t : State) : Prop :=
  ∀ v, (s.chan n).line = .valid v → ∃ v', (t.chan n).line = .valid v' ∧
    v'.words = { v.words with status := v'.words.status } ∧ v'.dirty = { v.dirty with status := true }

section
variable {n : ChanId} {s t u : State}

theorem LineTouched.of_line_before (h : LineTouched n t u) (same : (t.chan n).line = (s.chan n).line) :
    LineTouched n s u := fun v line => h v (same.trans line)

theorem LineTouched.of_line_after (h : LineTouched n s t) (same : (u.chan n).line = (t.chan n).line) :
    LineTouched n s u := fun v line => by
  rw [same]
  exact h v line

theorem LineTouched.trans (h : LineTouched n s t) (k : LineTouched n t u) : LineTouched n s u := fun v line => by
  obtain ⟨v₁, line₁, words₁, dirty₁⟩ := h v line
  obtain ⟨v₂, line₂, words₂, dirty₂⟩ := k v₁ line₁
  exact ⟨v₂, line₂, by rw [words₂, words₁], by rw [dirty₂, dirty₁]⟩

end

section
variable (s : State) (n : ChanId)

theorem State.modStatus_touched (f : Controller → Controller) : LineTouched n s (s.modStatus n f) := fun _ line =>
  ⟨_, State.modStatus_line line f, rfl, rfl⟩

theorem State.setState_touched (st : ChanState) : LineTouched n s (s.setState n st) := s.modStatus_touched n _

theorem State.enterEnding_touched (e : EndingKind) : LineTouched n s (s.enterEnding n e) := fun v line => by
  obtain ⟨v₁, line₁, words₁, dirty₁⟩ := s.modStatus_touched n (fun k => { k with state := .ending, ending := some e }) v line
  obtain ⟨v₂, line₂, words₂, dirty₂⟩ :=
    State.triggerWriteback_line line₁ { consequence := .finalEvent, disable := false }
  exact ⟨v₂, line₂, by rw [words₂, words₁], by rw [dirty₂, dirty₁]⟩

theorem State.enterFaulted_touched (f : PendingFault) : LineTouched n s (s.enterFaulted n f) := fun v line => by
  obtain ⟨v', line', words, dirty, -⟩ := State.enterFaulted_line line f
  exact ⟨v', line', words, dirty⟩

theorem State.enterLinking_touched : LineTouched n s (s.enterLinking n) := by
  have entered := s.setState_touched n .linking
  unfold State.enterLinking State.faultArise
  dsimp only
  split
  · split
    · exact entered
    · split
      · exact entered.of_line_after (by rw [State.pendFault, State.chan_modCtl_self])
      · exact entered.trans (State.enterFaulted_touched _ n _)
  · exact entered.of_line_after (by rw [State.chan_raise, State.chan_modChan_self])

theorem State.goToSegment_touched : LineTouched n s (s.goToSegment n) := by
  unfold State.goToSegment
  split
  · exact s.enterEnding_touched n _
  · exact s.enterLinking_touched n

/-- The entry to FAULTED leaves the Chain Walker where no link claim waits (R78). -/
theorem State.enterFaulted_walker (none : (s.chan n).walker.phase = .none) (f : PendingFault) :
    ((s.enterFaulted n f).chan n).walker = (s.chan n).walker := by
  obtain ⟨p, fail⟩ := s.failPort_chan n f.code
  have phase : ((s.failPort n f.code).chan n).walker.phase = .none := by rw [fail, none]
  have keeps : (s.failPort n f.code).dropLinkClaim n = s.failPort n f.code := by
    unfold State.dropLinkClaim
    rw [phase]
  have taken : ((s.faultTaken n f).chan n).walker = (s.chan n).walker := by
    rw [State.faultTaken, State.chan_modChan_self, Channel.forgetConsequence, Channel.modLine_walker, State.modStatus_walker,
      keeps, fail]
  obtain ⟨slot, created⟩ := (s.faultTaken n f).createEvent_chan n (s.faultEvent n f.code f.address)
  rw [State.enterFaulted_eq]
  split
  · rw [created, taken]
  · obtain ⟨⟨l, chan⟩, -⟩ :=
      ((s.faultTaken n f).createEvent n (s.faultEvent n f.code f.address)).triggerWriteback_leaves n .plain
    rw [State.triggerPlain, chan, created, taken]

end

/-! ## The transition at the completion of a link (R114), row by row -/

section
variable {x : State} {n : ChanId} {e : LinkEnd}

/-- The part after an empty segment has been counted (R114). -/
def State.emptySegment (x : State) (n : ChanId) : State :=
  x.modWalker n fun w => { w with emptyRun := w.emptyRun + 1, flags := .clear }

theorem State.emptySegment_chan (x : State) (n : ChanId) : (x.emptySegment n).chan n =
    { x.chan n with walker :=
      { (x.chan n).walker with emptyRun := (x.chan n).walker.emptyRun + 1, flags := .clear } } :=
  x.chan_modChan_self n _

theorem State.linkTransition_of_fault {f : PendingFault} (pends : (x.chan n).ctl.pendingFault = some f) :
    x.linkTransition n e = x.enterFaulted n f := by
  unfold State.linkTransition
  simp only [pends]

variable (pends : (x.chan n).ctl.pendingFault = none)
include pends

theorem State.linkTransition_of_extent (count : e.countZero = false) : x.linkTransition n e =
    (x.modWalker n fun w => { w with emptyRun := 0, flags := e.flags }).setState n .ready := by
  unfold State.linkTransition
  simp only [pends, count, Bool.not_false, if_true]

variable (count : e.countZero = true)
include count

theorem State.linkTransition_of_run (run : 15 ≤ (x.chan n).walker.emptyRun) : x.linkTransition n e =
    (x.modWalker n fun w => { w with emptyRun := 16, flags := .clear }).enterFaulted n (.of .chainEmptyRun e.segment) := by
  have limit : Config.emptyRunLimit ≤ (x.chan n).walker.emptyRun + 1 := Nat.succ_le_succ run
  unfold State.linkTransition
  simp only [pends, count, Bool.not_true, if_pos limit]
  rfl

theorem State.linkTransition_of_empty (run : (x.chan n).walker.emptyRun < 15) : x.linkTransition n e =
    if e.chainZero then (x.emptySegment n).enterEnding n .terminal else (x.emptySegment n).goToSegment n := by
  have limit : ¬ Config.emptyRunLimit ≤ (x.chan n).walker.emptyRun + 1 := Nat.not_le.2 (Nat.succ_lt_succ run)
  unfold State.linkTransition
  simp only [pends, count, Bool.not_true, if_neg limit]
  rfl

end

theorem State.modWalker_chan (x : State) (n : ChanId) (f : Walker → Walker) :
    (x.modWalker n f).chan n = { x.chan n with walker := f (x.chan n).walker } := x.chan_modChan_self n _

/-- Whatever row is taken, the line's words but STATUS and its marks stand (R114). -/
theorem State.linkTransition_touched (x : State) (n : ChanId) (e : LinkEnd) : LineTouched n x (x.linkTransition n e) := by
  have walked : ∀ {f : Walker → Walker} {t : State}, LineTouched n (x.modWalker n f) t → LineTouched n x t :=
    fun h => h.of_line_before (by rw [State.modWalker_chan])
  unfold State.linkTransition
  dsimp only
  split
  · exact x.enterFaulted_touched n _
  · split
    · exact walked (State.setState_touched _ n _)
    · split
      · exact walked (State.enterFaulted_touched _ n _)
      · split
        · exact walked (State.enterEnding_touched _ n _)
        · exact walked (State.goToSegment_touched _ n)

theorem State.linkTransition_noHeld {x : State} {n : ChanId} (held : (x.chan n).NoHeld) (e : LinkEnd) :
    ((x.linkTransition n e).chan n).NoHeld := by
  have walked : ∀ f, ((x.modWalker n f).chan n).NoHeld := fun f => by
    rw [State.modWalker_chan]
    exact held
  unfold State.linkTransition State.goToSegment
  dsimp only
  split
  · exact x.enterFaulted_noHeld n _
  · split
    · exact State.setState_noHeld (walked _) _
    · split
      · exact State.enterFaulted_noHeld _ n _
      · split
        · exact State.enterEnding_noHeld (walked _) _
        · split
          · exact State.enterEnding_noHeld (walked _) _
          · exact State.enterLinking_noHeld (walked _)

/-- With no command untaken and no request held, settle finds nothing after the transition (R65). -/
theorem State.linkTransition_settles {x : State} {n : ChanId} {u : ValidLine} (line : (x.chan n).line = .valid u)
    (command : commandOf u.words.control = 0#3) (held : (x.chan n).NoHeld) (e : LinkEnd) :
    (x.linkTransition n e).settle n = x.linkTransition n e := by
  obtain ⟨v', line', words, -⟩ := x.linkTransition_touched n e u line
  refine State.settle_of_nothing (.inl ?_) (State.linkTransition_noHeld held e)
  rw [Channel.untaken_of_valid line', words]
  exact command

/-! ## The load (R113) -/

/-- Channel n after the load of a segment: its line is u, and the walker is free. -/
def State.linkLoaded (s : State) (n : ChanId) (u : ValidLine) : State :=
  s.setChan n { s.chan n with line := .valid u, walker := { (s.chan n).walker with phase := .none } }

theorem State.linkLoaded_chan (s : State) (n : ChanId) (u : ValidLine) : (s.linkLoaded n u).chan n =
    { s.chan n with line := .valid u, walker := { (s.chan n).walker with phase := .none } } := State.chan_setChan_self _ n _

/-- What the completion of a link finds in line u (R114). -/
def ValidLine.linkEnd (u : ValidLine) (flags : SegFlags) (a : Addr) : LinkEnd where
  countZero := countOf u.words.count == 0#24
  chainZero := addrOf u.words.chain == 0#26
  flags := flags
  segment := a

section
variable {s : State} {n : ChanId} {v : ValidLine} (line : (s.chan n).line = .valid v) (a : Addr) (words : List Word)
  (o : LinkOverlay)
include line

theorem State.completeLink_eq :
    let x := s.linkLoaded n (v.loadSegment words o)
    let e := (v.loadSegment words o).linkEnd (flagsOf (words.getD 3 0#32)) a
    s.completeLink n a words o =
      if (s.chan n).isStalled then x.modCtl n fun k => { k with heldCompletion := some (.link e) }
      else (x.linkTransition n e).settle n := by
  intro x e
  have loaded : (s.modChan n fun c =>
      { c.modLine fun v => v.loadSegment words o with walker := { c.walker with phase := .none } }) = x := by
    unfold State.modChan
    simp only [Channel.modLine_of_valid line]
    rfl
  have chan : x.chan n = _ := s.linkLoaded_chan n (v.loadSegment words o)
  have found : (x.chan n).linkEnd words a = e := by
    have valid : (x.chan n).line = .valid (v.loadSegment words o) := by rw [chan]
    unfold Channel.linkEnd Channel.count Channel.chain
    simp only [Channel.word_of_valid valid]
    rfl
  have stalled : (x.chan n).isStalled = (s.chan n).isStalled := by rw [chan]; rfl
  unfold State.completeLink
  simp only [loaded, found, stalled]

end

/-! ## The response (R15, R113, R115) -/

theorem InFlight.row_of_link {e : InFlight} {n : ChanId} {i : Nat} (o : e.orphan = false) (h : e.owner = .link n i) :
    e.row = .linkRead := by
  unfold InFlight.row
  rw [if_neg (by rw [o]; decide), h]

theorem State.exec_linkReadResponse {s : State} {n : ChanId} {i : Nat} {rest : List InFlight} (r : MemResponse)
    (h : s.Awaits (.link n i) rest) :
    exec (.linkReadResponse r) s = .next ((s.answered rest).linkResponse n i r) := by
  obtain ⟨e, inflight, owner, orphan⟩ := h
  refine congrArg Host.Outcome.next ?_
  rw [State.respond_of_row _ inflight (InFlight.row_of_link orphan owner), owner]
  rfl

section
variable {s : State} {n : ChanId} {a : Addr} {ws : List Word} {o : LinkOverlay}
  (phase : (s.chan n).walker.phase = .granted a ws o) (i : Nat)
include phase

theorem State.linkResponse_more (d : Word) (more : ws.length ≠ 3) : s.linkResponse n i (.okay d) =
    s.setChan n { s.chan n with walker := { (s.chan n).walker with phase := .granted a (ws ++ [d]) o } } := by
  unfold State.linkResponse
  simp only [phase, if_neg more]
  rfl

theorem State.linkResponse_last (d : Word) (last : ws.length = 3) :
    s.linkResponse n i (.okay d) = s.completeLink n a (ws ++ [d]) o := by
  unfold State.linkResponse
  simp only [phase, if_pos last]

theorem State.linkResponse_error : s.linkResponse n i .error = s.failLink n a i := by
  unfold State.linkResponse
  simp only [phase]

end

/-- The part after a link read returned ERROR, before the fault: the group has ended, its other reads are orphaned, and the
walker is free (R115). -/
def State.linkLost (s : State) (rest : List InFlight) (n : ChanId) : State :=
  State.setChan
    { s with mport :=
      { inflight := rest.map fun e => if e.owner.isLink n then { e with orphan := true } else e
        lock := if s.heldBy (.upkeep (.link n)) then none else s.mport.lock } } n
    { s.chan n with walker := { (s.chan n).walker with phase := .none } }

theorem State.linkLost_chan (s : State) (rest : List InFlight) (n : ChanId) : (s.linkLost rest n).chan n =
    { s.chan n with walker := { (s.chan n).walker with phase := .none } } := State.chan_setChan_self _ n _

theorem State.failLink_answered (s : State) (rest : List InFlight) (n : ChanId) (a : Addr) (i : Nat) :
    (s.answered rest).failLink n a i =
      (s.linkLost rest n).takeAtCompletion n (.of .memoryChain (a + BitVec.ofNat 26 i)) := by
  have ended : ((s.answered rest).endGroup (.upkeep (.link n))).orphan (Owner.isLink n) =
      { s with mport :=
        { inflight := rest.map fun e => if e.owner.isLink n then { e with orphan := true } else e
          lock := if s.heldBy (.upkeep (.link n)) then none else s.mport.lock } } := by
    have holder : (s.answered rest).heldBy (.upkeep (.link n)) = s.heldBy (.upkeep (.link n)) := rfl
    unfold State.endGroup
    rw [holder]
    split <;> rfl
  unfold State.failLink
  simp only [ended]
  rfl

/-- A segment that touches the window faults the channel at once where no access of it is in flight (R78, R110). -/
theorem State.enterLinking_inside {y : State} {n : ChanId}
    (inside : (segmentAddrs (y.chan n).chain).any (fun a => y.inWindow a) = true)
    (pends : (y.chan n).ctl.pendingFault = none) (unstalled : (y.chan n).ctl.stalled = none)
    (port : ∀ req g, (y.chan n).port ≠ .granted req g) (free : (y.chan n).walker.phase = .none) :
    ((y.enterLinking n).chan n).ctl.state = .faulted ∧ ((y.enterLinking n).chan n).ctl.lastFault = some .windowTarget ∧
    y.EventCreated (y.enterLinking n) n (y.faultEvent n .windowTarget (y.chan n).chain) := by
  have kept := y.setState_kept n .linking
  have idle : ((y.setState n .linking).chan n).opInFlight = false := by
    have noFill : ((y.setState n .linking).chan n).fillInFlight = false := by
      rw [Channel.fillInFlight, State.setState_ctl]
      rfl
    unfold Channel.opInFlight
    rw [noFill, State.setState, State.modStatus_port, State.modStatus_walker, free]
    split
    · rename_i req g granted
      exact absurd granted (port req g)
    · rfl
  have eq : y.enterLinking n = (y.setState n .linking).enterFaulted n (.of .windowTarget (y.chan n).chain) := by
    rw [← kept.chain]
    exact (if_pos (by rw [kept.chain]; exact inside)).trans (State.faultArise_taken
      (by rw [State.setState_ctl]; exact ChanState.noConfusion) (by rw [State.setState_ctl]; exact pends) idle
      (by rw [State.setState_ctl]; exact unstalled) _)
  obtain ⟨state, code, event⟩ := (y.setState n .linking).enterFaulted_faulted n (.of .windowTarget (y.chan n).chain)
  rw [eq]
  exact ⟨state, code, event.of_faultEvent rfl (by rw [State.setState_ctl]) kept.cookie kept.startCount⟩

/-! ## The rows of an unhindered channel, in the words of the statement (R110, R114) -/

section
variable {x : State} {n : ChanId} {u : ValidLine} {e : LinkEnd} (pends : (x.chan n).ctl.pendingFault = none)
include pends

theorem State.linkTransition_extent (count : e.countZero = false) :
    ((x.linkTransition n e).chan n).ctl.state = .ready ∧
    ((x.linkTransition n e).chan n).walker = { (x.chan n).walker with emptyRun := 0, flags := e.flags } := by
  rw [State.linkTransition_of_extent pends count, State.setState_ctl, State.setState, State.modStatus_walker,
    State.modWalker_chan]
  exact ⟨rfl, rfl⟩

variable (count : e.countZero = true)
include count

theorem State.linkTransition_run (run : 15 ≤ (x.chan n).walker.emptyRun) (free : (x.chan n).walker.phase = .none) :
    ((x.linkTransition n e).chan n).ctl.state = .faulted ∧
    ((x.linkTransition n e).chan n).ctl.lastFault = some .chainEmptyRun ∧
    ((x.linkTransition n e).chan n).walker.emptyRun = 16 ∧
    x.EventCreated (x.linkTransition n e) n (x.faultEvent n .chainEmptyRun e.segment) := by
  rw [State.linkTransition_of_run pends count run]
  have chan := x.modWalker_chan n fun w => { w with emptyRun := 16, flags := .clear }
  obtain ⟨state, code, event⟩ := (x.modWalker n fun w => { w with emptyRun := 16, flags := .clear }).enterFaulted_faulted n
    (.of .chainEmptyRun e.segment)
  refine ⟨state, code, ?_, event.of_faultEvent rfl (by rw [chan]) (by rw [chan]; rfl) (by rw [chan])⟩
  rw [State.enterFaulted_walker _ n (by rw [chan, free]), chan]

variable (run : (x.chan n).walker.emptyRun < 15)
include run

/-- An empty segment with CHAIN 0 ends the chain (R114). -/
theorem State.linkTransition_ends (chain : e.chainZero = true) :
    ((x.linkTransition n e).chan n).ctl.state = .ending ∧
    ((x.linkTransition n e).chan n).ctl.ending = some .terminal ∧ x.WritebackTriggered (x.linkTransition n e) n ∧
    (x.linkTransition n e).WritebackServes n .finalEvent ∧
    ((x.linkTransition n e).chan n).walker =
      { (x.chan n).walker with emptyRun := (x.chan n).walker.emptyRun + 1, flags := .clear } := by
  rw [State.linkTransition_of_empty pends count run, if_pos chain]
  obtain ⟨triggered, serves⟩ := (x.emptySegment n).enterEnding_triggers n .terminal
  obtain ⟨-, walker, -⟩ := (x.emptySegment n).enterEnding_leaves n .terminal
  refine ⟨by rw [State.enterEnding_ctl], by rw [State.enterEnding_ctl],
    triggered.of_line (by rw [State.emptySegment_chan]), serves, ?_⟩
  rw [walker, State.emptySegment_chan]

variable (line : (x.chan n).line = .valid u) (goes : e.chainZero = false) (names : addrOf u.words.chain ≠ 0#26)
include line goes names

theorem State.linkTransition_links : x.linkTransition n e = (x.emptySegment n).enterLinking n ∧
    ((x.emptySegment n).chan n).chain = addrOf u.words.chain := by
  have chain : ((x.emptySegment n).chan n).chain = addrOf u.words.chain :=
    congrArg addrOf (Channel.word_of_valid (by rw [State.emptySegment_chan, line]) .chain)
  rw [State.linkTransition_of_empty pends count run, if_neg (by rw [goes]; decide),
    State.goToSegment_of_chain (by rw [chain]; exact names)]
  exact ⟨rfl, chain⟩

/-- An empty segment that names one outside the window claims it (R110, R114). -/
theorem State.linkTransition_outside (outside : (segmentAddrs (addrOf u.words.chain)).any (fun a => x.inWindow a) = false) :
    ((x.linkTransition n e).chan n).ctl.state = .linking ∧
    ((x.linkTransition n e).chan n).walker =
      { phase := .claimed (addrOf u.words.chain), emptyRun := (x.chan n).walker.emptyRun + 1, flags := .clear } := by
  obtain ⟨eq, chain⟩ := State.linkTransition_links pends count run line goes names
  have found : (segmentAddrs ((x.emptySegment n).chan n).chain).any (fun a => (x.emptySegment n).inWindow a) = false := by
    rw [chain]
    exact outside
  obtain ⟨ctl, walker⟩ := State.enterLinking_chan_of_outside found
  rw [eq, ctl, walker, chain, State.emptySegment_chan]
  exact ⟨rfl, rfl⟩

/-- An empty segment that names one in the window faults a channel with no break in flight (R110). -/
theorem State.linkTransition_inside (inside : (segmentAddrs (addrOf u.words.chain)).any (fun a => x.inWindow a) = true)
    (unstalled : (x.chan n).ctl.stalled = none) (free : (x.chan n).walker.phase = .none)
    (port : ∀ req g, (x.chan n).port ≠ .granted req g) :
    ((x.linkTransition n e).chan n).ctl.state = .faulted ∧
    ((x.linkTransition n e).chan n).ctl.lastFault = some .windowTarget ∧
    x.EventCreated (x.linkTransition n e) n (x.faultEvent n .windowTarget (addrOf u.words.chain)) := by
  obtain ⟨eq, chain⟩ := State.linkTransition_links pends count run line goes names
  have same := x.emptySegment_chan n
  obtain ⟨state, code, event⟩ := State.enterLinking_inside (y := x.emptySegment n) (by rw [chain]; exact inside)
    (by rw [same]; exact pends) (by rw [same]; exact unstalled) (by rw [same]; exact port) (by rw [same]; exact free)
  rw [chain] at event
  rw [eq]
  exact ⟨state, code, event.of_faultEvent rfl (by rw [same]) (by rw [same]; rfl) (by rw [same])⟩

end

/-! ## The load of a segment by the response of its fourth read -/

section
variable {s : State} {n : ChanId} {i : Nat} {rest : List InFlight} {a : Addr} {ws : List Word} {o : LinkOverlay}
  {v : ValidLine} (phase : (s.chan n).walker.phase = .granted a ws o) (line : (s.chan n).line = .valid v)
  (last : ws.length = 3)
include phase line last

theorem State.linkResponse_loads_stalled (d : Word) (stalled : (s.chan n).ctl.stalled ≠ none) :
    (s.answered rest).linkResponse n i (.okay d) =
      ((s.answered rest).linkLoaded n (v.loadSegment (ws ++ [d]) o)).modCtl n fun k =>
        { k with
          heldCompletion := some (.link ((v.loadSegment (ws ++ [d]) o).linkEnd (flagsOf ((ws ++ [d]).getD 3 0#32)) a)) } :=
  (State.linkResponse_last (s := s.answered rest) phase i d last).trans
    ((State.completeLink_eq (s := s.answered rest) line a (ws ++ [d]) o).trans
      (if_pos (Option.isSome_iff_ne_none.2 stalled)))

theorem State.linkResponse_loads (d : Word) (unstalled : (s.chan n).ctl.stalled = none) :
    (s.answered rest).linkResponse n i (.okay d) =
      (((s.answered rest).linkLoaded n (v.loadSegment (ws ++ [d]) o)).linkTransition n
        ((v.loadSegment (ws ++ [d]) o).linkEnd (flagsOf ((ws ++ [d]).getD 3 0#32)) a)).settle n := by
  have free : ((s.answered rest).chan n).isStalled = false := by
    rw [Channel.isStalled, show ((s.answered rest).chan n).ctl.stalled = none from unstalled]
    rfl
  rw [State.linkResponse_last (s := s.answered rest) phase i d last,
    State.completeLink_eq (s := s.answered rest) line a (ws ++ [d]) o, free]
  rfl

end

/-- A fault that pends is taken in place of the transition of a load (R78), and reported with what the part showed before
the load. -/
theorem State.linkLoaded_faults {s x : State} {n : ChanId} {v u : ValidLine} {f : PendingFault}
    (line : (s.chan n).line = .valid v)
    (chan : x.chan n = { s.chan n with line := .valid u, walker := { (s.chan n).walker with phase := .none } })
    (events : x.events = s.events) (cookie : u.words.cookie = v.words.cookie)
    (pends : (s.chan n).ctl.pendingFault = some f) (e : LinkEnd) :
    ((x.linkTransition n e).chan n).ctl.state = .faulted ∧
    ((x.linkTransition n e).chan n).ctl.lastFault = some f.code ∧
    s.EventCreated (x.linkTransition n e) n (s.faultEvent n f.code f.address) := by
  obtain ⟨state, code, event⟩ := x.enterFaulted_faulted n f
  rw [State.linkTransition_of_fault (by rw [chan]; exact pends)]
  refine ⟨state, code, event.of_faultEvent events (by rw [chan]) ?_ (by rw [chan])⟩
  rw [chan]
  simp only [Channel.cookie, line, cookie]

/-- The rows of a load that nothing holds back, in the words of the statement (R113, R114): the response has run to the
transition of x, the part with the segment loaded. -/
theorem State.linkLoaded_rows {s x : State} {n : ChanId} {a : Addr} {v u : ValidLine}
    {flags : SegFlags} {r : MemResponse}
    (run : exec (.linkReadResponse r) s = .next (x.linkTransition n (u.linkEnd flags a)))
    (only : s.OnlyChannel n (x.linkTransition n (u.linkEnd flags a))) (line : (s.chan n).line = .valid v)
    (chan : x.chan n = { s.chan n with line := .valid u, walker := { (s.chan n).walker with phase := .none } })
    (events : x.events = s.events) (mgmt : x.mgmt = s.mgmt) (cookie : u.words.cookie = v.words.cookie)
    (wbPhase : u.wbPhase = v.wbPhase) (unstalled : (s.chan n).ctl.stalled = none)
    (pends : (s.chan n).ctl.pendingFault = none) :
    ∃ t v', exec (.linkReadResponse r) s = .next t ∧ (t.chan n).line = .valid v' ∧ t.mport = x.mport ∧
      s.OnlyChannel n t ∧ v'.words = { u.words with status := v'.words.status } ∧
      v'.dirty = { u.dirty with status := true } ∧
      (countOf u.words.count ≠ 0#24 → (t.chan n).ctl.state = .ready ∧
        (t.chan n).walker = { phase := .none, emptyRun := 0, flags := flags }) ∧
      (countOf u.words.count = 0#24 → 15 ≤ (s.chan n).walker.emptyRun → (t.chan n).ctl.state = .faulted ∧
        (t.chan n).ctl.lastFault = some .chainEmptyRun ∧ (t.chan n).walker.emptyRun = 16 ∧
        s.EventCreated t n (s.faultEvent n .chainEmptyRun a)) ∧
      (countOf u.words.count = 0#24 → (s.chan n).walker.emptyRun < 15 → addrOf u.words.chain = 0#26 →
        (t.chan n).ctl.state = .ending ∧ (t.chan n).ctl.ending = some .terminal ∧ s.WritebackTriggered t n ∧
        t.WritebackServes n .finalEvent ∧
        (t.chan n).walker = { phase := .none, emptyRun := (s.chan n).walker.emptyRun + 1, flags := .clear }) ∧
      (countOf u.words.count = 0#24 → (s.chan n).walker.emptyRun < 15 → addrOf u.words.chain ≠ 0#26 →
        (segmentAddrs (addrOf u.words.chain)).any (fun x => s.inWindow x) = false → (t.chan n).ctl.state = .linking ∧
        (t.chan n).walker =
          { phase := .claimed (addrOf u.words.chain), emptyRun := (s.chan n).walker.emptyRun + 1, flags := .clear }) ∧
      (countOf u.words.count = 0#24 → (s.chan n).walker.emptyRun < 15 → addrOf u.words.chain ≠ 0#26 →
        (segmentAddrs (addrOf u.words.chain)).any (fun x => s.inWindow x) = true →
        (∀ req g, (s.chan n).port ≠ .granted req g) →
        (t.chan n).ctl.state = .faulted ∧ (t.chan n).ctl.lastFault = some .windowTarget ∧
        s.EventCreated t n (s.faultEvent n .windowTarget (addrOf u.words.chain))) := by
  have line' : (x.chan n).line = .valid u := by rw [chan]
  have free : (x.chan n).ctl.pendingFault = none := by rw [chan, pends]
  have phase : (x.chan n).walker.phase = .none := by rw [chan]
  have empty : (x.chan n).walker.emptyRun = (s.chan n).walker.emptyRun := by rw [chan]
  have window : ∀ b, x.inWindow b = s.inWindow b := State.inWindow_congr mgmt
  have event : ∀ {t code b}, x.EventCreated t n (x.faultEvent n code b) → s.EventCreated t n (s.faultEvent n code b) :=
    fun h => h.of_faultEvent events (by rw [chan]) (by rw [chan]; simp only [Channel.cookie, line, cookie]) (by rw [chan])
  have zero : countOf u.words.count = 0#24 → (u.linkEnd flags a).countZero = true := beq_iff_eq.2
  obtain ⟨v', valid, words, dirty⟩ := x.linkTransition_touched n (u.linkEnd flags a) u line'
  refine ⟨_, v', run, valid, (x.linkTransition_step n _).mport, only, words, dirty, fun count => ?_, fun count full => ?_,
    fun count more ends => ?_, fun count more names outside => ?_, fun count more names inside port => ?_⟩
  · obtain ⟨state, walker⟩ := State.linkTransition_extent free (e := u.linkEnd flags a) (beq_eq_false_iff_ne.2 count)
    exact ⟨state, walker.trans (by rw [chan]; rfl)⟩
  · obtain ⟨state, code, counted, created⟩ := State.linkTransition_run free (zero count) (by rw [empty]; exact full) phase
    exact ⟨state, code, counted, event created⟩
  · obtain ⟨state, ending, triggered, serves, walker⟩ := State.linkTransition_ends free (zero count)
      (by rw [empty]; exact more) (beq_iff_eq.2 ends)
    exact ⟨state, ending, triggered.of_phase line line' wbPhase, serves, walker.trans (by rw [chan])⟩
  · obtain ⟨state, walker⟩ := State.linkTransition_outside free (zero count) (by rw [empty]; exact more) line'
      (beq_eq_false_iff_ne.2 names) names (by simp only [window]; exact outside)
    exact ⟨state, walker.trans (by rw [empty])⟩
  · obtain ⟨state, code, created⟩ := State.linkTransition_inside free (zero count) (by rw [empty]; exact more) line'
      (beq_eq_false_iff_ne.2 names) names (by simp only [window]; exact inside) (by rw [chan, unstalled]) phase
      (by rw [chan]; exact port)
    exact ⟨state, code, event created⟩

/-- Settles O47: the reads before the fourth, the load by the fourth with the rows that follow, and a read that failed. -/
theorem linkResponseLoadsTheSegment : Obligations.LinkResponseLoadsTheSegment := by
  intro n i rest a ws o v s awaits phase line
  have exec := fun r => State.exec_linkReadResponse r awaits
  have only := fun r => ((s.answered rest).linkResponse_turn n i r).1.onlyChannel
  refine ⟨fun d more => ?_, fun w₀ w₁ w₂ d eq free held command linking => ?_, fun w₀ w₁ w₂ d eq => ?_, ?_,
    fun free command state => ?_⟩
  · rw [exec, State.linkResponse_more (s := s.answered rest) phase i d more]
    rfl
  · obtain ⟨unstalled, pends, waits⟩ := free
    subst eq
    intro count address chain
    have only := only (.okay d)
    have loads := State.linkResponse_loads (i := i) (rest := rest) phase line rfl d unstalled
    have chan := (s.answered rest).linkLoaded_chan n (v.loadSegment ([w₀, w₁, w₂] ++ [d]) o)
    rw [State.linkTransition_settles (congrArg Channel.line chan) command (by rw [chan]; exact held)] at loads
    rw [loads] at only
    exact State.linkLoaded_rows ((exec _).trans (congrArg _ loads)) only line chan rfl rfl rfl rfl unstalled pends
  · subst eq
    refine ⟨fun stalled => ?_, fun unstalled => ⟨?_, fun f pends => ?_⟩⟩
    · rw [exec, State.linkResponse_loads_stalled phase line rfl d stalled]
      rfl
    · rw [exec, State.linkResponse_loads phase line rfl d unstalled]
      rfl
    · exact State.linkLoaded_faults line
        ((s.answered rest).linkLoaded_chan n (v.loadSegment ([w₀, w₁, w₂] ++ [d]) o)) rfl rfl pends _
  · have chan := s.linkLost_chan rest n
    have fault : ((s.linkLost rest n).chan n).ctl.pendingFault = (s.chan n).ctl.pendingFault := by rw [chan]
    obtain ⟨faulted, code, event⟩ := (s.linkLost rest n).enterFaulted_faulted n
      ((s.chan n).ctl.pendingFault.getD (.of .memoryChain (a + BitVec.ofNat 26 i)))
    have run := (exec .error).trans (congrArg Host.Outcome.next
      ((State.linkResponse_error (s := s.answered rest) phase i).trans (s.failLink_answered rest n a i)))
    refine ⟨fun stalled => ?_, fun unstalled => ⟨?_, faulted, code, ?_⟩⟩
    · rw [run, State.takeAtCompletion_of_stalled (by rw [chan]; exact stalled), fault]
      rfl
    · rw [run, State.takeAtCompletion_of_unstalled (by rw [chan]; exact unstalled), fault]
      rfl
    · exact event.of_faultEvent rfl (by rw [chan]) (by rw [chan]; rfl) (by rw [chan])
  · obtain ⟨unstalled, pends, waits⟩ := free
    have chan := s.linkLost_chan rest n
    obtain ⟨faulted, code, event⟩ := (s.linkLost rest n).enterFaulted_faulted n
      (.of .memoryChain (a + BitVec.ofNat 26 i))
    obtain ⟨v', line', words, -⟩ := (s.linkLost rest n).enterFaulted_touched n
      (.of .memoryChain (a + BitVec.ofNat 26 i)) v (by rw [chan]; exact line)
    have settled : ((s.linkLost rest n).enterFaulted n (.of .memoryChain (a + BitVec.ofNat 26 i))).settle n =
        (s.linkLost rest n).enterFaulted n (.of .memoryChain (a + BitVec.ofNat 26 i)) :=
      State.settle_of_nothing (.inl (by rw [Channel.untaken_of_valid line', words]; exact command))
        (State.enterFaulted_noHeld _ n _)
    have run := (exec .error).trans (congrArg Host.Outcome.next
      ((State.linkResponse_error (s := s.answered rest) phase i).trans (s.failLink_answered rest n a i)))
    rw [State.takeAtCompletion_of_unstalled (by rw [chan]; exact unstalled), chan, pends, Option.getD_none, settled] at run
    refine ⟨_, v', run, line', words, ?_, faulted, code,
      event.of_faultEvent rfl (by rw [chan]) (by rw [chan]; rfl) (by rw [chan]),
      ((s.linkLost rest n).enterFaulted_step n _).mport⟩
    rw [State.enterFaulted_walker _ n (by rw [chan]), chan]

end Sys2Proof.Machine
end

section
/-! PROOFS. The responses of a post group: its end, the freed queue place, and its failure (R83, R149, R151, R153, R154,
R181). -/

namespace Sys2Proof.Machine

/-! ## The end of a stall (R83) -/

section
variable {x : State} {n : ChanId} {ev : Event}

theorem State.stallTransition_of_final (state : (x.chan n).ctl.state = .ending)
    (kind : ev.kind = .terminal ∨ ev.kind = .aborted) : x.stallTransition n ev = x.enterOffFromEnding n := by
  have final : (x.chan n).isFinal ev = true := by
    simp only [Channel.isFinal, state, Bool.and_eq_true, Bool.or_eq_true, beq_iff_eq]
    exact ⟨trivial, kind⟩
  unfold State.stallTransition
  exact if_pos final

theorem State.stallTransition_of_not_final
    (not : ¬ ((x.chan n).ctl.state = .ending ∧ (ev.kind = .terminal ∨ ev.kind = .aborted))) :
    (∀ h, (x.chan n).ctl.heldCompletion = some h →
      x.stallTransition n ev = (x.modCtl n fun k => { k with heldCompletion := none }).heldTransition n h) ∧
    ((x.chan n).ctl.heldCompletion = none → x.stallTransition n ev = x) := by
  have final : ¬ (x.chan n).isFinal ev = true := by
    simp only [Channel.isFinal, Bool.and_eq_true, Bool.or_eq_true, beq_iff_eq]
    exact not
  unfold State.stallTransition
  dsimp only
  rw [if_neg final]
  exact ⟨fun h held => by rw [held], fun none => by rw [none]⟩

theorem State.takePending_of_none (pends : (x.chan n).ctl.pendingFault = none) : x.takePending n = x := by
  unfold State.takePending
  simp only [pends]

theorem State.takePending_of_inFlight (inFlight : (x.chan n).opInFlight = true) : x.takePending n = x := by
  unfold State.takePending
  dsimp only
  split
  · exact if_pos (.inl inFlight)
  · rfl

theorem State.takePending_of_fault {f : PendingFault} (pends : (x.chan n).ctl.pendingFault = some f)
    (idle : (x.chan n).opInFlight = false) (unstalled : (x.chan n).ctl.stalled = none) :
    x.takePending n = x.enterFaulted n f := by
  unfold State.takePending
  simp only [pends]
  exact if_neg (by simp [idle, Channel.isStalled, unstalled])

end

/-- The part at the end of a stall, before the channel acts: the event is in the queue, the slot is empty (R83). -/
def State.unstalled (s : State) (n : ChanId) (ev : Event) : State :=
  (s.modCtl n fun k => { k with stalled := none }).pushEvent ev

theorem State.unstalled_chan (s : State) (n : ChanId) (ev : Event) :
    (s.unstalled n ev).chan n = { s.chan n with ctl := { (s.chan n).ctl with stalled := none } } := by
  rw [State.unstalled, State.pushEvent_chan, State.chan_modCtl_self]

theorem State.endStall_eq (s : State) (n : ChanId) (ev : Event) :
    s.endStall n ev = (((s.unstalled n ev).stallTransition n ev).takePending n).settle n := rfl

/-- After the event the queue may grow further (R83). -/
theorem State.endStall_queue (s : State) (n : ChanId) (ev : Event) :
    ∃ more, (s.endStall n ev).events.queue = s.events.queue ++ ev :: more := by
  have grows : ChannelStep n (s.unstalled n ev) (s.endStall n ev) :=
    (((s.unstalled n ev).stallTransition_step n ev).trans (State.takePending_step _ n)).trans (State.settle_step _ n)
  obtain ⟨more, phase, events, -⟩ := grows.events
  refine ⟨more, ?_⟩
  rw [events, State.unstalled]
  exact (congrArg (· ++ more) (State.pushEvent_queue _ ev)).trans (List.append_assoc s.events.queue [ev] more)

/-! ## The first that waits (R149) -/

/-- In the order of the indices the first hit is the lowest. -/
theorem findSome?_finRange_of_lowest {m : Nat} {β : Type} {f : Fin m → Option β} {n : Fin m} {b : β}
    (before : ∀ j, j < n → f j = none) (here : f n = some b) : (List.finRange m).findSome? f = some b := by
  cases found : (List.finRange m).findSome? f with
  | none => rw [List.findSome?_eq_none_iff.1 found n (List.mem_finRange n)] at here; cases here
  | some c =>
    obtain ⟨l₁, a, l₂, split, hit, earlier⟩ := List.findSome?_eq_some_iff.1 found
    have sorted := List.pairwise_lt_finRange m
    have mem := List.mem_finRange n
    rw [split] at sorted mem
    rcases List.mem_append.1 mem with mem | mem
    · rw [earlier n mem] at here
      cases here
    · rcases List.mem_cons.1 mem with rfl | mem
      · exact hit.symm.trans here
      · have lower := (List.pairwise_cons.1 (List.pairwise_append.1 sorted).2.1).1 n mem
        rw [before a lower] at hit
        cases hit

theorem cellIds_eq_finRange : cellIds = List.finRange 16 := by decide

theorem State.stalledSlot_of_lowest {s : State} {n : ChanId} {ev : Event}
    (before : ∀ m, m < n → (s.chan m).ctl.stalled = none) (here : (s.chan n).ctl.stalled = some ev) :
    s.stalledSlot = some (n, ev) := by
  unfold State.stalledSlot
  rw [chanIds_eq_finRange]
  exact findSome?_finRange_of_lowest (fun m lower => by rw [before m lower]) (by rw [here])

theorem State.stalledSlot_of_none {s : State} (none : ∀ n, (s.chan n).ctl.stalled = none) : s.stalledSlot = .none := by
  unfold State.stalledSlot
  exact List.findSome?_eq_none_iff.2 fun n _ => by rw [none n]

theorem State.waitingCell_of_lowest {s : State} {k : CellId} {o : Occurrence}
    (before : ∀ j, j < k → (s.cell j).held = none ∨ (s.cell j).queuedMark = true) (here : (s.cell k).held = some o)
    (mark : (s.cell k).queuedMark = false) : s.waitingCell = some (k, o) := by
  unfold State.waitingCell
  rw [cellIds_eq_finRange]
  refine findSome?_finRange_of_lowest (fun j lower => ?_) (by rw [here]; exact if_neg (by rw [mark]; decide))
  rcases before j lower with none | marked
  · rw [none]
  · cases (s.cell j).held with
    | none => rfl
    | some o => exact if_pos marked

theorem State.waitingCell_of_none {s : State} (none : ∀ k, (s.cell k).held = none ∨ (s.cell k).queuedMark = true) :
    s.waitingCell = .none := by
  unfold State.waitingCell
  refine List.findSome?_eq_none_iff.2 fun k _ => ?_
  rcases none k with none | marked
  · rw [none]
  · cases (s.cell k).held with
    | none => rfl
    | some o => exact if_pos marked

/-! ## The post claim (R151) -/

/-- The ring and the part let a post go (R151). -/
def State.PostRoom (s : State) : Prop :=
  s.events.occupancy < s.ringSlots ∧ s.events.path = .ok ∧
    (s.mgmt.windowState = .enabled ∨ s.mgmt.windowState = .disabling)

/-- The post claim is raised (R151). -/
def State.postClaimed (s : State) : State :=
  { s with
    events := { s.events with postPhase := .claimed }
    arb := { s.arb with upkeep := s.arb.upkeep ++ [{ kind := .post, age := 0 }] } }

theorem State.postWanted_iff {s : State} (phase : s.events.postPhase = .none) :
    s.postWanted = true ↔ s.PostRoom ∧ s.events.queue ≠ [] := by
  unfold State.postWanted State.PostRoom
  simp only [phase, Bool.and_eq_true, Bool.or_eq_true, beq_iff_eq, decide_eq_true_iff, Bool.not_eq_true',
    List.isEmpty_eq_false_iff]
  tauto

/-- With no post under way the claim is raised where the ring has room and an event waits (R151). -/
theorem State.raisePost_cases {s : State} (phase : s.events.postPhase = .none) :
    (s.PostRoom → s.events.queue ≠ [] → s.raisePost = s.postClaimed) ∧
    (¬ (s.PostRoom ∧ s.events.queue ≠ []) → s.raisePost = s) := by
  have wanted := State.postWanted_iff phase
  exact ⟨fun room some => if_pos (wanted.2 ⟨room, some⟩), fun not => if_neg (wanted.not.2 not)⟩

/-! ## The response (R153) -/

theorem InFlight.row_of_post {e : InFlight} {i : Nat} (o : e.orphan = false) (h : e.owner = .post i) :
    e.row = .postWrite := by
  unfold InFlight.row
  rw [if_neg (by rw [o]; decide), h]

theorem State.exec_postWriteResponse {s : State} {i : Nat} {rest : List InFlight} (r : MemResponse)
    (h : s.Awaits (.post i) rest) :
    exec (.postWriteResponse r) s = .next ((s.answered rest).postResponse r).disableProgress := by
  obtain ⟨e, inflight, owner, orphan⟩ := h
  refine congrArg Host.Outcome.next ?_
  rw [State.respond_of_row _ inflight (InFlight.row_of_post orphan owner)]
  rfl

/-- The post group's phase, of which `phase` stands after a response. -/
def State.postPhased (s : State) (phase : PostPhase) : State := { s with events := { s.events with postPhase := phase } }

/-- The post has ended: no event is in post (R153). -/
def State.postEnded (s : State) : State := { s with events := { s.events with postPhase := .none, inPost := none } }

section
variable {s : State} {left : Nat} (phase : s.events.postPhase = .granted left)
include phase

/-- OKAY of a post, before the last and at the last (R153). -/
theorem State.postResponse_okay (d : Word) :
    (1 < left → s.postResponse (.okay d) = s.postPhased (.granted (left - 1))) ∧
    (left = 1 → s.postResponse (.okay d) = s.endPost) := by
  unfold State.postResponse
  rw [phase]
  exact ⟨fun more => if_neg (Nat.not_le.2 more), fun last => if_pos (Nat.le_of_eq last)⟩

/-- A response after the post has failed only counts (R154). -/
theorem State.postResponse_failed (failed : s.events.inPost = none) (r : MemResponse) :
    (1 < left → s.postResponse r = s.postPhased (.granted (left - 1))) ∧
    (left = 1 → s.postResponse r = s.endPost) := by
  have same : s.failPost = s := by
    unfold State.failPost
    rw [failed]
  unfold State.postResponse
  rw [phase]
  dsimp only
  rw [same, ite_self]
  exact ⟨fun more => if_neg (Nat.not_le.2 more), fun last => if_pos (Nat.le_of_eq last)⟩

end

theorem State.endPost_of_posted {s : State} {p : InPost} (posted : s.events.inPost = some p) :
    s.endPost = s.postEnded.placeFreed := by
  unfold State.endPost
  rw [posted]
  rfl

theorem State.endPost_of_failed {s : State} (failed : s.events.inPost = none) : s.endPost = s.postEnded.raisePost := by
  unfold State.endPost
  rw [failed]
  rfl

/-! ## The freed place (R149) -/

section
variable {s : State}

theorem State.placeFreed_of_stalled {n : ChanId} {ev : Event} (first : s.stalledSlot = some (n, ev)) :
    s.placeFreed = s.endStall n ev := by
  unfold State.placeFreed
  rw [first]

theorem State.placeFreed_of_rejection {ev : Event} (none : s.stalledSlot = .none)
    (held : s.events.heldRejection = some ev) : s.placeFreed = State.raisePost
      { s with events := { s.events with queue := s.events.queue ++ [ev], heldRejection := .none } } := by
  unfold State.placeFreed
  rw [none, held]
  rfl

theorem State.setCell_setCell (s : State) (k : CellId) (c c' : Cell) : (s.setCell k c).setCell k c' = s.setCell k c' := by
  simp [State.setCell]

/-- The event of a held occurrence, with the MERGE it has reached (R130). -/
theorem cellEvent_of_held (k : CellId) (c : Cell) (o : Occurrence) : cellEvent k c o =
    { kind := o.kind.event, source := BitVec.ofNat 4 k.val, word1 := c.address.setWidth 32, detailA := o.detail,
      detailB := if o.kind = .limit ∨ o.kind = .range then o.merge.setWidth 32 else 0#32 } := by
  unfold cellEvent
  cases o.kind <;> rfl

theorem State.placeFreed_of_cell {k : CellId} {o : Occurrence} (none : s.stalledSlot = .none)
    (unheld : s.events.heldRejection = .none) (first : s.waitingCell = some (k, o)) : s.placeFreed = State.raisePost
      (State.setCell
        { s with events := { s.events with queue := s.events.queue ++ [cellEvent k (s.cell k) o] } }
        k { s.cell k with held := .none, queuedMark := true }) := by
  have address : cellEvent k { s.cell k with held := .none } o = cellEvent k (s.cell k) o := rfl
  unfold State.placeFreed
  rw [none, unheld, first]
  dsimp only
  unfold State.enterOccurrence State.pushEvent
  simp only [State.modCell, State.cell_setCell_self, State.setCell_setCell, address]
  rfl

theorem State.placeFreed_of_none (none : s.stalledSlot = .none) (unheld : s.events.heldRejection = .none)
    (free : s.waitingCell = .none) : s.placeFreed = s.raisePost := by
  unfold State.placeFreed
  rw [none, unheld, free]

end

/-! ## The failure (R154) -/

/-- The part after the failure of post p, the group's phase being `phase` then: what R154 lists. -/
def State.postFailed (s : State) (p : InPost) (phase : PostPhase) : State :=
  { s with
    events := { s.events.rollBack p with
      attn := (s.events.rollBack p).attnLevel s.ringSlots
      postPhase := phase }
    mgmt := { s.mgmt with faults := { s.mgmt.faults with eventPathFailed := true } }
    cells := (s.markQueued p.event true).cells }

theorem State.failPost_eq {s : State} {p : InPost} (posted : s.events.inPost = some p) :
    s.failPost = s.postFailed p s.events.postPhase := by
  unfold State.failPost State.postFailed State.markQueued
  rw [posted]
  dsimp only
  cases p.event.cell? <;> rfl

/-- The first ERROR of a post group takes the failure; the last response leaves the phase NONE, and no claim is raised since
the path has failed (R151, R154). -/
theorem State.postResponse_error {s : State} {left : Nat} {p : InPost} (phase : s.events.postPhase = .granted left)
    (posted : s.events.inPost = some p) :
    s.postResponse .error = s.postFailed p (if left ≤ 1 then .none else .granted (left - 1)) := by
  unfold State.postResponse
  rw [phase]
  dsimp only
  rw [if_pos rfl, State.failPost_eq posted]
  by_cases last : left ≤ 1
  · rw [if_pos last, if_pos last, State.endPost_of_failed rfl]
    exact (State.raisePost_cases rfl).2 fun both => nomatch both.1.2.1
  · rw [if_neg last, if_neg last]
    rfl

/-- What the failure does to the cells: the cell of the event in post has its mark again (R130, R154). -/
theorem State.postFailed_cells (s : State) (p : InPost) (phase : PostPhase) :
    (∀ k, p.event.cell? = some k → (s.postFailed p phase).cell k = { s.cell k with queuedMark := true }) ∧
    (∀ j, p.event.cell? ≠ some j → (s.postFailed p phase).cell j = s.cell j) := by
  have cells : ∀ j, (s.postFailed p phase).cell j = (s.markQueued p.event true).cell j := fun j => rfl
  refine ⟨fun k named => ?_, fun j other => ?_⟩
  · rw [cells, State.markQueued, named, State.cell_modCell_self]
  · rw [cells, State.markQueued]
    cases named : p.event.cell? with
    | none => rfl
    | some k => exact State.cell_modCell_other s _ fun same => other (named.trans (congrArg some same.symm))

/-! ## The disable sequence (R181) -/

theorem State.disableProgress_of_idle {t : State} (d1 : t.mgmt.sequence ≠ some .d1) (d2 : t.mgmt.sequence ≠ some .d2) :
    t.disableProgress = t := by
  unfold State.disableProgress State.progressD2
  rw [if_neg fun both => d1 both.1, if_neg fun both => d2 both.1]

/-- A failed event path ends D2 (R154, R181). -/
theorem State.disableProgress_of_failed {t : State} (d2 : t.mgmt.sequence = some .d2) (path : t.events.path = .failed) :
    t.disableProgress = (t.modEvents fun e => { e with intake := .closed }).setSequence (some .d3) := by
  have done : t.postingDone = true := by
    unfold State.postingDone
    rw [path]
    rfl
  unfold State.disableProgress State.progressD2
  rw [if_neg (by rw [d2]; rintro ⟨no, -⟩; cases no), if_pos ⟨d2, done⟩]

/-! ## The two parts of the statement -/

/-- What the response leaves where its last act is the attempt to claim the next post on part u (R151). -/
theorem State.answers_of_raisePost {s u : State} {c : Instr} (run : exec c s = .next u.raisePost.disableProgress)
    (phase : u.events.postPhase = .none) :
    (u.PostRoom → u.events.queue ≠ [] → exec c s = .next u.postClaimed.disableProgress) ∧
    (¬ (u.PostRoom ∧ u.events.queue ≠ []) → exec c s = .next u.disableProgress) := by
  obtain ⟨claims, stays⟩ := State.raisePost_cases phase
  exact ⟨fun room some => run.trans (by rw [claims room some]), fun not => run.trans (by rw [stays not])⟩

theorem State.endStall_spec (n : ChanId) (ev : Event) (s : State) (room : s.events.count < 8) :
    let c := s.chan n
    let pushed := s.unstalled n ev
    let final := c.ctl.state = .ending ∧ (ev.kind = .terminal ∨ ev.kind = .aborted)
    let t := s.endStall n ev
    (∃ more, t.events.queue = s.events.queue ++ ev :: more) ∧
    (final → t = ((pushed.enterOffFromEnding n).takePending n).settle n) ∧
    (∀ h, ¬ final → c.ctl.heldCompletion = some h →
      t = (((pushed.modCtl n fun k => { k with heldCompletion := none }).heldTransition n h).takePending n).settle n) ∧
    (¬ final → c.ctl.heldCompletion = none →
      (c.ctl.pendingFault = none → t = pushed.settle n) ∧
      (∀ f, c.ctl.pendingFault = some f → c.opInFlight = true → t = pushed.settle n) ∧
      (∀ f, c.ctl.pendingFault = some f → c.opInFlight = false → t = (pushed.enterFaulted n f).settle n)) ∧
    s.OnlyChannel n t ∧ t.mport = s.mport := by
  intro c pushed final t
  have chan : pushed.chan n = { c with ctl := { c.ctl with stalled := none } } := s.unstalled_chan n ev
  have ended : t = ((pushed.stallTransition n ev).takePending n).settle n := s.endStall_eq n ev
  have step : ChannelStep n s t := s.endStall_step n ev (s.queueRoom_iff.2 room)
  have rows : ¬ final → _ := fun not => State.stallTransition_of_not_final (x := pushed) (n := n) (ev := ev)
    (by rw [chan]; exact not)
  refine ⟨s.endStall_queue n ev, fun ⟨state, kind⟩ => ?_, fun h not held => ?_, fun not none => ?_, step.onlyChannel,
    step.mport⟩
  · rw [ended, State.stallTransition_of_final (by rw [chan]; exact state) kind]
  · rw [ended, (rows not).1 h (by rw [chan]; exact held)]
  · rw [ended, (rows not).2 (by rw [chan]; exact none)]
    refine ⟨fun pends => ?_, fun f pends inFlight => ?_, fun f pends idle => ?_⟩
    · rw [State.takePending_of_none (by rw [chan]; exact pends)]
    · rw [State.takePending_of_inFlight (by rw [chan]; exact inFlight)]
    · rw [State.takePending_of_fault (by rw [chan]; exact pends) (by rw [chan]; exact idle) (by rw [chan])]

/-- The failure of post p, in the words of the statement (R154, R158, R159, R181). -/
theorem State.postFailed_spec {s t : State} {p : InPost} {left : Nat}
    (is : t = s.postFailed p (if left ≤ 1 then .none else .granted (left - 1))) :
    (s.mgmt.sequence = some .d2 →
      t.disableProgress.mgmt.sequence = some .d3 ∧ t.disableProgress.events.intake = .closed) ∧
    t.events.path = .failed ∧ t.mgmt = { s.mgmt with faults := { s.mgmt.faults with eventPathFailed := true } } ∧
    t.events.producer = p.prevProducer ∧ t.events.nextSequence = p.prevSequence ∧
    t.events.queue = p.event :: s.events.queue ∧ t.events.inPost = none ∧
    t.events.consumer = (if s.events.consumer = p.prevProducer + 1#16 then p.prevProducer else s.events.consumer) ∧
    t.events.restoreOwed = (s.events.restoreOwed || p.restored || s.events.consumer == p.prevProducer + 1#16) ∧
    t.events.attn = t.events.attnLevel s.ringSlots ∧
    (t.events.occupancy = 0 → t.events.holdoff = none) ∧
    (t.events.occupancy ≠ 0 → t.events.holdoff = s.events.holdoff) ∧
    (1 < left → t.events.postPhase = .granted (left - 1)) ∧ (left = 1 → t.events.postPhase = .none) ∧
    (∀ k, p.event.cell? = some k → t.cell k = { s.cell k with queuedMark := true }) ∧
    (∀ j, p.event.cell? ≠ some j → t.cell j = s.cell j) ∧ t.channels = s.channels ∧ t.pass = s.pass ∧
    t.mport = s.mport ∧ t.arb = s.arb ∧ t.out = s.out := by
  subst is
  have consumer : (s.events.rollBack p).consumer =
      if s.events.consumer = p.prevProducer + 1#16 then p.prevProducer else s.events.consumer := by
    unfold EventUnit.rollBack
    simp only [beq_iff_eq]
  obtain ⟨marked, others⟩ := s.postFailed_cells p (if left ≤ 1 then .none else .granted (left - 1))
  refine ⟨fun d2 => ?_, rfl, rfl, rfl, rfl, rfl, rfl, consumer, rfl, rfl, fun empty => if_pos empty,
    fun some => if_neg some, fun more => if_neg (Nat.not_le.2 more), fun last => if_pos (Nat.le_of_eq last), marked,
    others, rfl, rfl, rfl, rfl, rfl⟩
  rw [State.disableProgress_of_failed (t := s.postFailed p (if left ≤ 1 then .none else .granted (left - 1))) d2 rfl]
  exact ⟨rfl, rfl⟩

/-- Settles O50: the responses of a post, by the event in post and the responses left, and the end of a stall. -/
theorem postResponseEndsOrFailsThePost : Obligations.PostResponseEndsOrFailsThePost := by
  refine ⟨fun i left rest s awaits phase => ?_, State.endStall_spec⟩
  have exec := fun r => State.exec_postWriteResponse r awaits
  have okay := fun d => State.postResponse_okay (s := s.answered rest) phase d
  refine ⟨fun p posted => ⟨fun d more => ?_, fun d last => ?_, ?_⟩, fun failed => ⟨fun r more => ?_, fun r last => ?_⟩,
    fun t d1 d2 => State.disableProgress_of_idle d1 d2⟩
  · rw [exec, (okay d).1 more]
    rfl
  · have run := exec (.okay d)
    rw [(okay d).2 last, State.endPost_of_posted (s := s.answered rest) posted] at run
    refine ⟨fun n ev before here => ?_, fun ev none held => ?_, fun k o none unheld before here mark => ?_,
      fun none unheld free => ?_⟩
    · rw [run, State.placeFreed_of_stalled (State.stalledSlot_of_lowest (s := (s.answered rest).postEnded) before here)]
      rfl
    · rw [State.placeFreed_of_rejection (State.stalledSlot_of_none (s := (s.answered rest).postEnded) none) held] at run
      exact State.answers_of_raisePost run rfl
    · rw [State.placeFreed_of_cell (State.stalledSlot_of_none (s := (s.answered rest).postEnded) none) unheld
        (State.waitingCell_of_lowest (s := (s.answered rest).postEnded) before here mark), cellEvent_of_held] at run
      exact State.answers_of_raisePost run rfl
    · rw [State.placeFreed_of_none (State.stalledSlot_of_none (s := (s.answered rest).postEnded) none) unheld
        (State.waitingCell_of_none (s := (s.answered rest).postEnded) free)] at run
      exact State.answers_of_raisePost run rfl
  · refine ⟨_, (exec .error).trans (congrArg (fun t : State => Host.Outcome.next t.disableProgress)
      (State.postResponse_error (s := s.answered rest) phase posted)), ?_⟩
    exact State.postFailed_spec (s := s.answered rest) rfl
  · rw [exec, (State.postResponse_failed (s := s.answered rest) phase failed r).1 more]
    rfl
  · have run := exec r
    rw [(State.postResponse_failed (s := s.answered rest) phase failed r).2 last,
      State.endPost_of_failed (s := s.answered rest) failed] at run
    exact State.answers_of_raisePost run rfl

end Sys2Proof.Machine
end

section
/-! PROOFS. What an occurrence of a cell reads and leaves (R130, R131), the responses of a cell's writes (R129, R132), and the
stepped value of a fetch (R128). -/

namespace Sys2Proof.Machine

/-! ## An occurrence reads the cell, the Event Unit and the Management Unit alone (R130, R131, R148) -/

/-- The two states agree in what an occurrence of cell k reads. -/
structure OccursAlike (k : CellId) (s t : State) : Prop where
  cell : t.cell k = s.cell k
  events : t.events = s.events
  mgmt : t.mgmt = s.mgmt

section
variable {k : CellId} {s t : State}

theorem OccursAlike.modCell (h : OccursAlike k s t) (f : Cell → Cell) : OccursAlike k (s.modCell k f) (t.modCell k f) :=
  ⟨by rw [State.cell_modCell_self, State.cell_modCell_self, h.cell], h.events, h.mgmt⟩

theorem OccursAlike.raisePost (h : OccursAlike k s t) : OccursAlike k s.raisePost t.raisePost := by
  have wanted : t.postWanted = s.postWanted := by
    unfold State.postWanted State.ringSlots
    rw [h.events, h.mgmt]
  unfold State.raisePost
  rw [wanted]
  split
  · exact ⟨h.cell, congrArg (fun e => { e with postPhase := .claimed }) h.events, h.mgmt⟩
  · exact h

theorem OccursAlike.enterOccurrence (h : OccursAlike k s t) (o : Occurrence) :
    OccursAlike k (s.enterOccurrence k o) (t.enterOccurrence k o) := by
  unfold State.enterOccurrence State.pushEvent
  rw [h.cell]
  have marked := h.modCell fun c => { c with queuedMark := true }
  exact OccursAlike.raisePost
    ⟨marked.cell, congrArg (fun e => { e with queue := e.queue ++ [cellEvent k (s.cell k) o] }) marked.events,
      marked.mgmt⟩

theorem OccursAlike.cellOccurs (h : OccursAlike k s t) (kind : OccKind) (d : Word) :
    OccursAlike k (s.cellOccurs k kind d) (t.cellOccurs k kind d) := by
  have inPost : t.cellInPost k = s.cellInPost k := by
    unfold State.cellInPost
    rw [h.events]
  have room : t.queueRoom = s.queueRoom := by
    unfold State.queueRoom
    rw [h.events]
  unfold State.cellOccurs State.NoCells
  rw [h.mgmt, h.events, h.cell, inPost, room]
  split
  · exact h
  · split
    · exact h.modCell _
    · dsimp only
      split
      · exact h.enterOccurrence _
      · exact h.modCell _

end

/-- An occurrence changes the queued mark and the held occurrence of its entry alone. -/
theorem State.cellOccurs_cell (s : State) (k : CellId) (kind : OccKind) (d : Word) :
    ∃ mark held, (s.cellOccurs k kind d).cell k = { s.cell k with queuedMark := mark, held := held } := by
  rcases s.cellOccurs_cases k kind d with h | ⟨o, h⟩ | ⟨o, h⟩
  · exact ⟨_, _, by rw [h]⟩
  · exact ⟨_, _, by rw [h, State.cell_modCell_self]⟩
  · exact ⟨_, _, by rw [h, State.enterOccurrence_cell_self]⟩

theorem State.cellOccurs_onlyPosts (s : State) (k : CellId) (kind : OccKind) (d : Word) :
    s.OnlyPosts (s.cellOccurs k kind d) := by
  rcases s.cellOccurs_cases k kind d with h | ⟨o, h⟩ | ⟨o, h⟩
  · exact .of_arb (by rw [h])
  · exact .of_arb (by rw [h]; rfl)
  · rw [h]
    exact State.raisePost_onlyPosts _

/-! ## The responses of a cell's writes (R129, R132, R169) -/

theorem InFlight.row_of_cellStatus {e : InFlight} {k : CellId} (o : e.orphan = false) (h : e.owner = .cellStatus k) :
    e.row = .cellStatus := by
  unfold InFlight.row
  rw [if_neg (by rw [o]; decide), h]

theorem InFlight.row_of_cellWriteBack {e : InFlight} {k : CellId} (o : e.orphan = false)
    (h : e.owner = .cellWriteBack k) : e.row = .cellWriteBack := by
  unfold InFlight.row
  rw [if_neg (by rw [o]; decide), h]

section
variable {s : State} {k : CellId} {rest : List InFlight} (r : MemResponse)

theorem State.exec_cellStatusWriteResponse (h : s.Awaits (.cellStatus k) rest) :
    exec (.cellStatusWriteResponse r) s =
      .next (if r = .error then (s.answered rest).latchStatusWriteLost else s.answered rest) := by
  obtain ⟨e, inflight, owner, orphan⟩ := h
  exact congrArg Host.Outcome.next (State.respond_of_row _ inflight (InFlight.row_of_cellStatus orphan owner))

theorem State.exec_cellWriteBackResponse (h : s.Awaits (.cellWriteBack k) rest) :
    exec (.cellWriteBackResponse r) s =
      .next (if r = .error then (s.answered rest).cellFault k else s.answered rest) := by
  obtain ⟨e, inflight, owner, orphan⟩ := h
  refine congrArg Host.Outcome.next
    ((State.respond_of_row _ inflight (InFlight.row_of_cellWriteBack orphan owner)).trans ?_)
  rw [owner]
  rfl

end

/-- The M-port and the UPKEEP list are outside what OnlyCell keeps. -/
theorem State.onlyCell_of_claims (s : State) (k : CellId) (m : MPort) (l : List UpkeepClaim) :
    s.OnlyCell k { s with mport := m, arb := { s.arb with upkeep := l } } :=
  ⟨rfl, rfl, rfl, fun _ _ => rfl, ⟨[], s.events.postPhase, by simp⟩, rfl, rfl, rfl, rfl⟩

theorem State.answered_onlyCell (s : State) (k : CellId) (rest : List InFlight) : s.OnlyCell k (s.answered rest) :=
  s.onlyCell_of_claims k _ s.arb.upkeep

/-- Settles O49: only an ERROR acts, as the latch of a status write or as the CELL_FAULT occurrence of a write-back. -/
theorem cellWriteResponses : Obligations.CellWriteResponses := by
  intro k rest s s'
  refine ⟨fun waits => ⟨fun d => State.exec_cellStatusWriteResponse (.okay d) waits,
    State.exec_cellStatusWriteResponse .error waits⟩,
    fun waits => ⟨fun d => State.exec_cellWriteBackResponse (.okay d) waits,
      _, State.exec_cellWriteBackResponse .error waits, rfl, ?_⟩⟩
  have marked := (s.answered rest).cellOccurs_marked k .fault ((s.cell k).address.setWidth 32)
  exact ⟨marked.cstate, State.cellOccurs_atLimit _ k .fault _, (s.answered_onlyCell k rest).trans marked.only,
    marked.mport, marked.mgmt⟩

/-! ## The table of the stepped value (R128) -/

section
variable {f : CellFields} {v : Int}

theorem stepValue_of_outside (h : v < f.low.toNat ∨ f.high.toNat < v) :
    stepValue f v = (if 0 < f.step.toInt then (f.low.toNat : Int) else f.high.toNat, some .range) := if_pos h

section
variable (low : (f.low.toNat : Int) ≤ v) (high : v ≤ f.high.toNat)
include low high

theorem stepValue_of_stays (above : (f.low.toNat : Int) ≤ v + f.step.toInt) (below : v + f.step.toInt ≤ f.high.toNat) :
    stepValue f v = (v + f.step.toInt, none) :=
  (if_neg (by omega)).trans (if_pos ⟨above, below⟩)

theorem stepValue_of_over (beyond : f.high.toNat < v + f.step.toInt) :
    stepValue f v = (if f.saturate then (f.high.toNat : Int)
      else f.low.toNat + (v + f.step.toInt - f.high.toNat - 1) % (f.high.toNat - f.low.toNat + 1), some .limit) :=
  (if_neg (by omega)).trans ((if_neg (fun h => absurd h.2 (Int.not_le.2 beyond))).trans (if_pos beyond))

theorem stepValue_of_under (under : v + f.step.toInt < f.low.toNat) :
    stepValue f v = (if f.saturate then (f.low.toNat : Int)
      else f.high.toNat - (f.low.toNat - (v + f.step.toInt) - 1) % (f.high.toNat - f.low.toNat + 1), some .limit) :=
  (if_neg (by omega)).trans ((if_neg (fun h => absurd h.1 (Int.not_le.2 under))).trans
    (if_neg (by unfold CellFields.stepInt; omega)))

end

/-- The stepped value lies between the bounds. -/
theorem stepValue_bounds (v : Int) (order : f.low.toNat ≤ f.high.toNat) :
    (f.low.toNat : Int) ≤ (stepValue f v).1 ∧ (stepValue f v).1 ≤ f.high.toNat := by
  have wraps : ∀ x : Int, 0 ≤ x % (f.high.toNat - f.low.toNat + 1) ∧
      x % (f.high.toNat - f.low.toNat + 1) ≤ f.high.toNat - f.low.toNat :=
    fun x => ⟨Int.emod_nonneg x (by omega), Int.lt_add_one_iff.1 (Int.emod_lt_of_pos x (by omega))⟩
  by_cases outside : v < f.low.toNat ∨ f.high.toNat < v
  · rw [stepValue_of_outside outside]
    dsimp only
    split <;> omega
  · obtain ⟨low, high⟩ : (f.low.toNat : Int) ≤ v ∧ v ≤ f.high.toNat := by omega
    rcases lt_or_ge (f.high.toNat : Int) (v + f.step.toInt) with beyond | below
    · have wrap := wraps (v + f.step.toInt - f.high.toNat - 1)
      rw [stepValue_of_over low high beyond]
      dsimp only
      split <;> omega
    · rcases lt_or_ge (v + f.step.toInt) (f.low.toNat : Int) with under | above
      · have wrap := wraps (f.low.toNat - (v + f.step.toInt) - 1)
        rw [stepValue_of_under low high under]
        dsimp only
        split <;> omega
      · rw [stepValue_of_stays low high above below]
        exact ⟨above, below⟩

theorem steppedWord_toNat (v : Word) (order : f.low.toNat ≤ f.high.toNat) :
    ((steppedWord f v).toNat : Int) = (stepValue f v.toNat).1 := by
  obtain ⟨low, high⟩ := stepValue_bounds (v.toNat : Int) order
  have width := f.high.isLt
  unfold steppedWord
  rw [BitVec.toNat_ofInt]
  omega

end

/-! ## What a fetch records, by its row of the table (R128) -/

section
variable {s : State} (cells : ¬ s.NoCells) (k : CellId) {f : CellFields} {v : Word}
include cells

theorem State.markAtLimit_of_cells (b : Bool) : s.markAtLimit k b = s.setCell k { s.cell k with atLimit := b } :=
  if_neg cells

theorem State.fetched_of_stays (row : (stepValue f v.toNat).2 = none) :
    s.fetched k f v = s.setCell k { s.cell k with atLimit := false } := by
  unfold State.fetched
  rw [row]
  exact State.markAtLimit_of_cells cells k false

theorem State.fetched_of_limit (row : (stepValue f v.toNat).2 = some .limit) :
    s.fetched k f v =
      if f.evLimit then (s.setCell k { s.cell k with atLimit := true }).cellOccurs k .limit (steppedWord f v)
      else s.setCell k { s.cell k with atLimit := true } := by
  unfold State.fetched
  rw [row, ← State.markAtLimit_of_cells cells]

theorem State.fetched_of_range (row : (stepValue f v.toNat).2 = some .range) :
    s.fetched k f v =
      if f.evRange then (s.setCell k { s.cell k with atLimit := false }).cellOccurs k .range v
      else s.setCell k { s.cell k with atLimit := false } := by
  unfold State.fetched
  rw [row, ← State.markAtLimit_of_cells cells]

end

/-- Where no cell exists, a fetch records nothing (log 18). -/
theorem State.fetched_of_noCells {s : State} (gone : s.NoCells) (k : CellId) (f : CellFields) (v : Word) :
    s.fetched k f v = s := by
  rcases s.fetched_cases k f v with h | ⟨kind, d, h⟩
  · rw [h, State.markAtLimit_of_noCells gone]
  · rw [h, State.markAtLimit_of_noCells gone, State.cellOccurs_of_noCells gone]

/-- Settles O25: the table row by row, its bounds, and what each row lets the fetch record. -/
theorem steppedValueAndItsOccurrence : Obligations.SteppedValueAndItsOccurrence := by
  intro f v k s _ order
  refine ⟨fun gone => State.fetched_of_noCells gone k f v, fun on notE1 => ?_⟩
  have cells : ¬ s.NoCells := not_or.2 ⟨on, notE1⟩
  intro x lo hi st sum span row marked
  obtain ⟨low, high⟩ := stepValue_bounds x order
  refine ⟨fun outside up => ?_, fun outside down => ?_, stepValue_of_stays, fun above below beyond wrap => ?_,
    fun above below beyond sat => ?_, fun above below under wrap => ?_, fun above below under sat => ?_, low, high,
    steppedWord_toNat v order, State.fetched_of_stays cells k, fun limit enabled => ?_, fun limit clear => ?_,
    fun range enabled => ?_, fun range clear => ?_⟩
  · exact (stepValue_of_outside outside).trans (by rw [if_pos up])
  · exact (stepValue_of_outside outside).trans (by rw [if_neg (Int.not_lt.2 (Int.le_of_lt down))])
  · exact (stepValue_of_over above below beyond).trans (by rw [if_neg (by rw [wrap]; decide)])
  · exact (stepValue_of_over above below beyond).trans (by rw [if_pos sat])
  · exact (stepValue_of_under above below under).trans (by rw [if_neg (by rw [wrap]; decide)])
  · exact (stepValue_of_under above below under).trans (by rw [if_pos sat])
  · rw [State.fetched_of_limit cells k limit, if_pos enabled]
  · rw [State.fetched_of_limit cells k limit, if_neg (by rw [clear]; decide)]
  · rw [State.fetched_of_range cells k range, if_pos enabled]
  · rw [State.fetched_of_range cells k range, if_neg (by rw [clear]; decide)]

end Sys2Proof.Machine
end

section
/-! PROOFS. The entry of a cell to OFF or REJECTED (R120 to R122, R125) and the responses of its load (R124). -/

namespace Sys2Proof.Machine

/-! ## The claim of the work that a cell owes (R122) -/

/-- Where no load is owed, at most the status write is claimed. -/
theorem State.cellWork_of_no_load {s : State} {k : CellId} (none : (s.cell k).loadDue = false) :
    s.cellWork k = s ∨ s.cellWork k = s.raise (.cellStatus k) := by
  unfold State.cellWork
  split
  · exact .inl rfl
  · rw [if_neg (by rw [none]; decide)]
    split
    · exact .inr rfl
    · exact .inl rfl

theorem State.raise_onlyCell (s : State) (k : CellId) (u : UpkeepKind) : s.OnlyCell k (s.raise u) :=
  s.onlyCell_of_claims k s.mport _

theorem State.abandonLoad_onlyCell (s : State) (k : CellId) : s.OnlyCell k (s.abandonLoad k) :=
  s.onlyCell_of_claims k _ _

/-! ## An entry that leaves LOADING for OFF or REJECTED (R120, R121, R124 to R126) -/

/-- Entry k has entered `st`, which is neither LOADING nor LIVE: the copy and the at-limit mark stand, status due is set, and
no claim and no read of a load is left. -/
structure CellLeft (k : CellId) (st : CellState) (s t : State) : Prop where
  only : s.OnlyCell k t
  mgmt : t.mgmt = s.mgmt
  mport : t.mport = (s.orphan (Owner.isCellLoad k)).mport
  cstate : (t.cell k).cstate = st
  statusDue : (t.cell k).statusDue = true
  copy : (t.cell k).copy = (s.cell k).copy
  atLimit : (t.cell k).atLimit = (s.cell k).atLimit
  claims : ∀ x ∈ t.arb.upkeep, x.kind ≠ .cellLoad k

theorem CellLeft.of_abandonLoad (s : State) (k : CellId) (st : CellState) :
    CellLeft k st s ((s.abandonLoad k).setCstate k st) := by
  have cell := (s.abandonLoad k).cell_modCell_self k fun c => { c with cstate := st, statusDue := true }
  refine ⟨(s.abandonLoad_onlyCell k).trans (State.setCell_onlyCell _ k _), rfl, rfl, by rw [State.setCstate, cell],
    by rw [State.setCstate, cell], by rw [State.setCstate, cell]; rfl, by rw [State.setCstate, cell]; rfl,
    fun x mem load => ?_⟩
  have kept := (List.mem_filter.1 mem).2
  simp [load] at kept

section
variable {k : CellId} {st : CellState} {s t : State} (h : CellLeft k st s t)
include h

theorem CellLeft.cellOccurs (kind : OccKind) (d : Word) : CellLeft k st s (t.cellOccurs k kind d) := by
  have marked := t.cellOccurs_marked k kind d
  obtain ⟨mark, held, cell⟩ := t.cellOccurs_cell k kind d
  refine ⟨h.only.trans marked.only, marked.mgmt.trans h.mgmt, marked.mport.trans h.mport, by rw [cell]; exact h.cstate,
    by rw [cell]; exact h.statusDue, by rw [cell]; exact h.copy, by rw [cell]; exact h.atLimit, fun x mem => ?_⟩
  rcases t.cellOccurs_onlyPosts k kind d x mem with old | post
  · exact h.claims x old
  · rw [post]
    nofun

theorem CellLeft.cellWork (unowed : ∀ p, st ≠ .loading p) :
    CellLeft k st s (t.cellWork k) ∧ OccursAlike k t (t.cellWork k) := by
  have none : (t.cell k).loadDue = false := by
    unfold Cell.loadDue
    rw [h.cstate]
    split
    · exact absurd rfl (unowed _)
    · rfl
  rcases State.cellWork_of_no_load none with stays | raised
  · rw [stays]
    exact ⟨h, rfl, rfl, rfl⟩
  · rw [raised]
    refine ⟨⟨h.only.trans (t.raise_onlyCell k _), h.mgmt, h.mport, h.cstate, h.statusDue, h.copy, h.atLimit,
      fun x mem => ?_⟩, rfl, rfl, rfl⟩
    rcases List.mem_append.1 mem with old | new
    · exact h.claims x old
    · rw [List.mem_singleton.1 new]
      nofun

end

theorem State.turnCellOff_left (s : State) (k : CellId) : CellLeft k .off s (s.turnCellOff k) :=
  ((CellLeft.of_abandonLoad s k .off).cellWork nofun).1

/-- The part with entry k in REJECTED and the occurrence made of it (R121, R130). -/
def State.rejectionOccurs (s : State) (k : CellId) (r : RejectReason) : State :=
  (s.setCell k { s.cell k with cstate := .rejected r, statusDue := true }).cellOccurs k .rejected (r.code.setWidth 32)

/-- The entry to REJECTED leaves the cell and the Event Unit as its occurrence does. -/
theorem State.rejectCell_left (s : State) (k : CellId) (r : RejectReason) :
    CellLeft k (.rejected r) s (s.rejectCell k r) ∧ OccursAlike k (s.rejectionOccurs k r) (s.rejectCell k r) := by
  have entered := CellLeft.of_abandonLoad s k (.rejected r)
  have alike : OccursAlike k (s.setCell k { s.cell k with cstate := .rejected r, statusDue := true })
      ((s.abandonLoad k).setCstate k (.rejected r)) :=
    ⟨by rw [State.setCstate, State.cell_modCell_self, State.cell_setCell_self]; rfl, rfl, rfl⟩
  have occurs := alike.cellOccurs .rejected (r.code.setWidth 32)
  obtain ⟨left, worked⟩ := (entered.cellOccurs .rejected (r.code.setWidth 32)).cellWork nofun
  exact ⟨left, worked.cell.trans occurs.cell, worked.events.trans occurs.events, worked.mgmt.trans occurs.mgmt⟩

/-- An entry to REJECTED from a part x that agrees with s in what the occurrence reads, in the words of the statements. -/
theorem State.rejectCell_occurs {s x : State} {k : CellId} (alike : OccursAlike k s x) (r : RejectReason) :
    ((x.rejectCell k r).cell k).cstate = .rejected r ∧ (x.rejectCell k r).cell k = (s.rejectionOccurs k r).cell k ∧
    (x.rejectCell k r).events = (s.rejectionOccurs k r).events := by
  obtain ⟨left, occurs⟩ := x.rejectCell_left k r
  have same : OccursAlike k (s.rejectionOccurs k r) (x.rejectionOccurs k r) := by
    unfold State.rejectionOccurs
    exact (alike.modCell fun c => { c with cstate := .rejected r, statusDue := true }).cellOccurs _ _
  exact ⟨left.cstate, occurs.cell.trans same.cell, occurs.events.trans same.events⟩

/-! ## The load (R124) -/

theorem InFlight.row_of_cellLoad {e : InFlight} {k : CellId} {i : Nat} (o : e.orphan = false)
    (h : e.owner = .cellLoad k i) : e.row = .cellLoad := by
  unfold InFlight.row
  rw [if_neg (by rw [o]; decide), h]

theorem State.exec_cellLoadResponse {s : State} {k : CellId} {i : Nat} {rest : List InFlight} (r : MemResponse)
    (h : s.Awaits (.cellLoad k i) rest) :
    exec (.cellLoadResponse r) s = .next ((s.answered rest).cellLoadResponse k r) := by
  obtain ⟨e, inflight, owner, orphan⟩ := h
  refine congrArg Host.Outcome.next ((State.respond_of_row _ inflight (InFlight.row_of_cellLoad orphan owner)).trans ?_)
  rw [owner]
  rfl

section
variable {s : State} {k : CellId} {ws : List Word} {o : CellOverlay}
  (loading : (s.cell k).cstate = .loading (.granted ws o))
include loading

theorem State.cellLoadResponse_okay (d : Word) : s.cellLoadResponse k (.okay d) =
    if ws.length = 2 then s.completeLoad k (ws ++ [d]) o
    else s.modCell k fun c => { c with cstate := .loading (.granted (ws ++ [d]) o) } := by
  unfold State.cellLoadResponse
  rw [loading]

theorem State.cellLoadResponse_error :
    s.cellLoadResponse k .error = (s.endGroup (.upkeep (.cellLoad k))).completeLoad k ws o := by
  unfold State.cellLoadResponse
  rw [loading]

end

/-- With all three words the fields are checked (R124). -/
theorem loadCheck_of_three (w₀ w₁ w₂ : Word) (o : CellOverlay) :
    loadCheck [w₀, w₁, w₂] o = fieldCheck (cellFieldsOf (o.setup.over w₀) (o.low.over w₁) (o.high.over w₂)) := by
  unfold loadCheck fieldCheck loadedFields
  simp

/-- SETUP has returned, and STEP is 0 in it (R124). -/
def ZeroStepRead (ws : List Word) (o : CellOverlay) : Prop :=
  ∃ w, ws.head? = some w ∧ (cellFieldsOf (o.setup.over w) 0#32 0#32).step = 0#8

/-- With a word missing the load is rejected, for the STEP that was read or for the ERROR (R124). -/
theorem loadCheck_of_short {ws : List Word} (o : CellOverlay) (short : ws.length < 3) :
    (ZeroStepRead ws o → loadCheck ws o = some .zeroStep) ∧
    (¬ ZeroStepRead ws o → loadCheck ws o = some .tableReadError) := by
  have zero : (0 < ws.length ∧ (loadedFields ws o).step = 0#8) ↔ ZeroStepRead ws o := by
    unfold ZeroStepRead
    cases ws with
    | nil => simp
    | cons w l => simp [loadedFields, cellFieldsOf]
  unfold loadCheck
  refine ⟨fun read => if_pos (zero.2 read), fun unread => ?_⟩
  rw [if_neg (zero.not.2 unread), if_neg (fun h => by omega), if_pos short]

theorem fieldCheck_of_zero {f : CellFields} (zero : f.step = 0#8) : fieldCheck f = some .zeroStep := if_pos zero

theorem fieldCheck_of_bad {f : CellFields} (step : f.step ≠ 0#8) (bad : f.high.toNat < f.low.toNat) :
    fieldCheck f = some .badBounds := (if_neg step).trans (if_pos bad)

theorem fieldCheck_of_good {f : CellFields} (step : f.step ≠ 0#8) (good : f.low.toNat ≤ f.high.toNat) :
    fieldCheck f = none := (if_neg step).trans (if_neg (Nat.not_lt.2 good))

/-- The entry goes LIVE (R124), the work it owes claimed. -/
structure CellWentLive (k : CellId) (f : CellFields) (s t : State) : Prop where
  only : s.OnlyCell k t
  mgmt : t.mgmt = s.mgmt
  mport : t.mport = s.mport
  events : t.events = s.events
  cell : t.cell k = { s.cell k with cstate := .live f, statusDue := true }

theorem State.goLive_spec (s : State) (k : CellId) (f : CellFields) :
    CellWentLive k f s ((s.setCstate k (.live f)).cellWork k) := by
  have cell := s.cell_modCell_self k fun c => { c with cstate := .live f, statusDue := true }
  have only : s.OnlyCell k (s.setCstate k (.live f)) := s.setCell_onlyCell k _
  have unowed : ((s.setCstate k (.live f)).cell k).loadDue = false := by
    rw [State.setCstate, cell]
    rfl
  rcases State.cellWork_of_no_load unowed with h | h
  · rw [h]
    exact ⟨only, rfl, rfl, rfl, cell⟩
  · rw [h]
    exact ⟨only.trans (State.raise_onlyCell _ k _), rfl, rfl, rfl, cell⟩

theorem State.completeLoad_of_reject {s : State} {ws : List Word} {o : CellOverlay} {r : RejectReason} (k : CellId)
    (check : loadCheck ws o = some r) : s.completeLoad k ws o = s.rejectCell k r := by
  unfold State.completeLoad
  rw [check]

theorem State.completeLoad_of_live {s : State} {ws : List Word} {o : CellOverlay} (k : CellId)
    (check : loadCheck ws o = none) :
    s.completeLoad k ws o = (s.setCstate k (.live (loadedFields ws o))).cellWork k := by
  unfold State.completeLoad
  rw [check]

/-- The oldest access has left the list, and the group of g has ended with it (R15, R142). -/
def State.groupOver (s : State) (rest : List InFlight) (g : GroupSource) : State :=
  { s with mport := { inflight := rest, lock := if s.heldBy g then none else s.mport.lock } }

theorem State.endGroup_answered (s : State) (rest : List InFlight) (g : GroupSource) :
    (s.answered rest).endGroup g = s.groupOver rest g := by
  have holder : (s.answered rest).heldBy g = s.heldBy g := rfl
  unfold State.endGroup State.groupOver
  rw [holder]
  split <;> rfl

/-- Settles O48: the third word is checked with the overlay, and an ERROR rejects whatever has returned. -/
theorem cellLoadResponseChecksTheFields : Obligations.CellLoadResponseChecksTheFields := by
  intro k i rest ws o s waits loading s' rejected
  have only : s.OnlyCell k s' := s.answered_onlyCell k rest
  have okay := fun d => State.cellLoadResponse_okay (s := s.answered rest) loading d
  refine ⟨fun d notLast => ?_, fun w₀ w₁ d two => ?_, fun short => ?_⟩
  · rw [State.exec_cellLoadResponse _ waits, okay, if_neg notLast]
    rfl
  · subst two
    intro f
    have check : loadCheck ([w₀, w₁] ++ [d]) o = fieldCheck f := loadCheck_of_three w₀ w₁ d o
    have run := State.exec_cellLoadResponse (.okay d) waits
    rw [okay, if_pos (show [w₀, w₁].length = 2 from rfl)] at run
    cases verdict : fieldCheck f with
    | some r =>
      rw [State.completeLoad_of_reject k (check.trans verdict)] at run
      have left := (s'.rejectCell_left k r).1
      have alike : OccursAlike k s s' := ⟨rfl, rfl, rfl⟩
      have occurs := State.rejectCell_occurs alike r
      refine ⟨_, run, only.trans left.only, left.mgmt, fun zero => ?_, fun step bad => ?_, fun step good => ?_,
        left.statusDue, left.copy, left.atLimit⟩
      · cases verdict.symm.trans (fieldCheck_of_zero zero)
        exact occurs
      · cases verdict.symm.trans (fieldCheck_of_bad step bad)
        exact occurs
      · cases verdict.symm.trans (fieldCheck_of_good step good)
    | none =>
      rw [State.completeLoad_of_live k (check.trans verdict)] at run
      have live := s'.goLive_spec k f
      refine ⟨_, run, only.trans live.only, live.mgmt, fun zero => ?_, fun step bad => ?_, fun _ _ => ?_, ?_⟩
      · cases verdict.symm.trans (fieldCheck_of_zero zero)
      · cases verdict.symm.trans (fieldCheck_of_bad step bad)
      · exact ⟨congrArg Cell.cstate live.cell, live.mport, live.events⟩
      · exact ⟨congrArg Cell.statusDue live.cell, (congrArg Cell.copy live.cell :), (congrArg Cell.atLimit live.cell :)⟩
  · obtain ⟨zero, unread⟩ := loadCheck_of_short o short
    obtain ⟨r, check⟩ : ∃ r, loadCheck ws o = some r :=
      (em (ZeroStepRead ws o)).elim (fun h => ⟨_, zero h⟩) (fun h => ⟨_, unread h⟩)
    have run := State.exec_cellLoadResponse .error waits
    rw [State.cellLoadResponse_error (s := s.answered rest) loading, State.endGroup_answered,
      State.completeLoad_of_reject k check] at run
    have left := ((s.groupOver rest (.upkeep (.cellLoad k))).rejectCell_left k r).1
    have alike : OccursAlike k s (s.groupOver rest (.upkeep (.cellLoad k))) := ⟨rfl, rfl, rfl⟩
    have occurs := State.rejectCell_occurs alike r
    refine ⟨_, run, (s.onlyCell_of_claims k _ s.arb.upkeep).trans left.only, left.mgmt, fun w head step => ?_,
      fun h => ?_, left.statusDue, left.mport⟩
    · cases check.symm.trans (zero ⟨w, head, step⟩)
      exact occurs
    · cases check.symm.trans (unread h)
      exact occurs

end Sys2Proof.Machine
end

section
/-! PROOFS. The passing writes of a cell record at their grant (R120 to R123, R125, R126). -/

namespace Sys2Proof.Machine

/-! ## Checks 1 and 2 (R121) -/

theorem State.cellDuplicate_iff (s : State) (k : CellId) (a : Addr) : s.cellDuplicate k a = true ↔
    ∃ j, j ≠ k ∧ (s.cell j).isRegistered = true ∧ (s.cell j).address = a := by
  unfold State.cellDuplicate
  simp [List.any_eq_true, mem_cellIds, and_assoc]

/-- The entry's own values are no part of its checks. -/
theorem State.addressCheck_setCell (s : State) (k : CellId) (c : Cell) (a : Addr) :
    (s.setCell k c).addressCheck k a = s.addressCheck k a := by
  have others : (s.setCell k c).cellDuplicate k a = s.cellDuplicate k a := by
    rw [Bool.eq_iff_iff, State.cellDuplicate_iff, State.cellDuplicate_iff]
    refine exists_congr fun j => and_congr_right fun other => ?_
    rw [State.cell_setCell_other s c other]
  unfold State.addressCheck
  rw [others]
  rfl

section
variable {s : State} {k : CellId} {a : Addr}

theorem State.addressCheck_of_inWindow (inside : s.inWindow a = true) : s.addressCheck k a = some .inWindow :=
  if_pos inside

section
variable (outside : s.inWindow a = false)
include outside

theorem State.addressCheck_of_duplicate
    (other : ∃ j, j ≠ k ∧ (s.cell j).isRegistered = true ∧ (s.cell j).address = a) :
    s.addressCheck k a = some .duplicate :=
  (if_neg (by rw [outside]; decide)).trans (if_pos ((s.cellDuplicate_iff k a).2 other))

theorem State.addressCheck_of_free
    (alone : ¬ ∃ j, j ≠ k ∧ (s.cell j).isRegistered = true ∧ (s.cell j).address = a) : s.addressCheck k a = none :=
  (if_neg (by rw [outside]; decide)).trans (if_neg ((s.cellDuplicate_iff k a).not.2 alone))

end

end

/-! ## A load that is owed (R122, R125) -/

theorem State.cellWork_of_due {s : State} {k : CellId} (due : (s.cell k).cstate = .loading .due) :
    s.cellWork k = if s.cellClaimed k then s else
      (s.setCell k { s.cell k with cstate := .loading .claimed }).raise (.cellLoad k) := by
  have owed : (s.cell k).loadDue = true := by
    unfold Cell.loadDue
    rw [due]
  unfold State.cellWork
  rw [owed]
  rfl

/-- A load that is owed is claimed, or waits behind a claim of its cell (R122). -/
theorem State.cellWork_due_cell {s : State} {k : CellId} (due : (s.cell k).cstate = .loading .due) :
    (s.cellWork k).cell k = { s.cell k with cstate := .loading (if s.cellClaimed k then .due else .claimed) } := by
  rw [State.cellWork_of_due due]
  split
  · rw [← due]
  · exact State.cell_setCell_self s k _

theorem State.cellWork_due_upkeep {s : State} {k : CellId} (due : (s.cell k).cstate = .loading .due) :
    (s.cellWork k).arb.upkeep =
      s.arb.upkeep ++ if s.cellClaimed k then [] else [{ kind := .cellLoad k, age := 0 }] := by
  rw [State.cellWork_of_due due]
  split
  · exact (List.append_nil _).symm
  · rfl

/-- Once the load is abandoned, the status write is the only claim that the cell can have. -/
theorem State.cellClaimed_abandonLoad (s : State) (k : CellId) :
    (s.abandonLoad k).cellClaimed k = s.claimed (.cellStatus k) := by
  unfold State.cellClaimed State.claimed State.abandonLoad
  rw [Bool.eq_iff_iff]
  simp only [State.orphan_arb, State.withdraw_arb, Bool.or_eq_true, List.any_eq_true, List.mem_filter, beq_iff_eq,
    Bool.not_eq_true', beq_eq_false_iff_ne]
  constructor
  · rintro (⟨c, ⟨-, left⟩, load⟩ | ⟨c, ⟨mem, -⟩, status⟩)
    · exact absurd load left
    · exact ⟨c, mem, status⟩
  · rintro ⟨c, mem, status⟩
    exact .inr ⟨c, ⟨mem, by rw [status]; nofun⟩, status⟩

/-- A granted load starts again (R125): its reads are orphaned, and it is claimed anew or due behind a status claim. -/
theorem State.restartLoad_of_granted {s : State} {k : CellId} {ws : List Word} {o : CellOverlay}
    (loading : (s.cell k).cstate = .loading (.granted ws o)) :
    (s.restartLoad k).cell k =
      { s.cell k with cstate := .loading (if s.claimed (.cellStatus k) then .due else .claimed) } ∧
    (s.restartLoad k).mport = (s.orphan (Owner.isCellLoad k)).mport ∧
    (s.restartLoad k).arb.upkeep = s.arb.upkeep.filter (fun x => x.kind != .cellLoad k) ++
      if s.claimed (.cellStatus k) then [] else [{ kind := .cellLoad k, age := 0 }] := by
  have restarts : s.restartLoad k =
      ((s.abandonLoad k).setCell k { s.cell k with cstate := .loading .due }).cellWork k := by
    unfold State.restartLoad
    rw [loading]
    rfl
  have cell := (s.abandonLoad k).cell_setCell_self k { s.cell k with cstate := .loading .due }
  have due := congrArg Cell.cstate cell
  have claim : ((s.abandonLoad k).setCell k { s.cell k with cstate := .loading .due }).cellClaimed k =
      s.claimed (.cellStatus k) := s.cellClaimed_abandonLoad k
  rw [restarts]
  refine ⟨?_, (State.cellWork_frame _ k).mport, ?_⟩
  · rw [State.cellWork_due_cell due, claim, cell]
  · rw [State.cellWork_due_upkeep due, claim]
    rfl

theorem State.restartLoad_of_waiting {s : State} {k : CellId}
    (waits : (s.cell k).cstate = .loading .due ∨ (s.cell k).cstate = .loading .claimed) : s.restartLoad k = s := by
  unfold State.restartLoad
  rcases waits with h | h <;> rw [h]

theorem State.restartLoad_loading {s : State} {k : CellId} {p : LoadPhase} (loading : (s.cell k).cstate = .loading p) :
    ∃ q, ((s.restartLoad k).cell k).cstate = .loading q := by
  cases p with
  | due => exact ⟨_, by rw [State.restartLoad_of_waiting (.inl loading)]; exact loading⟩
  | claimed => exact ⟨_, by rw [State.restartLoad_of_waiting (.inr loading)]; exact loading⟩
  | granted ws o => exact ⟨_, congrArg Cell.cstate (State.restartLoad_of_granted loading).1⟩

/-- A commit of an entry that is not LOADING (R121): the mark is clear, status is due, and the load is claimed or waits behind
a claim of its cell. -/
theorem State.beginLoad_spec (s : State) (k : CellId) :
    (s.beginLoad k).cell k = { s.cell k with
      cstate := .loading (if s.cellClaimed k then .due else .claimed), atLimit := false, statusDue := true } ∧
    (s.cellClaimed k = false → { kind := .cellLoad k, age := 0 } ∈ (s.beginLoad k).arb.upkeep) := by
  have cell := s.cell_setCell_self k { s.cell k with cstate := .loading .due, atLimit := false, statusDue := true }
  have due := congrArg Cell.cstate cell
  refine ⟨?_, fun free => ?_⟩
  · refine (State.cellWork_due_cell due).trans ?_
    rw [cell]
    rfl
  · have upkeep := State.cellWork_due_upkeep due
    rw [if_neg (show ¬ State.cellClaimed (s.setCell k _) k = true from Bool.eq_false_iff.1 free)] at upkeep
    exact upkeep ▸ List.mem_append_right _ (List.mem_singleton_self _)

/-! ## What every act on the entry keeps -/

/-- Only cell k, the queue's tail and the claims may differ, and the entry's copy stands. -/
structure CellActs (k : CellId) (s t : State) : Prop where
  only : s.OnlyCell k t
  mgmt : t.mgmt = s.mgmt
  copy : (t.cell k).copy = (s.cell k).copy

theorem CellActs.refl (k : CellId) (s : State) : CellActs k s s := ⟨.refl s k, rfl, rfl⟩

theorem CellActs.trans {k : CellId} {s t u : State} (h : CellActs k s t) (g : CellActs k t u) : CellActs k s u :=
  ⟨h.only.trans g.only, g.mgmt.trans h.mgmt, g.copy.trans h.copy⟩

theorem CellActs.of_modCell {k : CellId} {s : State} {f : Cell → Cell} (h : (f (s.cell k)).copy = (s.cell k).copy) :
    CellActs k s (s.modCell k f) :=
  ⟨s.setCell_onlyCell k _, rfl, by rw [State.cell_modCell_self, h]⟩

theorem CellLeft.acts {k : CellId} {st : CellState} {s t : State} (h : CellLeft k st s t) : CellActs k s t :=
  ⟨h.only, h.mgmt, h.copy⟩

theorem State.cellWork_acts (s : State) (k : CellId) : CellActs k s (s.cellWork k) := by
  unfold State.cellWork
  split
  · exact .refl k s
  · split
    · exact CellActs.trans (.of_modCell rfl) ⟨State.raise_onlyCell _ k _, rfl, rfl⟩
    · split
      · exact ⟨s.raise_onlyCell k _, rfl, rfl⟩
      · exact .refl k s

theorem State.beginLoad_acts (s : State) (k : CellId) : CellActs k s (s.beginLoad k) :=
  CellActs.trans (.of_modCell rfl) (State.cellWork_acts _ k)

theorem State.restartLoad_acts (s : State) (k : CellId) : CellActs k s (s.restartLoad k) := by
  have abandons : CellActs k s (s.abandonLoad k) := ⟨s.abandonLoad_onlyCell k, rfl, rfl⟩
  unfold State.restartLoad
  split
  · exact (abandons.trans (.of_modCell rfl)).trans (State.cellWork_acts _ k)
  · exact .refl k s

/-! ## CELL_ADDR by CSTATE, VALID and ADDRESS (R120, R121, R126) -/

/-- The part after the copy of entry k has taken the written lanes (R120). -/
def State.copyWritten (s : State) (k : CellId) (l : Lanes) (d : Word) : State :=
  s.setCell k { s.cell k with copy := lay l d (s.cell k).copy }

theorem Cell.exists_live_of_isLive {c : Cell} (h : c.isLive = true) : ∃ f, c.cstate = .live f := by
  unfold Cell.isLive at h
  split at h
  · exact ⟨_, ‹_›⟩
  · cases h

theorem Cell.loading_or_unregistered {c : Cell} (h : c.isLive = false) :
    (∃ p, c.cstate = .loading p) ∨ c.isRegistered = false := by
  unfold Cell.isLive at h
  unfold Cell.isRegistered
  cases st : c.cstate with
  | loading p => exact .inl ⟨p, rfl⟩
  | live f => simp only [st, Bool.true_eq_false] at h
  | off => exact .inr rfl
  | rejected r => exact .inr rfl

theorem Cell.isRegistered_eq_false_iff (c : Cell) :
    c.isRegistered = false ↔ c.cstate = .off ∨ ∃ r, c.cstate = .rejected r := by
  unfold Cell.isRegistered
  cases c.cstate <;> simp

section
variable (s : State) (k : CellId) (l : Lanes) (d : Word)

theorem State.cell_copyWritten : (s.copyWritten k l d).cell k = { s.cell k with copy := lay l d (s.cell k).copy } :=
  s.cell_setCell_self k _

theorem State.rejectionOccurs_copyWritten (r : RejectReason) : (s.copyWritten k l d).rejectionOccurs k r =
    (s.setCell k { s.cell k with copy := lay l d (s.cell k).copy, cstate := .rejected r, statusDue := true }).cellOccurs k
      .rejected (r.code.setWidth 32) := by
  unfold State.rejectionOccurs State.copyWritten
  rw [State.setCell_setCell, State.cell_setCell_self]

variable {s k l d}

theorem State.cellAddrWrite_of_off (invalid : validOf (lay l d (s.cell k).copy) = false)
    (off : (s.cell k).cstate = .off) : s.cellAddrWrite k l d = s.copyWritten k l d := by
  unfold State.cellAddrWrite
  simp only [State.cell_modCell_self, off, invalid]
  rfl

theorem State.cellAddrWrite_of_invalid (invalid : validOf (lay l d (s.cell k).copy) = false)
    (on : (s.cell k).cstate ≠ .off) : s.cellAddrWrite k l d = (s.copyWritten k l d).turnCellOff k := by
  unfold State.cellAddrWrite
  simp only [State.cell_modCell_self, invalid]
  rfl

section
variable (valid : validOf (lay l d (s.cell k).copy) = true)
include valid

theorem State.cellAddrWrite_of_live {f : CellFields} (live : (s.cell k).cstate = .live f) :
    s.cellAddrWrite k l d = if field 0 26 (lay l d (s.cell k).copy) = (s.cell k).address then s.copyWritten k l d
      else (s.copyWritten k l d).moveCell k := by
  unfold State.cellAddrWrite
  simp only [State.cell_modCell_self, live, valid]
  rfl

theorem State.cellAddrWrite_of_not_live (rest : (s.cell k).isLive = false) :
    s.cellAddrWrite k l d = (s.copyWritten k l d).commitCell k := by
  unfold State.cellAddrWrite
  unfold Cell.isLive at rest
  cases st : (s.cell k).cstate with
  | live f => simp only [st, Bool.true_eq_false] at rest
  | off => simp only [State.cell_modCell_self, st, valid]; rfl
  | loading p => simp only [State.cell_modCell_self, st, valid]; rfl
  | rejected r => simp only [State.cell_modCell_self, st, valid]; rfl

variable (anew : ¬ ((s.cell k).isLive = true ∧ (s.cell k).address = field 0 26 (lay l d (s.cell k).copy)))
include anew

/-- A check that fails rejects the entry, whether it commits or moves. -/
theorem State.cellAddrWrite_of_rejected {r : RejectReason}
    (check : s.addressCheck k (field 0 26 (lay l d (s.cell k).copy)) = some r) :
    s.cellAddrWrite k l d = (s.copyWritten k l d).rejectCell k r := by
  have checked : (s.copyWritten k l d).addressCheck k ((s.copyWritten k l d).cell k).address = some r := by
    rw [State.cell_copyWritten]
    exact (s.addressCheck_setCell k _ _).trans check
  cases st : (s.cell k).isLive with
  | true =>
    obtain ⟨f, live⟩ := Cell.exists_live_of_isLive st
    rw [State.cellAddrWrite_of_live valid live, if_neg fun same => anew ⟨st, same.symm⟩]
    unfold State.moveCell
    rw [checked]
  | false =>
    rw [State.cellAddrWrite_of_not_live valid st]
    unfold State.commitCell
    rw [checked]

/-- The rejection by a check, in the words of the statements. -/
theorem State.cellAddrWrite_rejects {r : RejectReason}
    (check : s.addressCheck k (field 0 26 (lay l d (s.cell k).copy)) = some r) :
    let c := (s.cellAddrWrite k l d).cell k
    let u := (s.setCell k { s.cell k with
      copy := lay l d (s.cell k).copy, cstate := .rejected r, statusDue := true }).cellOccurs k .rejected
        (r.code.setWidth 32)
    c.cstate = .rejected r ∧ c.statusDue = true ∧ c = u.cell k ∧ (s.cellAddrWrite k l d).events = u.events := by
  obtain ⟨left, occurs⟩ := (s.copyWritten k l d).rejectCell_left k r
  rw [← State.cellAddrWrite_of_rejected valid anew check] at left occurs
  rw [State.rejectionOccurs_copyWritten] at occurs
  exact ⟨left.cstate, left.statusDue, occurs.cell, occurs.events⟩

/-- With both checks passed a LIVE entry moves, a LOADING one goes on or restarts, and another begins its load. -/
theorem State.cellAddrWrite_of_passed (check : s.addressCheck k (field 0 26 (lay l d (s.cell k).copy)) = none) :
    (∀ f, (s.cell k).cstate = .live f → s.cellAddrWrite k l d = s.copyWritten k l d) ∧
    (∀ p, (s.cell k).cstate = .loading p → s.cellAddrWrite k l d = (s.copyWritten k l d).restartLoad k) ∧
    ((s.cell k).isRegistered = false → s.cellAddrWrite k l d = (s.copyWritten k l d).beginLoad k) := by
  have checked : (s.copyWritten k l d).addressCheck k ((s.copyWritten k l d).cell k).address = none := by
    rw [State.cell_copyWritten]
    exact (s.addressCheck_setCell k _ _).trans check
  refine ⟨fun f live => ?_, fun p loading => ?_, fun unregistered => ?_⟩
  · rw [State.cellAddrWrite_of_live valid live,
      if_neg fun same => anew ⟨Cell.isLive_of_live live, same.symm⟩]
    unfold State.moveCell
    rw [checked]
  · rw [State.cellAddrWrite_of_not_live valid (by unfold Cell.isLive; rw [loading])]
    unfold State.commitCell
    rw [checked, State.cell_copyWritten]
    simp only [loading]
  · rw [State.cellAddrWrite_of_not_live valid
      (Bool.eq_false_iff.2 fun live => Bool.eq_false_iff.1 unregistered (Cell.isRegistered_of_isLive live))]
    unfold State.commitCell
    rw [checked, State.cell_copyWritten]
    rcases (Cell.isRegistered_eq_false_iff _).1 unregistered with off | ⟨r, rejected⟩
    · simp only [off]
    · simp only [rejected]

end

variable (s k l d)

/-- All that a passing write of CELL_ADDR can do. -/
theorem State.cellAddrWrite_cases :
    s.cellAddrWrite k l d = s.copyWritten k l d ∨
    (∃ st, (∀ p, st ≠ .loading p) ∧ CellLeft k st (s.copyWritten k l d) (s.cellAddrWrite k l d)) ∨
    s.cellAddrWrite k l d = (s.copyWritten k l d).restartLoad k ∨
    ((s.cell k).isRegistered = false ∧ s.cellAddrWrite k l d = (s.copyWritten k l d).beginLoad k) := by
  cases valid : validOf (lay l d (s.cell k).copy) with
  | false =>
    by_cases off : (s.cell k).cstate = .off
    · exact .inl (State.cellAddrWrite_of_off valid off)
    · rw [State.cellAddrWrite_of_invalid valid off]
      exact .inr (.inl ⟨.off, nofun, State.turnCellOff_left _ k⟩)
  | true =>
    by_cases same : (s.cell k).isLive = true ∧ (s.cell k).address = field 0 26 (lay l d (s.cell k).copy)
    · obtain ⟨f, live⟩ := Cell.exists_live_of_isLive same.1
      exact .inl (by rw [State.cellAddrWrite_of_live valid live, if_pos same.2.symm])
    · cases check : s.addressCheck k (field 0 26 (lay l d (s.cell k).copy)) with
      | some r =>
        rw [State.cellAddrWrite_of_rejected valid same check]
        exact .inr (.inl ⟨.rejected r, nofun, (State.rejectCell_left _ k r).1⟩)
      | none =>
        obtain ⟨moves, restarts, begins⟩ := State.cellAddrWrite_of_passed valid same check
        cases st : (s.cell k).cstate with
        | live f => exact .inl (moves f st)
        | loading p => exact .inr (.inr (.inl (restarts p st)))
        | off =>
          have unregistered := (Cell.isRegistered_eq_false_iff _).2 (.inl st)
          exact .inr (.inr (.inr ⟨unregistered, begins unregistered⟩))
        | rejected r =>
          have unregistered := (Cell.isRegistered_eq_false_iff _).2 (.inr ⟨r, st⟩)
          exact .inr (.inr (.inr ⟨unregistered, begins unregistered⟩))

end

section
variable (s : State) (k : CellId) (l : Lanes) (d : Word)

theorem State.cellAddrWrite_acts : CellActs k (s.copyWritten k l d) (s.cellAddrWrite k l d) := by
  rcases s.cellAddrWrite_cases k l d with copied | ⟨st, -, left⟩ | restarts | ⟨-, begins⟩
  · rw [copied]
    exact .refl k _
  · exact left.acts
  · rw [restarts]
    exact State.restartLoad_acts _ k
  · rw [begins]
    exact State.beginLoad_acts _ k

/-- A load that does not go on is abandoned (R125): no read of it is awaited and no claim of it is left. -/
theorem State.cellAddrWrite_abandons {p : LoadPhase} (loading : (s.cell k).cstate = .loading p)
    (ended : ∀ q, ((s.cellAddrWrite k l d).cell k).cstate ≠ .loading q) :
    (s.cellAddrWrite k l d).mport = (s.orphan (Owner.isCellLoad k)).mport ∧
    ∀ x ∈ (s.cellAddrWrite k l d).arb.upkeep, x.kind ≠ .cellLoad k := by
  have before : ((s.copyWritten k l d).cell k).cstate = .loading p := by
    rw [State.cell_copyWritten]
    exact loading
  rcases s.cellAddrWrite_cases k l d with copied | ⟨st, -, left⟩ | restarts | ⟨unregistered, -⟩
  · rw [copied] at ended
    exact absurd before (ended p)
  · exact ⟨left.mport, left.claims⟩
  · obtain ⟨q, goes⟩ := State.restartLoad_loading before
    rw [restarts] at ended
    exact absurd goes (ended q)
  · unfold Cell.isRegistered at unregistered
    simp only [loading, Bool.true_eq_false] at unregistered

end

/-! ## SETUP, LOW and HIGH (R123, R126) -/

/-- The bits of the SETUP word of an entry's fields (R30). -/
theorem CellFields.setupWord_getLsbD (f : CellFields) {i : Nat} (hi : i < 32) : f.setupWord.getLsbD i =
    (f.step.getLsbD i || f.saturate && decide (i = 8) || f.evLimit && decide (i = 9) || f.evRange && decide (i = 10)) := by
  have flag : ∀ (b : Bool) (n : Nat), (if b then BitVec.twoPow 32 n else 0#32).getLsbD i = (b && decide (i = n)) := by
    intro b n
    cases b with
    | true => simp [hi]
    | false => simp
  have saturate := flag f.saturate 8
  have evLimit := flag f.evLimit 9
  have evRange := flag f.evRange 10
  have step : (f.step.setWidth 32).getLsbD i = f.step.getLsbD i := by simp [hi]
  unfold CellFields.setupWord
  rw [BitVec.getLsbD_or, BitVec.getLsbD_or, BitVec.getLsbD_or, step]
  exact congr (congrArg _ (congr (congrArg _ (congrArg _ saturate)) evLimit)) evRange

/-- The SETUP word of an entry's fields gives these fields again. -/
theorem cellFieldsOf_setupWord (f : CellFields) (low high : Word) :
    cellFieldsOf f.setupWord low high = { f with low := low, high := high } := by
  have noStep : ∀ i, 8 ≤ i → f.step.getLsbD i = false := fun i => BitVec.getLsbD_of_ge f.step i
  have step : field 0 8 f.setupWord = f.step := by
    apply BitVec.eq_of_getLsbD_eq
    intro i hi
    unfold field
    rw [BitVec.getLsbD_extractLsb', Nat.zero_add, f.setupWord_getLsbD (by omega)]
    simp only [hi, decide_true, Bool.true_and, decide_eq_false (show ¬ i = 8 by omega),
      decide_eq_false (show ¬ i = 9 by omega), decide_eq_false (show ¬ i = 10 by omega), Bool.and_false, Bool.or_false]
  have saturate : f.setupWord.getLsbD 8 = f.saturate := by
    rw [f.setupWord_getLsbD (by decide), noStep 8 (by decide)]
    simp
  have evLimit : f.setupWord.getLsbD 9 = f.evLimit := by
    rw [f.setupWord_getLsbD (by decide), noStep 9 (by decide)]
    simp
  have evRange : f.setupWord.getLsbD 10 = f.evRange := by
    rw [f.setupWord_getLsbD (by decide), noStep 10 (by decide)]
    simp
  unfold cellFieldsOf
  rw [step, saturate, evLimit, evRange]
section
variable {s : State} {k : CellId} (w : CellWord) (l : Lanes) (d : Word)

theorem State.cellFieldWrite_of_granted {ws : List Word} {o : CellOverlay}
    (loading : (s.cell k).cstate = .loading (.granted ws o)) : s.cellFieldWrite k w l d =
      s.setCell k { s.cell k with cstate := .loading (.granted ws (o.merge w l d)) } := by
  unfold State.cellFieldWrite
  rw [loading]
  rfl

theorem State.cellFieldWrite_of_live {f : CellFields} (live : (s.cell k).cstate = .live f) :
    (∀ r, (f.write w l d).checkWritten w = some r → CellLeft k (.rejected r) s (s.cellFieldWrite k w l d) ∧
      OccursAlike k (s.rejectionOccurs k r) (s.cellFieldWrite k w l d)) ∧
    ((f.write w l d).checkWritten w = none →
      s.cellFieldWrite k w l d = s.setCell k { s.cell k with cstate := .live (f.write w l d) }) := by
  unfold State.cellFieldWrite
  rw [live]
  refine ⟨fun r bad => ?_, fun good => ?_⟩
  · simp only [bad]
    exact s.rejectCell_left k r
  · simp only [good]
    rfl

theorem State.cellFieldWrite_of_other (notGranted : ∀ ws o, (s.cell k).cstate ≠ .loading (.granted ws o))
    (notLive : ∀ f, (s.cell k).cstate ≠ .live f) : s.cellFieldWrite k w l d = s := by
  unfold State.cellFieldWrite
  split
  · exact absurd ‹_› (notGranted _ _)
  · exact absurd ‹_› (notLive _)
  · rfl

end

/-- The written lanes over the fields of a LIVE entry, word by word. -/
theorem CellFields.write_eq (f : CellFields) (w : CellWord) (l : Lanes) (d : Word) :
    f.write w l d = cellFieldsOf (if w = .setup then lay l d f.setupWord else f.setupWord)
      (if w = .low then lay l d f.low else f.low) (if w = .high then lay l d f.high else f.high) := by
  cases w with
  | setup => rfl
  | low => exact (cellFieldsOf_setupWord f (lay l d f.low) f.high).symm
  | high => exact (cellFieldsOf_setupWord f f.low (lay l d f.high)).symm

/-- What makes a written word reject its LIVE entry (R126). -/
theorem CellFields.checkWritten_eq (f : CellFields) (w : CellWord) :
    f.checkWritten w = if (if w = .setup then f.step = 0#8 else f.high.toNat < f.low.toNat) then
      some (if w = .setup then .zeroStep else .badBounds) else none := by
  cases w <;> rfl

theorem CellOverlay.merge_eq (o : CellOverlay) (w : CellWord) (l : Lanes) (d : Word) :
    o.merge w l d =
      { setup := if w = .setup then o.setup.merge l d else o.setup
        low := if w = .low then o.low.merge l d else o.low
        high := if w = .high then o.high.merge l d else o.high } := by
  cases w <;> rfl

/-- Settles O23: CELL_ADDR by CSTATE, VALID and the checks, the field words by CSTATE and the check that each makes. -/
theorem cellRecordWritesByState : Obligations.CellRecordWritesByState := by
  intro k l d s _ copy a duplicate c orphaned rejected
  have acts := s.cellAddrWrite_acts k l d
  have copied := s.cell_copyWritten k l d
  have turned := congrArg Cell.cstate copied
  refine ⟨acts.copy.trans (congrArg Cell.copy copied),
    fun p loading ended => s.cellAddrWrite_abandons k l d loading ended, fun clear => ?_, fun valid live same => ?_, fun valid anew => ?_,
    (s.setCell_onlyCell k _).trans acts.only, acts.mgmt, fun w => ?_⟩
  · by_cases off : (s.cell k).cstate = .off
    · refine ⟨?_, fun on => absurd off on⟩
      change ((s.cellAddrWrite k l d).cell k).cstate = .off
      rw [State.cellAddrWrite_of_off clear off, turned]
      exact off
    · have left := (s.copyWritten k l d).turnCellOff_left k
      rw [← State.cellAddrWrite_of_invalid clear off] at left
      exact ⟨left.cstate, fun _ => left.statusDue⟩
  · obtain ⟨f, isLive⟩ := Cell.exists_live_of_isLive live
    change ((s.cellAddrWrite k l d).cell k).cstate = (s.cell k).cstate
    rw [State.cellAddrWrite_of_live valid isLive, if_pos same.symm, turned]
  · have before : ((s.copyWritten k l d).cell k).cstate = (s.cell k).cstate := turned
    have rejects : ∀ r, s.addressCheck k a = some r → c.cstate = .rejected r ∧ c.statusDue = true ∧
        rejected { s.cell k with copy := copy } r (r.code.setWidth 32) (s.cellAddrWrite k l d) :=
      fun r check => State.cellAddrWrite_rejects valid anew check
    have passes := fun out alone => State.cellAddrWrite_of_passed valid anew (State.addressCheck_of_free out alone)
    refine ⟨fun inside => rejects _ (State.addressCheck_of_inWindow inside),
      fun out other => rejects _ (State.addressCheck_of_duplicate out other), fun out alone f live => ?_,
      fun out alone rest => ?_, fun out alone waits => ?_, fun ws o out alone granted => ?_,
      fun out alone unregistered => ?_⟩
    · obtain ⟨moves, -, -⟩ := passes out alone
      change ((s.cellAddrWrite k l d).cell k).cstate = .live f
      rw [moves f live, before, live]
    · obtain ⟨-, restarts, begins⟩ := passes out alone
      change ∃ p, ((s.cellAddrWrite k l d).cell k).cstate = .loading p
      rcases Cell.loading_or_unregistered rest with ⟨p, loading⟩ | unregistered
      · rw [restarts p loading]
        exact State.restartLoad_loading (before.trans loading)
      · rw [begins unregistered]
        exact ⟨_, congrArg Cell.cstate ((s.copyWritten k l d).beginLoad_spec k).1⟩
    · obtain ⟨-, restarts, -⟩ := passes out alone
      obtain ⟨p, loading⟩ : ∃ p, (s.cell k).cstate = .loading p := waits.elim (fun h => ⟨_, h⟩) (fun h => ⟨_, h⟩)
      rw [restarts p loading]
      exact State.restartLoad_of_waiting (by rwa [before])
    · obtain ⟨-, restarts, -⟩ := passes out alone
      have spec := State.restartLoad_of_granted (before.trans granted)
      rw [← restarts _ granted, copied] at spec
      exact spec
    · obtain ⟨-, -, begins⟩ := passes out alone
      obtain ⟨cell, claim⟩ := (s.copyWritten k l d).beginLoad_spec k
      rw [← begins unregistered] at cell claim
      refine ⟨congrArg Cell.atLimit cell, congrArg Cell.statusDue cell, fun free => ⟨?_, claim free⟩⟩
      refine (congrArg Cell.cstate cell).trans ?_
      rw [if_neg (show ¬ State.cellClaimed (s.copyWritten k l d) k = true from Bool.eq_false_iff.1 free)]
  · intro t old joined
    refine ⟨fun ws o granted => ?_, fun f live => ?_, State.cellFieldWrite_of_other w l d⟩
    · exact (State.cellFieldWrite_of_granted w l d granted).trans (by rw [CellOverlay.merge_eq]; rfl)
    · intro f' bad
      have check : (f.write w l d).checkWritten w =
          if bad then some (if w = .setup then .zeroStep else .badBounds) else none := by
        rw [CellFields.checkWritten_eq, CellFields.write_eq]
      obtain ⟨rejects, takes⟩ := State.cellFieldWrite_of_live w l d live
      refine ⟨fun good => ?_, fun isBad => ?_⟩
      · exact (takes (check.trans (if_neg good))).trans (by rw [CellFields.write_eq])
      · obtain ⟨left, occurs⟩ := rejects _ (check.trans (if_pos isBad))
        refine ⟨left.cstate, left.statusDue, left.only, left.mgmt, ?_⟩
        by_cases setup : w = .setup
        · rw [if_pos setup] at occurs ⊢
          exact ⟨occurs.cell, occurs.events⟩
        · rw [if_neg setup] at occurs ⊢
          exact ⟨occurs.cell, occurs.events⟩

end Sys2Proof.Machine
end

section
/-! PROOFS. The grant of the post claim (R130, R152, R158, R159). -/

namespace Sys2Proof.Machine

/-- The part at the grant of a post of ev, before its writes leave (R152, R158, R159): the Event Unit, and the queued mark of
the event's cell. -/
def State.postStarted (s : State) (ev : Event) (more : List Event) : State :=
  let e := s.events.postGranted ev more (s.postWrites ev s.events.restoreOwed).length
  { s with
    events := { e with attn := e.attnLevel s.ringSlots }
    cells := (s.markQueued ev false).cells }

theorem State.grantPost_of_claimed {s : State} {ev : Event} {more : List Event} (queue : s.events.queue = ev :: more)
    (claimed : s.events.postPhase = .claimed) : s.grantPost =
      (s.postStarted ev more).startGroup (.upkeep .post) (s.postWrites ev s.events.restoreOwed) none := by
  unfold State.grantPost
  rw [queue, claimed]
  dsimp only
  unfold State.postStarted State.markQueued
  cases ev.cell? <;> rfl

theorem State.postStarted_cells (s : State) (ev : Event) (more : List Event) :
    (∀ k, ev.cell? = some k → (s.postStarted ev more).cell k = { s.cell k with queuedMark := false }) ∧
    (∀ j, ev.cell? ≠ some j → (s.postStarted ev more).cell j = s.cell j) := by
  have cells : ∀ j, (s.postStarted ev more).cell j = (s.markQueued ev false).cell j := fun _ => rfl
  refine ⟨fun k own => ?_, fun j other => ?_⟩
  · rw [cells, State.markQueued, own]
    exact State.cell_modCell_self s k _
  · rw [cells, State.markQueued]
    cases own : ev.cell? with
    | none => rfl
    | some k => exact State.cell_modCell_other s _ fun same => other (by rw [own, same])

/-- Settles O43: the group of the post starts from the Event Unit at the grant. -/
theorem postGrantWritesTheEventAndTheIndex : Obligations.PostGrantWritesTheEventAndTheIndex := by
  intro ev more s h claimed queue p slot writes
  have performed := State.grantPost_of_claimed (s := s.arbitrated (.upkeep .post)) queue claimed
  obtain ⟨t, run, issued⟩ := State.exec_grant_group (s := s) (g := .upkeep .post) h performed
  obtain ⟨own, others⟩ := (s.arbitrated (.upkeep .post)).postStarted_cells ev more
  have events := issued.only.1
  refine ⟨t, run, issued.groupStarted rfl rfl, by rw [events]; rfl, by rw [events]; rfl, by rw [events]; rfl,
    by rw [events]; rfl, ?_, by rw [events]; rfl, by rw [events]; rfl, by rw [events]; rfl, by rw [events]; rfl,
    fun k mine => ?_, fun j other => (issued.cell j).trans (others j other), issued.channels, issued.pass⟩
  · rw [events]
    change PostPhase.granted (s.postWrites ev s.events.restoreOwed).length = _
    unfold State.postWrites
    cases s.events.restoreOwed <;> rfl
  · rw [issued.cell, own k mine]

end Sys2Proof.Machine
end

section
/-! PROOFS. The responses of the enable sequence (R121, R133, R160, R168, R179, R180). -/

namespace Sys2Proof.Machine

/-! ## The row and its operation -/

theorem InFlight.row_of_enable {e : InFlight} {i : Nat} {last : Bool} (o : e.orphan = false)
    (h : e.owner = .enable i last) : e.row = .enableStep := by
  unfold InFlight.row
  rw [if_neg (by rw [o]; decide), h]

theorem State.exec_enableStepResponse {s : State} {e : InFlight} {rest : List InFlight} {i : Nat} {last : Bool}
    (r : MemResponse) (inflight : s.mport.inflight = e :: rest) (o : e.orphan = false) (h : e.owner = .enable i last) :
    exec (.enableStepResponse r) s = .next ((s.answered rest).enableResponse e.kind last r) := by
  refine congrArg Host.Outcome.next ((State.respond_of_row _ inflight (InFlight.row_of_enable o h)).trans ?_)
  rw [h]
  rfl

section
variable {s : State}

theorem State.enableRead_of_e1 (step : s.mgmt.sequence = some .e1) (d : Word) (last : Bool) : s.enableRead d last =
    ((s.modEvents fun e => e.enabledWith (field 0 16 d)).refreshAttn).nextEnableStep .e2 := by
  unfold State.enableRead
  rw [step]

theorem State.enableRead_of_e4 {k : CellId} {ws : List Word} (step : s.mgmt.sequence = some (.e4 k ws)) (d : Word)
    (last : Bool) : s.enableRead d last =
      if last then (s.registerCell k (ws ++ [d])).nextEnableStep (afterE4 k)
      else s.setSequence (some (.e4 k (ws ++ [d]))) := by
  unfold State.enableRead
  rw [step]

theorem State.enableWritten_of_e2 (step : s.mgmt.sequence = some .e2) : s.enableWritten = s.nextEnableStep .e3 := by
  unfold State.enableWritten
  rw [step]

theorem State.enableWritten_of_e3 (step : s.mgmt.sequence = some .e3) :
    s.enableWritten = s.nextEnableStep (.e4 0 []) := by
  unfold State.enableWritten
  rw [step]

theorem State.enableWritten_of_e5 (step : s.mgmt.sequence = some .e5) : s.enableWritten = s.completeEnable := by
  unfold State.enableWritten
  rw [step]

end

theorem State.mem_nextEnableStep (s : State) (q : SeqStep) :
    { kind := .enable, age := 0 } ∈ (s.nextEnableStep q).arb.upkeep :=
  List.mem_append_right _ (List.mem_singleton_self _)

@[simp] theorem State.nextEnableStep_cell (s : State) (q : SeqStep) (k : CellId) :
    (s.nextEnableStep q).cell k = s.cell k := rfl

@[simp] theorem State.nextEnableStep_events (s : State) (q : SeqStep) : (s.nextEnableStep q).events = s.events := rfl

@[simp] theorem State.nextEnableStep_mgmt (s : State) (q : SeqStep) :
    (s.nextEnableStep q).mgmt = { s.mgmt with sequence := some q } := rfl

theorem afterE4_eq : ∀ k : CellId, afterE4 k = if k = 15 then .e5 else .e4 (k + 1) [] := by decide

/-! ## The registration of a cell (R133) -/

/-- Entry k with the copy that E4 read, in `st`, its at-limit mark clear (R133). -/
def State.enrolled (s : State) (k : CellId) (copy : Word) (st : CellState) : State :=
  s.setCell k { s.cell k with copy := copy, cstate := st, atLimit := false }

theorem State.enrolled_modCstate (s : State) (k : CellId) (copy : Word) (st st' : CellState) :
    ((s.enrolled k copy st).modCell k fun c => { c with cstate := st' }) = s.enrolled k copy st' := by
  unfold State.enrolled State.modCell
  rw [State.cell_setCell_self, State.setCell_setCell]

theorem State.enableCheck_enrolled (s : State) (k : CellId) (copy : Word) (st : CellState) (a : Addr) (f : CellFields) :
    (s.enrolled k copy st).enableCheck k a f = s.enableCheck k a f := by
  unfold State.enableCheck State.enrolled
  rw [State.addressCheck_setCell]

section
variable {s : State} {k : CellId} {w₀ w₁ w₂ w₃ : Word}

theorem State.registerCell_of_invalid (invalid : validOf w₀ = false) :
    s.registerCell k [w₀, w₁, w₂, w₃] = s.enrolled k w₀ .off := if_neg (Bool.eq_false_iff.1 invalid)

section
variable (valid : validOf w₀ = true)
include valid

theorem State.registerCell_of_rejected {r : RejectReason}
    (check : s.enableCheck k (addrOf w₀) (cellFieldsOf w₁ w₂ w₃) = some r) : s.registerCell k [w₀, w₁, w₂, w₃] =
      (s.enrolled k w₀ (.rejected r)).cellOccurs k .rejected (r.code.setWidth 32) := by
  have checked := (s.enableCheck_enrolled k w₀ .off _ _).trans check
  refine (if_pos valid).trans ?_
  split
  · rename_i found
    cases checked.symm.trans found
    rw [← s.enrolled_modCstate k w₀ .off]
    rfl
  · rename_i passed
    cases checked.symm.trans passed

theorem State.registerCell_of_live (check : s.enableCheck k (addrOf w₀) (cellFieldsOf w₁ w₂ w₃) = none) :
    s.registerCell k [w₀, w₁, w₂, w₃] = s.enrolled k w₀ (.live (cellFieldsOf w₁ w₂ w₃)) := by
  have checked := (s.enableCheck_enrolled k w₀ .off _ _).trans check
  refine (if_pos valid).trans ?_
  split
  · rename_i found
    cases checked.symm.trans found
  · exact s.enrolled_modCstate k w₀ .off _

end

end

/-- What the registration of cell k leaves (R133). -/
structure CellEnrolled (k : CellId) (copy : Word) (s t : State) : Prop where
  only : s.OnlyCell k t
  mgmt : t.mgmt = s.mgmt
  mport : t.mport = s.mport
  copy : (t.cell k).copy = copy
  atLimit : (t.cell k).atLimit = false

theorem State.cell_enrolled (s : State) (k : CellId) (copy : Word) (st : CellState) :
    (s.enrolled k copy st).cell k = { s.cell k with copy := copy, cstate := st, atLimit := false } :=
  s.cell_setCell_self k _

theorem State.enrolled_spec (s : State) (k : CellId) (copy : Word) (st : CellState) :
    CellEnrolled k copy s (s.enrolled k copy st) :=
  ⟨s.setCell_onlyCell k _, rfl, rfl, congrArg Cell.copy (s.cell_enrolled k copy st),
    congrArg Cell.atLimit (s.cell_enrolled k copy st)⟩

theorem CellEnrolled.cellOccurs {k : CellId} {copy : Word} {s t : State} (h : CellEnrolled k copy s t) (kind : OccKind)
    (d : Word) : CellEnrolled k copy s (t.cellOccurs k kind d) := by
  have marked := t.cellOccurs_marked k kind d
  obtain ⟨mark, held, cell⟩ := t.cellOccurs_cell k kind d
  exact ⟨h.only.trans marked.only, marked.mgmt.trans h.mgmt, marked.mport.trans h.mport,
    (congrArg Cell.copy cell).trans h.copy, (congrArg Cell.atLimit cell).trans h.atLimit⟩

theorem State.registerCell_spec (s : State) (k : CellId) (w₀ w₁ w₂ w₃ : Word) :
    CellEnrolled k w₀ s (s.registerCell k [w₀, w₁, w₂, w₃]) := by
  cases valid : validOf w₀ with
  | false =>
    rw [State.registerCell_of_invalid valid]
    exact s.enrolled_spec k w₀ _
  | true =>
    cases check : s.enableCheck k (addrOf w₀) (cellFieldsOf w₁ w₂ w₃) with
    | some r =>
      rw [State.registerCell_of_rejected valid check]
      exact (s.enrolled_spec k w₀ _).cellOccurs _ _
    | none =>
      rw [State.registerCell_of_live valid check]
      exact s.enrolled_spec k w₀ _

/-- A rejection on a part x that agrees with s in what the occurrence reads, in the words of the statements. -/
theorem State.registerCell_occurs {s x : State} {k : CellId} {w₀ w₁ w₂ w₃ : Word} {r : RejectReason}
    (alike : OccursAlike k s x) (valid : validOf w₀ = true)
    (check : x.enableCheck k (addrOf w₀) (cellFieldsOf w₁ w₂ w₃) = some r) :
    let t := x.registerCell k [w₀, w₁, w₂, w₃]
    let u := (s.enrolled k w₀ (.rejected r)).cellOccurs k .rejected (r.code.setWidth 32)
    (t.cell k).cstate = .rejected r ∧ t.cell k = u.cell k ∧ t.events = u.events := by
  intro t u
  have made : t = (x.enrolled k w₀ (.rejected r)).cellOccurs k .rejected (r.code.setWidth 32) :=
    State.registerCell_of_rejected valid check
  have enrolled : OccursAlike k (s.enrolled k w₀ (.rejected r)) (x.enrolled k w₀ (.rejected r)) :=
    alike.modCell fun c => { c with copy := w₀, cstate := .rejected r, atLimit := false }
  have occurs := enrolled.cellOccurs .rejected (r.code.setWidth 32)
  rw [made]
  exact ⟨(State.cellOccurs_marked _ k _ _).cstate.trans (congrArg Cell.cstate (x.cell_enrolled k w₀ _)), occurs.cell,
    occurs.events⟩

theorem State.enableCheck_of_address {s : State} {k : CellId} {a : Addr} {r : RejectReason}
    (check : s.addressCheck k a = some r) (f : CellFields) : s.enableCheck k a f = some r := by
  unfold State.enableCheck
  rw [check]

theorem State.enableCheck_of_fields {s : State} {k : CellId} {a : Addr} (check : s.addressCheck k a = none)
    (f : CellFields) : s.enableCheck k a f = fieldCheck f := by
  unfold State.enableCheck
  rw [check]

/-! ## The writes (R169, R179, R180) -/

/-- The part after a write of the sequence has returned r (R169). -/
def State.writeReturned (s : State) (r : MemResponse) : State :=
  s.modFaults fun f => { f with statusWriteLost := decide (r = .error ∨ f.statusWriteLost = true) }

theorem State.enableResponse_write (s : State) (last : Bool) (r : MemResponse) : s.enableResponse .write last r =
    if last then (s.writeReturned r).enableWritten else s.writeReturned r := by
  cases r with
  | okay d =>
    have same : s.writeReturned (.okay d) = s := by
      simp [State.writeReturned, State.modFaults, State.modMgmt]
    rw [same]
    rfl
  | error =>
    have latched : s.writeReturned .error = s.latchStatusWriteLost := by
      simp [State.writeReturned, State.latchStatusWriteLost]
    rw [latched]
    rfl

/-- The window becomes ENABLED, and a post that R151 allows is claimed (R180). -/
theorem State.completeEnable_spec (s : State) :
    s.completeEnable.mgmt = { s.mgmt with sequence := none, windowState := .enabled } ∧
    (s.events.queue ≠ [] → s.events.postPhase = .none → s.events.occupancy < s.ringSlots → s.events.path = .ok →
      s.completeEnable.events.postPhase = .claimed) := by
  refine ⟨State.raisePost_mgmt _, fun some phase room path => ?_⟩
  have claims := (State.raisePost_cases (s := (s.setSequence none).setWindowState .enabled) phase).1
    ⟨room, path, .inl rfl⟩ some
  exact congrArg (fun t : State => t.events.postPhase) claims

/-- What the end of a step's writes leaves alone. -/
structure WritesEnded (s t : State) : Prop where
  faults : t.mgmt.faults = s.mgmt.faults
  channels : t.channels = s.channels
  cells : t.cells = s.cells
  pass : t.pass = s.pass
  mport : t.mport = s.mport
  out : t.out = s.out

theorem State.enableWritten_spec (s : State) : WritesEnded s s.enableWritten := by
  unfold State.enableWritten
  split
  · exact ⟨rfl, rfl, rfl, rfl, rfl, rfl⟩
  · exact ⟨rfl, rfl, rfl, rfl, rfl, rfl⟩
  · exact ⟨by rw [s.completeEnable_spec.1], State.raisePost_channels _, State.raisePost_cells _,
      State.raisePost_pass _, State.raisePost_mport _, State.raisePost_out _⟩
  · exact ⟨rfl, rfl, rfl, rfl, rfl, rfl⟩

/-! ## A read's ERROR (R168) -/

theorem State.failEnable_cell (s : State) (k : CellId) : s.failEnable.cell k = .reset := State.cell_mapCells _ _ k

theorem State.failEnable_mport (s : State) (rest : List InFlight) : (s.answered rest).failEnable.mport =
    ((s.groupOver rest (.upkeep .enable)).orphan Owner.ofEnableOrCell).mport :=
  congrArg (fun t : State => (t.orphan Owner.ofEnableOrCell).mport) (s.endGroup_answered rest (.upkeep .enable))

/-- What a failed enable leaves alone, and the values that the Event Unit and the Management Unit take. -/
structure EnableFailed (s t : State) : Prop where
  mgmt : t.mgmt = { s.mgmt with windowState := .disabled, enable := false, sequence := none,
                                faults := { s.mgmt.faults with enableReadError := true } }
  events : t.events = .reset
  channels : t.channels = s.channels
  pass : t.pass = s.pass
  out : t.out = s.out

theorem State.failEnable_spec (s : State) : EnableFailed s s.failEnable := by
  unfold State.failEnable State.endGroup
  split <;> exact ⟨rfl, rfl, rfl, rfl, rfl⟩

/-- Settles O52: each step's responses, and a read's ERROR. -/
theorem enableStepResponses : Obligations.EnableStepResponses := by
  intro e rest i last s inflight orphan owner s' claims
  have exec := fun r => State.exec_enableStepResponse r inflight orphan owner
  refine ⟨fun d read step => ?_, fun d k ws read step notLast => ?_, fun d k w₀ w₁ w₂ read step isLast on => ?_,
    fun read => ?_, fun r write => ?_⟩
  · have run := exec (.okay d)
    rw [read] at run
    refine ⟨_, run.trans (congrArg Host.Outcome.next (State.enableRead_of_e1 (s := s') step d last)), ⟨rfl,
      State.mem_nextEnableStep _ _, rfl, rfl, rfl, rfl⟩, rfl, rfl⟩
  · rw [exec, read]
    exact congrArg Host.Outcome.next
      ((State.enableRead_of_e4 (s := s') step d last).trans (if_neg (by rw [notLast]; decide)))
  · intro f a duplicate rejected
    have run := exec (.okay d)
    rw [read] at run
    have spec := s'.registerCell_spec k w₀ w₁ w₂ d
    obtain ⟨pass, -, channels, others, -, -, -, -, out⟩ := spec.only
    have rejects : ∀ {r}, w₀.getLsbD 31 = true → s'.enableCheck k a f = some r →
        rejected r (r.code.setWidth 32) ((s'.registerCell k [w₀, w₁, w₂, d]).nextEnableStep (afterE4 k)) :=
      fun valid check => State.registerCell_occurs ⟨rfl, rfl, rfl⟩ valid check
    have fields : s.inWindow a = false → ¬ duplicate → s'.enableCheck k a f = fieldCheck f := fun out alone =>
      State.enableCheck_of_fields (s := s') (State.addressCheck_of_free out alone) f
    refine ⟨(s'.registerCell k [w₀, w₁, w₂, d]).nextEnableStep (afterE4 k),
      run.trans (congrArg Host.Outcome.next ((State.enableRead_of_e4 (s := s') step d last).trans (if_pos isLast))),
      ⟨?_, State.mem_nextEnableStep _ _, channels, pass, spec.mport, out⟩, spec.copy, spec.atLimit, others,
      fun invalid => ?_, fun valid inside => ?_, fun valid out other => ?_, fun valid out alone zero => ?_,
      fun valid out alone step bad => ?_, fun valid out alone step good => ?_⟩
    · rw [State.nextEnableStep_mgmt, spec.mgmt, afterE4_eq]
    · have off := State.registerCell_of_invalid (s := s') (k := k) (w₁ := w₁) (w₂ := w₂) (w₃ := d) invalid
      rw [State.nextEnableStep_cell, State.nextEnableStep_events, off, State.cell_enrolled]
      exact ⟨rfl, rfl⟩
    · exact rejects valid (State.enableCheck_of_address (s := s') (State.addressCheck_of_inWindow inside) f)
    · exact rejects valid (State.enableCheck_of_address (s := s') (State.addressCheck_of_duplicate out other) f)
    · exact rejects valid ((fields out alone).trans (fieldCheck_of_zero zero))
    · exact rejects valid ((fields out alone).trans (fieldCheck_of_bad step bad))
    · have live := State.registerCell_of_live valid ((fields out alone).trans (fieldCheck_of_good step good))
      rw [State.nextEnableStep_cell, State.nextEnableStep_events, live, State.cell_enrolled]
      exact ⟨rfl, rfl⟩
  · have run := exec .error
    rw [read] at run
    have failed := s'.failEnable_spec
    refine ⟨_, run, failed.mgmt, failed.events, fun k => ?_, failed.channels, failed.pass, failed.out, ?_, ?_⟩
    · rw [State.cell_reset]
      exact s'.failEnable_cell k
    · exact congrArg MPort.lock (s.failEnable_mport rest)
    · exact congrArg MPort.inflight (s.failEnable_mport rest)
  · intro lost
    have run := exec r
    rw [write, State.enableResponse_write] at run
    cases last with
    | false =>
      exact ⟨_, run, rfl, rfl, rfl, rfl, rfl, rfl, fun _ => ⟨rfl, rfl, rfl⟩, nofun, nofun, nofun⟩
    | true =>
      rw [if_pos rfl] at run
      have ended := ((s.answered rest).writeReturned r).enableWritten_spec
      refine ⟨_, run, ended.faults, ended.channels, ended.cells, ended.pass, ended.mport, ended.out, nofun,
        fun _ e2 => ?_, fun _ e3 => ?_, fun _ e5 => ?_⟩
      · rw [State.enableWritten_of_e2 (s := (s.answered rest).writeReturned r) e2]
        exact ⟨rfl, rfl, rfl⟩
      · rw [State.enableWritten_of_e3 (s := (s.answered rest).writeReturned r) e3]
        exact ⟨rfl, rfl, rfl⟩
      · obtain ⟨mgmt, claims⟩ := ((s.answered rest).writeReturned r).completeEnable_spec
        rw [State.enableWritten_of_e5 (s := (s.answered rest).writeReturned r) e5, mgmt]
        exact ⟨rfl, rfl, claims⟩

end Sys2Proof.Machine
end

section
/-! PROOFS. The order of choice, and the issue of a group's later accesses (R138, R139, R142, R144). -/

namespace Sys2Proof.Machine

/-! ## The eligible claims (R138) -/

/-- A PASS claim that will be served from a copy is eligible without room. -/
theorem State.eligiblePass_eq_some_iff {s : State} {e : PassEntry} : s.eligiblePass = some e ↔
    s.passClaim = some e ∧ (s.mport.inflight.length < 4 ∨ (s.served? e.request).isSome = true) := by
  unfold State.eligiblePass
  cases claim : s.passClaim with
  | none => simp
  | some head =>
    rw [Option.ite_none_right_eq_some, Bool.or_eq_true, State.hasRoom_iff, and_comm]
    exact and_congr_right fun same => by rw [Option.some.inj same]

/-- The BREAK claim found first is that of the lowest channel number. -/
theorem State.eligibleBreak_eq_some_iff {s : State} {n : ChanId} : s.eligibleBreak = some n ↔
    s.mport.inflight.length < 4 ∧ (s.chan n).breakClaimed = true ∧
      ∀ m, m < n → (s.chan m).breakClaimed = false := by
  unfold State.eligibleBreak
  rw [Option.ite_none_right_eq_some, State.hasRoom_iff, chanIds_eq_finRange, ← Fin.find?_eq_find?_finRange,
    Fin.find?_eq_some_iff]

theorem State.eligibleUpkeep_eq_some_iff {s : State} {c : UpkeepClaim} : s.eligibleUpkeep = some c ↔
    s.mport.inflight.length < 4 ∧ ∃ r, s.arb.upkeep = c :: r := by
  unfold State.eligibleUpkeep
  rw [Option.ite_none_right_eq_some, State.hasRoom_iff, List.head?_eq_some_iff]

/-- The aged claim of step 1 is the first of age 16 in the order of the list. -/
theorem State.agedUpkeep_eq_some_iff {s : State} {c : UpkeepClaim} : s.agedUpkeep = some c ↔
    s.mport.inflight.length < 4 ∧ c.age = 16 ∧
      ∃ l r, s.arb.upkeep = l ++ c :: r ∧ ∀ d ∈ l, d.age ≠ 16 := by
  unfold State.agedUpkeep Config.agedAt
  rw [Option.ite_none_right_eq_some, State.hasRoom_iff, List.find?_eq_some_iff_append]
  simp only [beq_iff_eq, Bool.not_eq_true', beq_eq_false_iff_ne]

theorem State.agedUpkeep_eq_none_of_no_aged {s : State}
    (h : ¬ (s.mport.inflight.length < 4 ∧ ∃ c ∈ s.arb.upkeep, c.age = 16)) : s.agedUpkeep = none := by
  rw [Option.eq_none_iff_forall_ne_some]
  intro c found
  obtain ⟨room, age, l, r, split, -⟩ := State.agedUpkeep_eq_some_iff.1 found
  exact h ⟨room, c, by rw [split]; exact List.mem_append_cons_self, age⟩

/-! ## The five steps (R139) -/

theorem State.breakFirst_iff {s : State} :
    s.breakFirst = true ↔ s.eligiblePass = none ∨ s.arb.breakRun < s.mgmt.breakRunLimit.toNat := by
  rw [State.breakFirst, Bool.or_eq_true, Option.isNone_iff_eq_none, decide_eq_true_iff]

/-- Step 1. -/
theorem State.choose_of_aged {s : State} {c : UpkeepClaim} (aged : s.agedUpkeep = some c) :
    s.choose = some (.upkeep c.kind) := by
  rw [State.choose, aged]

/-- Step 2. Its condition holds wherever no PASS claim is eligible, so no BREAK claim is left for step 4. -/
theorem State.choose_of_break {s : State} {n : ChanId} (young : s.agedUpkeep = none) (brk : s.eligibleBreak = some n)
    (first : s.breakFirst = true) : s.choose = some (.brk n) := by
  rw [State.choose, young, brk]
  cases pass : s.eligiblePass with
  | none => rfl
  | some e => exact if_pos first

/-- Step 3. -/
theorem State.choose_of_pass {s : State} {e : PassEntry} (young : s.agedUpkeep = none) (pass : s.eligiblePass = some e)
    (next : s.eligibleBreak = none ∨ ¬ s.breakFirst = true) : s.choose = some (.pass e) := by
  rw [State.choose, young, pass]
  cases brk : s.eligibleBreak with
  | none => rfl
  | some n => exact if_neg (next.resolve_left (by rw [brk]; nofun))

/-- Step 5. -/
theorem State.choose_of_no_break_no_pass {s : State} (young : s.agedUpkeep = none) (brk : s.eligibleBreak = none)
    (pass : s.eligiblePass = none) : s.choose = s.eligibleUpkeep.map fun c => .upkeep c.kind := by
  rw [State.choose, young, brk, pass]

/-- Settles O11: each clause gives the eligible claims of the steps before it, and the step that finds its claim. -/
theorem orderOfChoice : Obligations.OrderOfChoice := by
  intro s room aged brk pass
  have breakOf : ∀ {n}, s.eligibleBreak = some n ↔ brk n := State.eligibleBreak_eq_some_iff
  have passOf : ∀ {e}, s.eligiblePass = some e ↔ pass e := State.eligiblePass_eq_some_iff
  have young : ¬ aged → s.agedUpkeep = none := State.agedUpkeep_eq_none_of_no_aged
  have noBreak : (¬ ∃ n, brk n) → s.eligibleBreak = none := fun absent =>
    Option.eq_none_iff_forall_ne_some.2 fun n found => absent ⟨n, breakOf.1 found⟩
  have noPass : (¬ ∃ e, pass e) → s.eligiblePass = none := fun absent =>
    Option.eq_none_iff_forall_ne_some.2 fun e found => absent ⟨e, passOf.1 found⟩
  refine ⟨fun l c r free split before age => ?_, fun n notAged claimed first => ?_, fun e notAged claimed next => ?_,
    fun c r notAged idle empty free split => ?_, fun empty rest => ?_⟩
  · exact State.choose_of_aged (State.agedUpkeep_eq_some_iff.2 ⟨free, age, l, r, split, before⟩)
  · exact State.choose_of_break (young notAged) (breakOf.2 claimed) (State.breakFirst_iff.2 (first.imp_left noPass))
  · have present := passOf.2 claimed
    refine State.choose_of_pass (young notAged) present (next.imp noBreak fun spent first => ?_)
    exact spent ((State.breakFirst_iff.1 first).resolve_left (by rw [present]; nofun))
  · rw [State.choose_of_no_break_no_pass (young notAged) (noBreak idle) (noPass empty),
      State.eligibleUpkeep_eq_some_iff.2 ⟨free, r, split⟩]
    rfl
  · have nothing : ¬ aged ∧ (¬ ∃ n, brk n) ∧ s.eligibleUpkeep = none := by
      rcases rest with full | ⟨idle, noClaim⟩
      · exact ⟨fun ⟨free, _⟩ => full free, fun ⟨_, free, _⟩ => full free,
          Option.eq_none_iff_forall_ne_some.2 fun c found => full (State.eligibleUpkeep_eq_some_iff.1 found).1⟩
      · refine ⟨fun ⟨_, c, present, _⟩ => ?_, idle, ?_⟩
        · rw [noClaim] at present
          exact List.not_mem_nil present
        · rw [State.eligibleUpkeep, noClaim, List.head?_nil, ite_self]
    obtain ⟨notAged, idle, noUpkeep⟩ := nothing
    rw [State.choose_of_no_break_no_pass (young notAged) (noBreak idle) (noPass empty), noUpkeep]
    rfl

/-! ## The later accesses of a group (R142, R144) -/

theorem exec_groupAccessIssue (s : State) : exec .groupAccessIssue s = .next s.issueNext := rfl

/-- The released access at the front leaves, and the lock stays for what the group still has to do. -/
theorem State.issueNext_of_released {s : State} {g : Group} {a : Access} {rest : List Access}
    (lock : s.mport.lock = some g) (todo : g.todo = a :: rest) (room : s.mport.inflight.length < 4) :
    s.issueNext = { s.issue a with mport := { (s.issue a).mport with
      lock := if rest = [] ∧ g.fetch = none then none else some { g with todo := rest } } } := by
  simp only [State.issueNext, lock, todo, if_pos (s.hasRoom_iff.2 room), Bool.and_eq_true, List.isEmpty_iff,
    Option.isNone_iff_eq_none]

theorem State.issueNext_of_free {s : State} (lock : s.mport.lock = none) : s.issueNext = s := by
  rw [State.issueNext, lock]

theorem State.issueNext_of_unreleased {s : State} {g : Group} (lock : s.mport.lock = some g) (todo : g.todo = []) :
    s.issueNext = s := by
  simp only [State.issueNext, lock, todo]

theorem State.issueNext_of_full {s : State} (full : 4 ≤ s.mport.inflight.length) : s.issueNext = s := by
  have room : ¬ s.hasRoom = true := by
    rw [State.hasRoom_iff]
    omega
  cases lock : s.mport.lock with
  | none => exact State.issueNext_of_free lock
  | some g =>
    cases todo : g.todo with
    | nil => exact State.issueNext_of_unreleased lock todo
    | cons a rest => simp only [State.issueNext, lock, todo, if_neg room]

/-- Settles O19: the row is issueNext, by the lock, the accesses that are released and the room. -/
theorem groupAccessIssueSendsTheNextAccess : Obligations.GroupAccessIssueSendsTheNextAccess := by
  intro s
  refine ⟨fun g a rest lock todo room => ?_, fun blocked => ?_⟩
  · rw [exec_groupAccessIssue, State.issueNext_of_released lock todo room]
    rfl
  · have unchanged : s.issueNext = s := by
      rcases blocked with free | ⟨g, lock, todo⟩ | full
      · exact State.issueNext_of_free free
      · exact State.issueNext_of_unreleased lock todo
      · exact State.issueNext_of_full full
    rw [exec_groupAccessIssue, unchanged]

end Sys2Proof.Machine
end

section
/-! PROOFS. The ring law under every step, and the passing writes of CONSUMER and ATTENTION at their grant (R148, R150, R151,
R152, R155, R157 to R159, R162). -/

namespace Sys2Proof.Machine

/-- Settles O6: the ring law is one that each command and each tick keeps. It takes PostLaw and AtRest with it, since a post
that is granted raises the occupancy by one, and an enable starts from a ring at rest. -/
theorem everyStepKeepsTheRingLaw : Obligations.EveryStepKeepsTheRingLaw :=
  fun _ _ caps law h => (step_keepsLaws h).ring caps law

/-! ## What an operation of the ring's words leaves alone -/

/-- The parts that a value of CONSUMER does not reach. -/
structure RingFrame (s t : State) : Prop where
  pass : t.pass = s.pass
  mport : t.mport = s.mport
  breakRun : t.arb.breakRun = s.arb.breakRun
  channels : t.channels = s.channels
  cells : t.cells = s.cells
  out : t.out = s.out

theorem RingFrame.refl (s : State) : RingFrame s s := ⟨rfl, rfl, rfl, rfl, rfl, rfl⟩

theorem RingFrame.trans {s t u : State} (h : RingFrame s t) (k : RingFrame t u) : RingFrame s u :=
  ⟨k.pass.trans h.pass, k.mport.trans h.mport, k.breakRun.trans h.breakRun, k.channels.trans h.channels,
    k.cells.trans h.cells, k.out.trans h.out⟩

theorem State.modEvents_ring (s : State) (f : EventUnit → EventUnit) : RingFrame s (s.modEvents f) :=
  ⟨rfl, rfl, rfl, rfl, rfl, rfl⟩

theorem State.raisePost_ring (s : State) : RingFrame s s.raisePost :=
  ⟨s.raisePost_pass, s.raisePost_mport, s.raisePost_breakRun, s.raisePost_channels, s.raisePost_cells, s.raisePost_out⟩

theorem State.withdrawFullPost_ring (s : State) : RingFrame s s.withdrawFullPost := by
  obtain ⟨pass, mport, run, -, channels, cells, -, -, -, out⟩ := s.withdrawFullPost_frame
  exact ⟨pass, mport, run, channels, cells, out⟩

/-- The withdrawal of a post claim changes the post phase alone of the Event Unit (R151; log 11). -/
theorem State.withdrawFullPost_events_eq (s : State) :
    s.withdrawFullPost.events = { s.events with postPhase := s.withdrawFullPost.events.postPhase } := by
  unfold State.withdrawFullPost
  split <;> rfl

theorem State.withdrawFullPost_mgmt (s : State) : s.withdrawFullPost.mgmt = s.mgmt := by
  unfold State.withdrawFullPost
  split <;> rfl

/-! ## A value that passes the acceptance rule (R155) -/

/-- The occupancy is 0 just where the indices agree (R147). -/
theorem EventUnit.occupancy_eq_zero_iff (e : EventUnit) : e.occupancy = 0 ↔ e.producer = e.consumer := by
  unfold EventUnit.occupancy
  bv_omega

/-- The Event Unit after an accepted value c of CONSUMER, its post phase being `phase` then (R155, R158, R159). -/
def EventUnit.accepted (e : EventUnit) (c : RingIndex) (bothLanes : Bool) (slots : Nat) (phase : PostPhase) :
    EventUnit :=
  let taken : EventUnit :=
    { e with
      consumer := c
      restoreOwed := if bothLanes then false else e.restoreOwed
      holdoff := if e.producer = c then none else some 0
      postPhase := phase }
  { taken with attn := taken.attnLevel slots }

/-- A value at most N behind PRODUCER becomes CONSUMER; the post claim follows the occupancy (R151, R155; log 11). -/
theorem State.takeConsumer_of_accepted {s : State} {c : RingIndex} (h : (s.events.producer - c).toNat ≤ s.ringSlots)
    (bothLanes : Bool) :
    (∃ phase, (s.takeConsumer c bothLanes).events = s.events.accepted c bothLanes s.ringSlots phase) ∧
    (s.takeConsumer c bothLanes).mgmt = s.mgmt ∧ RingFrame s (s.takeConsumer c bothLanes) := by
  let u := s.modEvents fun e =>
    EventUnit.restartHoldoff { e with consumer := c, restoreOwed := if bothLanes then false else e.restoreOwed }
  have taken : s.takeConsumer c bothLanes = u.withdrawFullPost.raisePost.refreshAttn :=
    if_pos ((s.acceptsConsumer_iff c).2 h)
  have mgmt : u.withdrawFullPost.raisePost.mgmt = s.mgmt := by
    rw [State.raisePost_mgmt, State.withdrawFullPost_mgmt]
    rfl
  have holdoff : u.events.holdoff = if s.events.producer = c then none else some 0 :=
    if_congr (EventUnit.occupancy_eq_zero_iff _) rfl rfl
  rw [taken]
  refine ⟨⟨u.withdrawFullPost.raisePost.events.postPhase, ?_⟩, mgmt,
    (((s.modEvents_ring _).trans u.withdrawFullPost_ring).trans (State.raisePost_ring _)).trans
      (State.modEvents_ring _ _)⟩
  have slots : u.withdrawFullPost.raisePost.ringSlots = s.ringSlots := by
    unfold State.ringSlots
    rw [mgmt]
  unfold State.refreshAttn EventUnit.accepted
  rw [State.modEvents_events, slots, State.raisePost_events_eq, State.withdrawFullPost_events_eq, ← holdoff]
  rfl

/-! ## A value that does not (R150, R155) -/

/-- A rejection's event reaches the queue with the post phase, or the held rejection (R148, R150). -/
theorem State.createRejection_frame (s : State) (ev : Event) :
    (∃ queue held phase, (s.createRejection ev).events =
      { s.events with queue := queue, heldRejection := held, postPhase := phase }) ∧
    (s.createRejection ev).mgmt = s.mgmt ∧ RingFrame s (s.createRejection ev) := by
  unfold State.createRejection
  split
  · exact ⟨⟨_, _, _, rfl⟩, rfl, .refl s⟩
  · split
    · exact ⟨⟨_, _, _, rfl⟩, rfl, .refl s⟩
    · split
      · exact ⟨⟨_, _, _, State.raisePost_events_eq _⟩, State.raisePost_mgmt _,
          (s.modEvents_ring _).trans (State.raisePost_ring _)⟩
      · exact ⟨⟨_, _, _, rfl⟩, rfl, s.modEvents_ring _⟩

/-- Where a rejection's event goes: the queue while it has room, else the held rejection (R148, R150). -/
theorem State.createRejection_created {s : State} (opened : s.events.intake = .opened)
    (unheld : s.events.heldRejection = none) (ev : Event) :
    (s.events.count < 8 →
      (s.createRejection ev).events.queue = s.events.queue ++ [ev] ∧
      (s.createRejection ev).events.heldRejection = none) ∧
    (¬ s.events.count < 8 →
      (s.createRejection ev).events.queue = s.events.queue ∧
      (s.createRejection ev).events.heldRejection = some ev) := by
  have room := s.queueRoom_iff
  have placed : s.createRejection ev =
      if s.queueRoom then s.pushEvent ev else s.modEvents fun e => { e with heldRejection := some ev } := by
    unfold State.createRejection
    rw [if_neg (by rw [opened]; nofun), if_neg (by rw [unheld]; nofun)]
  rw [placed]
  refine ⟨fun h => ?_, fun h => ?_⟩
  · rw [if_pos (room.2 h)]
    refine ⟨s.pushEvent_queue ev, ?_⟩
    unfold State.pushEvent
    rw [State.raisePost_events_eq]
    exact unheld
  · rw [if_neg (room.not.2 h)]
    exact ⟨rfl, rfl⟩

/-- Intake CLOSED, or a rejection that is held already, lets none be created (R148, R150). -/
theorem State.createRejection_of_refused {s : State}
    (h : s.events.intake = .closed ∨ s.events.heldRejection.isSome = true) (ev : Event) :
    s.createRejection ev = s := by
  unfold State.createRejection
  split
  · rfl
  · rename_i opened
    exact if_pos (h.resolve_left opened)

/-- The part with the restore owed and RING_MISUSE latched (R155, R169). -/
def State.misused (s : State) : State := (s.modEvents fun e => { e with restoreOwed := true }).latchRingMisuse

theorem State.takeConsumer_of_rejected {s : State} {c : RingIndex} (h : ¬ (s.events.producer - c).toNat ≤ s.ringSlots)
    (bothLanes : Bool) :
    s.takeConsumer c bothLanes = s.misused.createRejection (consumerRejectedEvent c s.events.consumer) :=
  if_neg ((s.acceptsConsumer_iff c).not.2 h)

/-! ## The passing writes -/

/-- A granted recovery read is marked overtaken (R162). -/
def State.overtakenNoted (s : State) : State :=
  { s with events := { s.events with overtaken := s.events.recovery == .granted || s.events.overtaken } }

theorem State.consumerWrite_eq (s : State) (l : Lanes) (d : Word) :
    s.consumerWrite l d = s.overtakenNoted.takeConsumer (field 0 16 (lay l d (s.events.consumer.setWidth 32)))
      (l.getLsbD 0 && l.getLsbD 1) := by
  have noted : (if s.events.recovery = .granted then s.modEvents fun e => { e with overtaken := true } else s) =
      s.overtakenNoted := by
    unfold State.overtakenNoted
    split
    · rename_i granted
      rw [beq_iff_eq.2 granted]
      rfl
    · rename_i not
      rw [beq_eq_false_iff_ne.2 not]
      rfl
  unfold State.consumerWrite
  rw [noted]
  rfl

/-- A write of ATTENTION takes its lanes into the copy, and ATTN follows (R157, R159). -/
theorem State.attentionWrite_eq (s : State) (l : Lanes) (d : Word) :
    let e := { s.events with attention := attentionOf (lay l d s.events.attention.word) }
    s.attentionWrite l d = { s with events := { e with attn := e.attnLevel s.ringSlots } } := rfl

/-- Settles O22: CONSUMER by the acceptance rule, on the part where the recovery read is noted; ATTENTION by its copy. -/
theorem ringControlWritesAtTheirGrant : Obligations.RingControlWritesAtTheirGrant := by
  intro l d s c t u a
  have written : t = s.overtakenNoted.takeConsumer c (l.getLsbD 0 && l.getLsbD 1) := s.consumerWrite_eq l d
  by_cases accepts : (s.events.producer - c).toNat ≤ s.ringSlots
  · obtain ⟨⟨phase, events⟩, mgmt, frame⟩ :=
      State.takeConsumer_of_accepted (s := s.overtakenNoted) accepts (l.getLsbD 0 && l.getLsbD 1)
    rw [← written] at events mgmt frame
    refine ⟨fun _ => ⟨?_, ?_, ?_, ?_, mgmt, ?_, ?_⟩, fun rejects => absurd accepts rejects, ?_, frame.pass, frame.mport,
      frame.breakRun, frame.channels, frame.cells, frame.out, s.attentionWrite_eq l d⟩ <;> (rw [events]; rfl)
  · rw [State.takeConsumer_of_rejected (s := s.overtakenNoted) accepts] at written
    let ev := consumerRejectedEvent c s.events.consumer
    have created := State.createRejection_created (s := s.overtakenNoted.misused) (ev := ev)
    have refused := State.createRejection_of_refused (s := s.overtakenNoted.misused) (ev := ev)
    obtain ⟨⟨queue, held, phase, events⟩, mgmt, frame⟩ := s.overtakenNoted.misused.createRejection_frame ev
    rw [show s.overtakenNoted.misused.createRejection ev = t from written.symm] at created refused events mgmt frame
    refine ⟨fun h => absurd h accepts, fun _ => ⟨?_, ?_, ?_, ?_, mgmt, created, fun h =>
      ⟨congrArg (·.events.queue) (refused h), congrArg (·.events.heldRejection) (refused h)⟩⟩, ?_, frame.pass, frame.mport,
      frame.breakRun, frame.channels, frame.cells, frame.out, s.attentionWrite_eq l d⟩ <;> (rw [events]; rfl)

end Sys2Proof.Machine
end

section
/-! PROOFS. The disable sequence's advance (R181), and WINDOW_CONTROL: what a frame sets, starts and is refused (R175 to R179,
R181, R183). -/

namespace Sys2Proof.Machine

/-! ## The disable sequence's advance (R148, R181) -/

/-- No line has a writeback claimed, granted or requested: what ends D1 (R181). -/
def State.NoWriteback (s : State) : Prop :=
  ∀ n v, (s.chan n).line = .valid v → v.wbPhase = .none ∧ v.requested = none

/-- The event path has failed, or nothing waits to be posted: what ends D2 (R181). -/
def State.Posted (s : State) : Prop :=
  s.events.path = .failed ∨
  (s.events.queue = [] ∧ s.events.inPost = none ∧ s.events.postPhase = .none ∧
   (∀ n, (s.chan n).ctl.stalled = none) ∧ s.events.heldRejection = none ∧ ∀ k, (s.cell k).held = none)

theorem all_chanIds_iff (p : ChanId → Bool) : chanIds.all p = true ↔ ∀ n, p n = true :=
  List.all_eq_true.trans ⟨fun h n => h n (mem_chanIds n), fun h n _ => h n⟩

theorem all_cellIds_iff (p : CellId → Bool) : cellIds.all p = true ↔ ∀ k, p k = true :=
  List.all_eq_true.trans ⟨fun h k => h k (mem_cellIds k), fun h k _ => h k⟩

theorem Channel.writebackBusy_eq_false_iff (c : Channel) :
    c.writebackBusy = false ↔ ∀ v, c.line = .valid v → v.wbPhase = .none ∧ v.requested = none := by
  unfold Channel.writebackBusy
  split
  · rename_i v line
    rw [line]
    simp
  · rename_i invalid
    exact ⟨fun _ v line => absurd line (invalid v), fun _ => rfl⟩

theorem State.linesQuiet_iff (s : State) : s.linesQuiet = true ↔ s.NoWriteback := by
  unfold State.linesQuiet State.NoWriteback
  simp only [all_chanIds_iff, Bool.not_eq_true', Channel.writebackBusy_eq_false_iff]

theorem Channel.isStalled_eq_false_iff (c : Channel) : c.isStalled = false ↔ c.ctl.stalled = none := by
  unfold Channel.isStalled
  exact Option.isSome_eq_false_iff.trans Option.isNone_iff_eq_none

theorem State.postingDone_iff (s : State) : s.postingDone = true ↔ s.Posted := by
  unfold State.postingDone State.Posted
  simp only [Bool.or_eq_true, Bool.and_eq_true, beq_iff_eq, List.isEmpty_iff, Option.isNone_iff_eq_none, all_chanIds_iff,
    all_cellIds_iff, Bool.not_eq_true', Channel.isStalled_eq_false_iff, and_assoc]

/-- The part where D2 has ended: Intake is CLOSED, and the sequence waits for its boundary (R148, R181, R182). -/
def State.disableEnded (s : State) : State :=
  { s with events := { s.events with intake := .closed }, mgmt := { s.mgmt with sequence := some .d3 } }

theorem State.disableProgress_of_d2 {s : State} (d2 : s.mgmt.sequence = some .d2) :
    (s.Posted → s.disableProgress = s.disableEnded) ∧ (¬ s.Posted → s.disableProgress = s) := by
  have inD2 : s.disableProgress = s.progressD2 := if_neg (by rw [d2]; rintro ⟨no, -⟩; cases no)
  rw [inD2]
  exact ⟨fun posted => if_pos ⟨d2, s.postingDone_iff.2 posted⟩,
    fun waits => if_neg fun both => waits (s.postingDone_iff.1 both.2)⟩

theorem State.disableProgress_of_d1 {s : State} (d1 : s.mgmt.sequence = some .d1) :
    (¬ s.NoWriteback → s.disableProgress = s) ∧
    (s.NoWriteback → ¬ s.Posted → s.disableProgress = { s with mgmt := { s.mgmt with sequence := some .d2 } }) ∧
    (s.NoWriteback → s.Posted → s.disableProgress = s.disableEnded) := by
  have quiet : s.NoWriteback → s.disableProgress = (s.setSequence (some .d2)).progressD2 := fun none =>
    if_pos ⟨d1, s.linesQuiet_iff.2 none⟩
  refine ⟨fun busy => ?_, fun none waits => ?_, fun none posted => ?_⟩
  · unfold State.disableProgress
    rw [if_neg fun both => busy (s.linesQuiet_iff.1 both.2)]
    exact if_neg (by rw [d1]; rintro ⟨no, -⟩; cases no)
  · rw [quiet none]
    exact if_neg fun both => waits (s.postingDone_iff.1 both.2)
  · rw [quiet none]
    exact if_pos ⟨rfl, s.postingDone_iff.2 posted⟩

/-! ## The triggers of D1 (R54, R181) -/

/-- What a trigger of any channel leaves of the part, and the claims that stand. -/
theorem State.triggerWriteback_frame (s : State) (n : ChanId) (w : WbServes) :
    FlushFrame s (s.triggerWriteback n w) := by
  have step := s.triggerWriteback_step n w
  exact ⟨step.mgmt, step.cells, s.triggerWriteback_events n w, step.mport, step.pass, (s.triggerWriteback_leaves n w).2,
    s.triggerWriteback_claims n w⟩

/-- The triggers of several channels that serve w, one after the other. -/
def State.triggers (s : State) (l : List ChanId) (w : WbServes) : State :=
  l.foldl (fun s n => s.triggerWriteback n w) s

/-- What the triggers do to channel m: a writeback is claimed where a word is dirty and none is under way, with the words as
they were (R54); the controller stands. -/
structure LineTriggered (m : ChanId) (s t : State) : Prop where
  claims : ∀ v, (s.chan m).line = .valid v → v.wbPhase = .none → v.dirty.any = true →
    ∃ v', (t.chan m).line = .valid v' ∧ v'.wbPhase = .claimed ∧ v'.words = v.words ∧
      { kind := .writeback m, age := 0 } ∈ t.arb.upkeep
  ctl : (t.chan m).ctl = (s.chan m).ctl

theorem State.triggerWriteback_lineTriggered (s : State) (m : ChanId) (w : WbServes) :
    LineTriggered m s (s.triggerWriteback m w) := by
  refine ⟨fun v line phase dirty => ?_, s.triggerWriteback_ctl m w⟩
  rw [State.triggerWriteback_of_dirty line phase dirty]
  exact ⟨{ v with wbPhase := .claimed, serves := w }, by rw [State.chan_raise, State.chan_setChan_self], rfl, rfl,
    List.mem_append_right _ (List.mem_singleton_self _)⟩

/-- What the triggers do to channel m is seen from every state with that channel, at every later one with the claims. -/
theorem LineTriggered.congr {m : ChanId} {s s' t t' : State} (h : LineTriggered m s t) (before : s'.chan m = s.chan m)
    (after : t'.chan m = t.chan m) (claims : ∀ c ∈ t.arb.upkeep, c ∈ t'.arb.upkeep) : LineTriggered m s' t' := by
  refine ⟨fun v line phase dirty => ?_, by rw [after, before, h.ctl]⟩
  obtain ⟨v', line', phase', words, claim⟩ := h.claims v (by rw [← before, line]) phase dirty
  exact ⟨v', by rw [after, line'], phase', words, claims _ claim⟩

theorem State.triggers_spec (l : List ChanId) (once : l.Nodup) (w : WbServes) (s : State) :
    FlushFrame s (s.triggers l w) ∧ (∀ m, m ∉ l → (s.triggers l w).chan m = s.chan m) ∧
    ∀ m ∈ l, LineTriggered m s (s.triggers l w) := by
  induction l generalizing s with
  | nil => exact ⟨⟨rfl, rfl, rfl, rfl, rfl, rfl, fun _ mem => mem⟩, fun _ _ => rfl, nofun⟩
  | cons a l ih =>
    obtain ⟨fresh, once⟩ := List.nodup_cons.1 once
    obtain ⟨frame, others, triggered⟩ := ih once (s.triggerWriteback a w)
    have other : ∀ m, m ≠ a → (s.triggerWriteback a w).chan m = s.chan m := (s.triggerWriteback_step a w).others
    refine ⟨(s.triggerWriteback_frame a w).trans frame, fun m mem => ?_, fun m mem => ?_⟩
    · obtain ⟨ne, mem⟩ := not_or.1 (List.mem_cons.not.1 mem)
      exact (others m mem).trans (other m ne)
    · rcases List.mem_cons.1 mem with rfl | mem
      · exact (s.triggerWriteback_lineTriggered m w).congr rfl (others m fresh) frame.claims
      · exact (triggered m mem).congr (other m fun eq => fresh (eq ▸ mem)).symm rfl fun _ mem => mem

/-- The part in DISABLING, with D1 begun and nothing ordered yet (R178, R181). -/
def State.inD1 (s : State) : State :=
  { s with mgmt := { s.mgmt with windowState := .disabling, sequence := some .d1 } }

/-- The part where D1 has ordered its writebacks (R181). -/
def State.disableStarted (s : State) : State := s.inD1.triggers chanIds .forDisable

theorem State.startDisable_eq (s : State) : s.startDisable = s.disableStarted.disableProgress := by
  unfold State.startDisable State.disableStarted State.triggers
  rfl

theorem State.disableStarted_spec (s : State) :
    FlushFrame s.inD1 s.disableStarted ∧ ∀ m, LineTriggered m s s.disableStarted := by
  unfold State.disableStarted
  obtain ⟨frame, -, triggered⟩ := State.triggers_spec chanIds chanIds_nodup .forDisable s.inD1
  exact ⟨frame, fun m => (triggered m (mem_chanIds m)).congr rfl rfl fun _ mem => mem⟩

/-! ## The judgement of a WINDOW_CONTROL frame (R176 to R178, R183) -/

theorem State.channelsAtRest_iff (s : State) :
    s.channelsAtRest = true ↔ ∀ n, (s.chan n).ctl.state = .off ∨ (s.chan n).ctl.state = .faulted := by
  unfold State.channelsAtRest
  simp only [all_chanIds_iff, Bool.or_eq_true, beq_iff_eq]

/-- ENABLE makes a change that the window state forbids (R178): a change back in a sequence, and a disable with a channel that
is not at rest. -/
theorem State.enableForbidden_iff (s : State) (enable : Bool) :
    s.enableForbidden enable = true ↔
      (s.mgmt.windowState = .enabling ∧ enable = false) ∨ (s.mgmt.windowState = .disabling ∧ enable = true) ∨
      (s.mgmt.windowState = .enabled ∧ enable = false ∧
        ¬ ∀ n, (s.chan n).ctl.state = .off ∨ (s.chan n).ctl.state = .faulted) := by
  unfold State.enableForbidden
  rw [← s.channelsAtRest_iff]
  cases s.mgmt.windowState <;> cases enable <;> simp

/-- A WINDOW_CONTROL frame that the state refuses (R177, R178, R183). -/
theorem State.stateForbids_windowControl_iff (s : State) (data : Word) :
    s.stateForbids .windowControl data = true ↔
      s.mgmt.softWaiting = true ∨ (ringSizeField data ≠ s.mgmt.ringSize ∧ s.mgmt.windowState ≠ .disabled) ∨
      s.enableForbidden (enableBit data) = true := by
  unfold State.stateForbids
  simp only [Bool.or_eq_true, Bool.and_eq_true, bne_iff_ne]

/-- ENABLE 1 is refused in DISABLING, and with another RING_SIZE outside DISABLED (R177, R178). -/
theorem State.stateForbids_enable_iff {s : State} {data : Word} (soft : s.mgmt.softWaiting = false)
    (bit : data.getLsbD 0 = true) : s.stateForbids .windowControl data = true ↔
      s.mgmt.windowState = .disabling ∨ (s.mgmt.windowState ≠ .disabled ∧ ringSizeField data ≠ s.mgmt.ringSize) := by
  rw [State.stateForbids_windowControl_iff, State.enableForbidden_iff, soft, show enableBit data = true from bit]
  simp only [Bool.false_eq_true, Bool.true_eq_false, and_false, false_and, and_true, false_or, or_false]
  tauto

/-- ENABLE 0 is refused in ENABLING, in ENABLED with a channel that is not at rest, and with another RING_SIZE outside
DISABLED (R177, R178). -/
theorem State.stateForbids_disable_iff {s : State} {data : Word} (soft : s.mgmt.softWaiting = false)
    (bit : data.getLsbD 0 = false) : s.stateForbids .windowControl data = true ↔
      s.mgmt.windowState = .enabling ∨
      (s.mgmt.windowState = .enabled ∧ ¬ ∀ n, (s.chan n).ctl.state = .off ∨ (s.chan n).ctl.state = .faulted) ∨
      (s.mgmt.windowState ≠ .disabled ∧ ringSizeField data ≠ s.mgmt.ringSize) := by
  rw [State.stateForbids_windowControl_iff, State.enableForbidden_iff, soft, show enableBit data = false from bit]
  simp only [Bool.false_eq_true, and_false, and_true, true_and, false_or]
  tauto

/-- Good values of WINDOW_CONTROL: a RING_SIZE code that names a size, and a BREAK_RUN that is not 0 (R176). -/
def GoodControl (data : Word) : Prop := (ringSizeField data).toNat ≤ 4 ∧ breakRunField data ≠ 0#4

theorem WriteReg.accepts_windowControl {data : Word} (good : GoodControl data) :
    WriteReg.windowControl.accepts data = true := by
  simp [WriteReg.accepts, good.1, good.2]

/-- The command c is a WINDOW_CONTROL frame that carries this word (R175, R176). -/
def WindowFrame (c : Instr) (data : Word) : Prop := ∀ s, exec c s = .next (s.shiftOut.writeFrame 0x02#8 data)

theorem windowFrame_enableWindow {data : Word} (h : data.getLsbD 0 = true) : WindowFrame (.enableWindow data) data :=
  fun s => congrArg Host.Outcome.next (if_pos (c := enableBit data = true) (t := s.takeFrame 0x02#8 0x02#8 data) h)

theorem windowFrame_disableWindow {data : Word} (h : data.getLsbD 0 = false) :
    WindowFrame (.disableWindow data) data := fun s =>
  congrArg Host.Outcome.next
    (if_neg (c := enableBit data = true) (e := s.takeFrame 0x02#8 0x02#8 data) (Bool.not_eq_true _ ▸ h))

/-- A frame that the state refuses: the response alone changes (R175). -/
def State.WindowNak (s : State) (c : Instr) : Prop :=
  ∃ t, exec c s = .next t ∧
    t.mgmt = { s.mgmt with response := { status := .nakState, data := 0#32 }, frame := [] } ∧
    t.events = s.events ∧ t.arb = s.arb ∧ t.channels = s.channels ∧ t.cells = s.cells

theorem WindowFrame.nak {c : Instr} {data : Word} {s : State} (frame : WindowFrame c data) (good : GoodControl data)
    (forbidden : s.stateForbids .windowControl data = true) : s.WindowNak c := by
  have judged : s.shiftOut.judgeWrite 0x02#8 data = .error .nakState := by
    change (if !WriteReg.windowControl.accepts data then _ else if s.stateForbids .windowControl data then _ else _) = _
    rw [WriteReg.accepts_windowControl good, forbidden]
    rfl
  refine ⟨s.shiftOut.respondFrame .nakState 0#32, ?_, rfl, rfl, rfl, rfl, rfl⟩
  rw [frame s, State.writeFrame, judged]

/-- The part where a frame has set the four fields and its ACK is held, the old response being shifted out (R175, R177). -/
def State.controlSet (s : State) (data : Word) : State :=
  { s with
    mgmt := { s.mgmt with
      enable := enableBit data
      ringSize := ringSizeField data
      breakRunLimit := breakRunField data
      quietInterval := quietField data
      response := { status := .ack, data := Config.freeAckData s.freeCounter }
      frame := [] }
    freeCounter := s.freeCounter + 1
    out := s.out ++ [.shifted s.mgmt.response.bytes] }

theorem State.controlSet_eq (s : State) (data : Word) :
    s.shiftOut.ackWrite.setWindowControl data = s.controlSet data := rfl

theorem State.takeWindowControl_eq (s : State) (data : Word) : s.shiftOut.ackWrite.takeWindowControl data =
    if s.mgmt.windowState = .disabled ∧ data.getLsbD 0 = true then (s.controlSet data).startEnable
    else if s.mgmt.windowState = .enabled ∧ data.getLsbD 0 = false then (s.controlSet data).startDisable
    else s.controlSet data := by
  unfold State.takeWindowControl
  rw [State.controlSet_eq]
  rfl

/-- A frame that the state lets pass sets the four fields, and starts the sequence that ENABLE asks for (R177 to R179,
R181). -/
theorem WindowFrame.taken {c : Instr} {data : Word} {s : State} (frame : WindowFrame c data) (good : GoodControl data)
    (free : s.stateForbids .windowControl data = false) :
    exec c s = .next
      (if s.mgmt.windowState = .disabled ∧ data.getLsbD 0 = true then (s.controlSet data).startEnable
       else if s.mgmt.windowState = .enabled ∧ data.getLsbD 0 = false then (s.controlSet data).startDisable
       else s.controlSet data) := by
  have judged : s.shiftOut.judgeWrite 0x02#8 data = .ok .windowControl := by
    change (if !WriteReg.windowControl.accepts data then _ else if s.stateForbids .windowControl data then _ else _) = _
    rw [WriteReg.accepts_windowControl good, free]
    rfl
  rw [frame s, State.writeFrame, judged, ← State.takeWindowControl_eq]
  rfl

/-- A frame that passes, and asks for no change of the window, sets the fields alone (R178). -/
theorem WindowFrame.sets {c : Instr} {data : Word} {s : State} (frame : WindowFrame c data) (good : GoodControl data)
    (free : s.stateForbids .windowControl data = false)
    (enables : ¬ (s.mgmt.windowState = .disabled ∧ data.getLsbD 0 = true))
    (disables : ¬ (s.mgmt.windowState = .enabled ∧ data.getLsbD 0 = false)) :
    exec c s = .next (s.controlSet data) := by
  rw [frame.taken good free, if_neg enables, if_neg disables]

/-! ## What a taken frame leaves -/

/-- The four fields are those of the word, the response is an ACK, and the other registers and blocks that the frame does not
reach stand (R175, R177). -/
def State.ControlTaken (s : State) (data : Word) (t : State) (en : Bool) : Prop :=
  t.mgmt.enable = en ∧ t.mgmt.ringSize = ringSizeField data ∧ t.mgmt.breakRunLimit = breakRunField data ∧
  t.mgmt.quietInterval = quietField data ∧ t.mgmt.response.status = .ack ∧
  t.mgmt.windowBase = s.mgmt.windowBase ∧ t.mgmt.faults = s.mgmt.faults ∧ t.pass = s.pass ∧ t.mport = s.mport ∧
  t.cells = s.cells

/-- The sequences change the window state and the step alone of the registers. -/
theorem State.ControlTaken.of_sequence {s t : State} {data : Word} {en : Bool} {st : WindowState} {q : Option SeqStep}
    (bit : data.getLsbD 0 = en)
    (mgmt : t.mgmt = { (s.controlSet data).mgmt with windowState := st, sequence := q }) (pass : t.pass = s.pass)
    (mport : t.mport = s.mport) (cells : t.cells = s.cells) : s.ControlTaken data t en := by
  refine ⟨?_, ?_, ?_, ?_, ?_, ?_, ?_, pass, mport, cells⟩ <;> rw [mgmt]
  · exact bit
  all_goals rfl

/-- A frame that starts no sequence sets the fields alone (R178). -/
theorem State.controlSet_spec {s : State} {data : Word} {en : Bool} (bit : data.getLsbD 0 = en) :
    s.ControlTaken data (s.controlSet data) en ∧ (s.controlSet data).mgmt.windowState = s.mgmt.windowState ∧
    (s.controlSet data).mgmt.sequence = s.mgmt.sequence ∧ (s.controlSet data).events = s.events ∧
    (s.controlSet data).arb = s.arb ∧ (s.controlSet data).channels = s.channels :=
  ⟨.of_sequence bit rfl rfl rfl rfl, rfl, rfl, rfl, rfl, rfl⟩

theorem State.startEnable_eq (s : State) : s.startEnable =
    { s with
      mgmt := { s.mgmt with windowState := .enabling, sequence := some .e1 }
      events := { s.events with intake := .opened }
      arb := { s.arb with upkeep := s.arb.upkeep ++ [{ kind := .enable, age := 0 }] } } := rfl

/-- ENABLE 1 in DISABLED (R179): ENABLING with Intake OPEN, and E1 claimed. -/
theorem State.startEnable_spec {s : State} {data : Word} (bit : data.getLsbD 0 = true) :
    let t := (s.controlSet data).startEnable
    s.ControlTaken data t true ∧ t.mgmt.windowState = .enabling ∧ t.mgmt.sequence = some .e1 ∧
    t.events = { s.events with intake := .opened } ∧
    t.arb.upkeep = s.arb.upkeep ++ [{ kind := .enable, age := 0 }] ∧ t.channels = s.channels := by
  rw [State.startEnable_eq]
  exact ⟨.of_sequence bit rfl rfl rfl rfl, rfl, rfl, rfl, rfl, rfl⟩

/-- A line with its writeback claimed keeps D1 going (R181). -/
theorem State.disableProgress_of_claimed {s : State} {n : ChanId} {v : ValidLine} (d1 : s.mgmt.sequence = some .d1)
    (line : (s.chan n).line = .valid v) (claimed : v.wbPhase = .claimed) : s.disableProgress = s := by
  refine (State.disableProgress_of_d1 d1).1 fun none => ?_
  have phase := (none n v line).1
  rw [claimed] at phase
  cases phase

/-- The advance changes the step alone of the registers (R181). -/
theorem State.disableProgress_mgmt (s : State) : ∃ q, s.disableProgress.mgmt = { s.mgmt with sequence := q } := by
  obtain ⟨-, mgmt, -⟩ := s.disableProgress_frame.only
  exact ⟨_, mgmt⟩

/-- From D1 the sequence is at one of its steps, with Intake CLOSED at the last (R148, R181). -/
theorem State.disableProgress_step {s : State} (d1 : s.mgmt.sequence = some .d1) :
    (s.disableProgress.mgmt.sequence = some .d1 ∨ s.disableProgress.mgmt.sequence = some .d2 ∨
      s.disableProgress.mgmt.sequence = some .d3) ∧
    (s.disableProgress.mgmt.sequence = some .d3 → s.disableProgress.events.intake = .closed) := by
  obtain ⟨busy, waits, ended⟩ := State.disableProgress_of_d1 d1
  by_cases none : s.NoWriteback
  · by_cases posted : s.Posted
    · rw [ended none posted]
      exact ⟨.inr (.inr rfl), fun _ => rfl⟩
    · rw [waits none posted]
      exact ⟨.inr (.inl rfl), nofun⟩
  · rw [busy none, d1]
    exact ⟨.inl rfl, nofun⟩

/-- What the start of the disable sequence does to the part (R181). -/
structure DisableStart (s t : State) : Prop where
  pass : t.pass = s.pass
  mport : t.mport = s.mport
  cells : t.cells = s.cells
  mgmt : ∃ q, t.mgmt = { s.mgmt with windowState := .disabling, sequence := q }
  step : t.mgmt.sequence = some .d1 ∨ t.mgmt.sequence = some .d2 ∨ t.mgmt.sequence = some .d3
  closed : t.mgmt.sequence = some .d3 → t.events.intake = .closed
  claims : ∀ n v, (s.chan n).line = .valid v → v.wbPhase = .none → v.dirty.any = true →
    ∃ v', (t.chan n).line = .valid v' ∧ v'.wbPhase = .claimed ∧ v'.words = v.words ∧
      { kind := .writeback n, age := 0 } ∈ t.arb.upkeep ∧ t.mgmt.sequence = some .d1
  ctl : ∀ n, (t.chan n).ctl = (s.chan n).ctl

theorem State.startDisable_start (s : State) : DisableStart s s.startDisable := by
  rw [State.startDisable_eq]
  obtain ⟨started, triggered⟩ := s.disableStarted_spec
  have d1 : s.disableStarted.mgmt.sequence = some .d1 := by rw [started.mgmt]; rfl
  have advance := s.disableStarted.disableProgress_frame
  obtain ⟨q, mgmt⟩ := s.disableStarted.disableProgress_mgmt
  rw [started.mgmt] at mgmt
  obtain ⟨step, closed⟩ := State.disableProgress_step d1
  refine ⟨advance.pass.trans started.pass, advance.mport.trans started.mport, advance.cells.trans started.cells,
    ⟨q, mgmt⟩, step, closed, fun n v line phase dirty => ?_, fun n => ?_⟩
  · obtain ⟨v', line', claimed, words, claim⟩ := (triggered n).claims v line phase dirty
    rw [State.disableProgress_of_claimed d1 line' claimed]
    exact ⟨v', line', claimed, words, claim, d1⟩
  · rw [State.disableProgress_chan, (triggered n).ctl]

/-- ENABLE_WINDOW by the window state (R178, R179). -/
theorem State.enableWindow_spec {s : State} {data : Word} (soft : s.mgmt.softWaiting = false) (good : GoodControl data)
    (bit : data.getLsbD 0 = true) :
    (s.mgmt.windowState = .disabled → ∃ t, exec (.enableWindow data) s = .next t ∧ s.ControlTaken data t true ∧
      t.mgmt.windowState = .enabling ∧ t.mgmt.sequence = some .e1 ∧ t.events = { s.events with intake := .opened } ∧
      t.arb.upkeep = s.arb.upkeep ++ [{ kind := .enable, age := 0 }] ∧ t.channels = s.channels) ∧
    (s.mgmt.windowState = .enabling ∨ s.mgmt.windowState = .enabled → ringSizeField data = s.mgmt.ringSize →
      ∃ t, exec (.enableWindow data) s = .next t ∧ s.ControlTaken data t true ∧
        t.mgmt.windowState = s.mgmt.windowState ∧ t.mgmt.sequence = s.mgmt.sequence ∧ t.events = s.events ∧
        t.arb = s.arb ∧ t.channels = s.channels) ∧
    (s.mgmt.windowState = .disabling ∨ (s.mgmt.windowState ≠ .disabled ∧ ringSizeField data ≠ s.mgmt.ringSize) →
      s.WindowNak (.enableWindow data)) := by
  have frame := windowFrame_enableWindow bit
  have forbids := State.stateForbids_enable_iff soft bit
  refine ⟨fun off => ?_, fun on same => ?_, fun refused => frame.nak good (forbids.2 refused)⟩
  · have free : s.stateForbids .windowControl data = false := Bool.eq_false_iff.2 (forbids.not.2 (by simp [off]))
    exact ⟨_, by rw [frame.taken good free, if_pos ⟨off, bit⟩], State.startEnable_spec bit⟩
  · have free : s.stateForbids .windowControl data = false := by
      refine Bool.eq_false_iff.2 (forbids.not.2 ?_)
      rcases on with on | on <;> simp [on, same]
    have notOff : s.mgmt.windowState ≠ .disabled := by rcases on with on | on <;> simp [on]
    exact ⟨_, frame.sets good free (fun both => notOff both.1) fun both => absurd both.2 (by rw [bit]; decide),
      State.controlSet_spec bit⟩

/-- DISABLE_WINDOW by the window state (R178, R181). -/
theorem State.disableWindow_spec {s : State} {data : Word} (soft : s.mgmt.softWaiting = false) (good : GoodControl data)
    (bit : data.getLsbD 0 = false) :
    (s.mgmt.windowState = .enabled → ringSizeField data = s.mgmt.ringSize →
      (∀ n, (s.chan n).ctl.state = .off ∨ (s.chan n).ctl.state = .faulted) →
      ∃ t, exec (.disableWindow data) s = .next t ∧ s.ControlTaken data t false ∧ t.mgmt.windowState = .disabling ∧
        (t.mgmt.sequence = some .d1 ∨ t.mgmt.sequence = some .d2 ∨ t.mgmt.sequence = some .d3) ∧
        (t.mgmt.sequence = some .d3 → t.events.intake = .closed) ∧
        (∀ n v, (s.chan n).line = .valid v → v.wbPhase = .none → v.dirty.any = true →
          ∃ v', (t.chan n).line = .valid v' ∧ v'.wbPhase = .claimed ∧ v'.words = v.words ∧
            { kind := .writeback n, age := 0 } ∈ t.arb.upkeep ∧ t.mgmt.sequence = some .d1) ∧
        ∀ n, (t.chan n).ctl = (s.chan n).ctl) ∧
    (s.mgmt.windowState = .enabled → (¬ ∀ n, (s.chan n).ctl.state = .off ∨ (s.chan n).ctl.state = .faulted) →
      s.WindowNak (.disableWindow data)) ∧
    (s.mgmt.windowState = .enabling → s.WindowNak (.disableWindow data)) ∧
    (s.mgmt.windowState ≠ .disabled → ringSizeField data ≠ s.mgmt.ringSize → s.WindowNak (.disableWindow data)) ∧
    (s.mgmt.windowState = .disabling → ringSizeField data = s.mgmt.ringSize →
      ∃ t, exec (.disableWindow data) s = .next t ∧ s.ControlTaken data t false ∧ t.mgmt.windowState = .disabling ∧
        t.mgmt.sequence = s.mgmt.sequence ∧ t.events = s.events ∧ t.arb = s.arb ∧ t.channels = s.channels) ∧
    (s.mgmt.windowState = .disabled →
      ∃ t, exec (.disableWindow data) s = .next t ∧ s.ControlTaken data t false ∧ t.mgmt.windowState = .disabled ∧
        t.mgmt.sequence = s.mgmt.sequence ∧ t.events = s.events ∧ t.arb = s.arb ∧ t.channels = s.channels) := by
  have frame := windowFrame_disableWindow bit
  have forbids := State.stateForbids_disable_iff soft bit
  have noChange : s.stateForbids .windowControl data = false → s.mgmt.windowState ≠ .enabled →
      exec (.disableWindow data) s = .next (s.controlSet data) := fun free notOn =>
    frame.sets good free (fun both => absurd both.2 (by rw [bit]; decide)) fun both => notOn both.1
  have set := State.controlSet_spec (s := s) bit
  refine ⟨fun on same rest => ?_, fun on busy => frame.nak good (forbids.2 (.inr (.inl ⟨on, busy⟩))),
    fun enabling => frame.nak good (forbids.2 (.inl enabling)),
    fun notOff other => frame.nak good (forbids.2 (.inr (.inr ⟨notOff, other⟩))), fun disabling same => ?_, fun off => ?_⟩
  · have free : s.stateForbids .windowControl data = false :=
      Bool.eq_false_iff.2 (forbids.not.2 (by simp [on, same, rest]))
    have start := (s.controlSet data).startDisable_start
    obtain ⟨q, mgmt⟩ := start.mgmt
    refine ⟨_, by rw [frame.taken good free, if_neg (by simp [on]), if_pos ⟨on, bit⟩],
      .of_sequence bit mgmt start.pass start.mport start.cells, by rw [mgmt], start.step, start.closed, start.claims,
      start.ctl⟩
  · have free : s.stateForbids .windowControl data = false :=
      Bool.eq_false_iff.2 (forbids.not.2 (by simp [disabling, same]))
    rw [disabling] at set
    exact ⟨_, noChange free (by simp [disabling]), set⟩
  · have free : s.stateForbids .windowControl data = false := Bool.eq_false_iff.2 (forbids.not.2 (by simp [off]))
    rw [off] at set
    exact ⟨_, noChange free (by simp [off]), set⟩

/-- Settles O56: the advance by its step; a frame by the judgement of its state, and, where it passes, by ENABLE and the
window state. -/
theorem windowControlMovesTheWindow : Obligations.WindowControlMovesTheWindow := by
  refine ⟨fun s => ⟨State.disableProgress_of_d1, State.disableProgress_of_d2, State.disableProgress_of_idle⟩, ?_⟩
  intro data s size run quiet m nak taken
  refine ⟨fun soft sizes runs => ⟨fun bit => ?_, fun bit => ?_⟩, fun soft sizes runs => ⟨fun bit => ?_, fun bit => ?_⟩⟩
  · exact (windowFrame_enableWindow bit).nak ⟨sizes, runs⟩ ((s.stateForbids_windowControl_iff data).2 (.inl soft))
  · exact (windowFrame_disableWindow bit).nak ⟨sizes, runs⟩ ((s.stateForbids_windowControl_iff data).2 (.inl soft))
  · exact State.enableWindow_spec soft ⟨sizes, runs⟩ bit
  · exact State.disableWindow_spec soft ⟨sizes, runs⟩ bit

end Sys2Proof.Machine
end

section
/-! PROOFS. FAULT_STATUS cleared by ones, the FAULT output, and EVENT_PATH_RESET with the recovery read (R161, R162, R169 to
R172, R175, R176, R183). -/

namespace Sys2Proof.Machine

/-! ## WRITE frames by their judgement (R175, R176) -/

section
variable {s : State} {index : Byte} {data : Word} {r : WriteReg}

/-- A WRITE frame that passes is acknowledged, and then takes effect. -/
theorem State.takeFrame_of_passed (reg : writeReg index = some r) (good : r.accepts data = true)
    (free : s.stateForbids r data = false) :
    s.takeFrame 0x02#8 index data = s.shiftOut.ackWrite.takeWrite r data := by
  have judged : s.shiftOut.judgeWrite index data = .ok r := by
    simp only [State.judgeWrite, reg, good, show s.shiftOut.stateForbids r data = false from free, Bool.not_true,
      Bool.false_eq_true, if_false]
  change s.shiftOut.writeFrame index data = _
  rw [State.writeFrame, judged]

/-- A WRITE frame with a good value that the state forbids. -/
theorem State.takeFrame_of_forbidden (reg : writeReg index = some r) (good : r.accepts data = true)
    (forbidden : s.stateForbids r data = true) :
    s.takeFrame 0x02#8 index data = s.shiftOut.respondFrame .nakState 0#32 := by
  have judged : s.shiftOut.judgeWrite index data = .error .nakState := by
    simp only [State.judgeWrite, reg, good, show s.shiftOut.stateForbids r data = true from forbidden, Bool.not_true,
      Bool.false_eq_true, if_false, if_true]
  change s.shiftOut.writeFrame index data = _
  rw [State.writeFrame, judged]

end

/-- A waiting SOFT_RESET alone forbids a WRITE of FAULT_STATUS (R183). -/
theorem State.stateForbids_faultStatus (s : State) (data : Word) :
    s.stateForbids .faultStatus data = s.mgmt.softWaiting := Bool.or_false _

/-- A waiting SOFT_RESET alone forbids an ACTION (R183). -/
theorem State.stateForbids_action (s : State) (data : Word) : s.stateForbids .action data = s.mgmt.softWaiting :=
  Bool.or_false _

theorem State.exec_faultStatusClear_of_passed {s : State} (soft : s.mgmt.softWaiting = false) (data : Word) :
    exec (.faultStatusClear data) s = .next (s.shiftOut.ackWrite.modFaults fun f => f.writeOnes data) :=
  congrArg Host.Outcome.next
    (State.takeFrame_of_passed (r := .faultStatus) rfl rfl ((s.stateForbids_faultStatus data).trans soft))

theorem State.exec_faultStatusClear_of_forbidden {s : State} (soft : s.mgmt.softWaiting = true) (data : Word) :
    exec (.faultStatusClear data) s = .next (s.shiftOut.respondFrame .nakState 0#32) :=
  congrArg Host.Outcome.next
    (State.takeFrame_of_forbidden (r := .faultStatus) rfl rfl ((s.stateForbids_faultStatus data).trans soft))

theorem State.exec_eventPathReset_of_passed {s : State} (soft : s.mgmt.softWaiting = false) :
    exec .eventPathReset s = .next s.shiftOut.ackWrite.eventPathReset :=
  congrArg Host.Outcome.next
    (State.takeFrame_of_passed (r := .action) rfl (by decide) ((s.stateForbids_action 2#32).trans soft))

/-! ## FAULT_STATUS (R169, R170) -/

/-- A READ frame of FAULT_STATUS returns the latches. -/
theorem State.exec_readFaultStatus (s : State) (data : Word) :
    exec (.registerWrite 0x01#8 0x04#8 data) s = .next (s.shiftOut.respondFrame .ack s.mgmt.faults.word) := rfl

/-- Settles O54: a WRITE frame by its judgement, and a READ frame of the register. -/
theorem faultStatusIsClearedByOnes : Obligations.FaultStatusIsClearedByOnes := by
  intro data s f after
  refine ⟨fun soft => ?_, fun soft => ?_, ?_⟩
  · exact ⟨_, State.exec_faultStatusClear_of_passed soft data, rfl, rfl, rfl, rfl, rfl, rfl, rfl, rfl, rfl, rfl, rfl⟩
  · exact ⟨_, State.exec_faultStatusClear_of_forbidden soft data, rfl, rfl, rfl, rfl, rfl⟩
  · exact ⟨_, s.exec_readFaultStatus data, rfl, rfl⟩

/-! ## The FAULT output (R172) -/

theorem State.faultLine_iff (s : State) :
    s.faultLine = true ↔ s.mgmt.faults.eventPathFailed = true ∨ s.mgmt.faults.ringMisuse = true ∨
      s.mgmt.faults.enableReadError = true ∨ s.mgmt.faults.statusWriteLost = true := by
  unfold State.faultLine
  simp only [Bool.or_eq_true, or_assoc]

theorem State.faultLine_congr {s t : State} (same : t.mgmt.faults = s.mgmt.faults) : t.faultLine = s.faultLine := by
  unfold State.faultLine
  rw [same]

/-- The output is low with every latch clear. -/
theorem State.faultLine_of_clear {s : State} (clear : s.mgmt.faults = .clear) : s.faultLine = false := by
  unfold State.faultLine
  rw [clear]
  rfl

/-- A 1 for each latch that can be cleared so clears them all, where the event path has not failed (R170). -/
theorem FaultStatus.writeOnes_all {f : FaultStatus} (path : f.eventPathFailed = false) : f.writeOnes 0xE#32 = .clear := by
  have ones : (0xE#32).getLsbD 1 = true ∧ (0xE#32).getLsbD 2 = true ∧ (0xE#32).getLsbD 3 = true := by decide
  obtain ⟨one, two, three⟩ := ones
  unfold FaultStatus.writeOnes
  rw [path, one, two, three, Bool.not_true, Bool.and_false, Bool.and_false, Bool.and_false]
  rfl

/-- An event-path failure latches EVENT_PATH_FAILED (R154, R169). -/
theorem State.failPost_latches {s : State} {p : InPost} (posted : s.events.inPost = some p) :
    s.failPost.mgmt.faults.eventPathFailed = true := by
  rw [State.failPost_eq posted]
  rfl

theorem State.failPost_faultLine {s : State} {p : InPost} (posted : s.events.inPost = some p) :
    s.failPost.faultLine = true :=
  s.failPost.faultLine_iff.2 (.inl (State.failPost_latches posted))

/-- ATTN after an event-path failure is the level of the Event Unit as it then stands (R154, R159). -/
theorem State.failPost_attn {s : State} {p : InPost} (posted : s.events.inPost = some p) :
    s.failPost.events.attn = s.failPost.events.attnLevel s.ringSlots := by
  rw [State.failPost_eq posted]
  rfl

/-- EVENT_PATH_RESET with a path that is OK clears the latch (R171). -/
theorem State.eventPathReset_of_ok {s : State} (path : s.events.path = .ok) : s.eventPathReset = s.clearEventPath :=
  if_pos path

/-- Settles O55: FAULT reads the latches alone; each clause says which of them stand. -/
theorem faultOutputFollowsTheLatches : Obligations.FaultOutputFollowsTheLatches := by
  intro s
  refine ⟨s.faultLine_iff, fun t same => State.faultLine_congr same, State.faultLine_of_clear rfl,
    State.faultLine_of_clear rfl, State.faultLine_of_clear ?_,
    fun p posted => ⟨State.failPost_faultLine posted, State.failPost_attn posted⟩, fun soft path => ?_,
    fun soft path ring read lost => ?_⟩
  · rw [State.takeSoftReset_mgmt]
    rfl
  · exact ⟨_, State.exec_faultStatusClear_of_passed soft 0xE#32,
      State.faultLine_of_clear (FaultStatus.writeOnes_all path)⟩
  · refine ⟨_, State.exec_eventPathReset_of_passed soft, ?_⟩
    rw [State.eventPathReset_of_ok (s := s.shiftOut.ackWrite) path]
    have cleared : { s.mgmt.faults with eventPathFailed := false } = FaultStatus.clear := by
      simp only [FaultStatus.clear, ring, read, lost]
    exact State.faultLine_of_clear cleared

/-! ## EVENT_PATH_RESET (R171) -/

/-- With the path FAILED and no recovery read, one is claimed. -/
theorem State.eventPathReset_of_no_read {s : State} (path : s.events.path = .failed) (read : s.events.recovery = .none) :
    s.eventPathReset = (s.modEvents fun e => { e with recovery := .claimed }).raise .recovery := by
  unfold State.eventPathReset
  rw [if_neg (by rw [path]; nofun), if_pos read]

/-- A recovery read that is CLAIMED or GRANTED already is the one that decides. -/
theorem State.eventPathReset_of_read {s : State} (path : s.events.path = .failed) (read : s.events.recovery ≠ .none) :
    s.eventPathReset = s := by
  unfold State.eventPathReset
  rw [if_neg (by rw [path]; nofun), if_neg read]

theorem State.eventPathReset_frame (s : State) :
    s.eventPathReset.mgmt.response = s.mgmt.response ∧ RingFrame s s.eventPathReset := by
  unfold State.eventPathReset
  split
  · exact ⟨rfl, rfl, rfl, rfl, rfl, rfl, rfl⟩
  · split
    · exact ⟨rfl, rfl, rfl, rfl, rfl, rfl, rfl⟩
    · exact ⟨rfl, .refl s⟩

/-! ## The recovery read (R161, R162) -/

theorem InFlight.row_of_recovery {e : InFlight} (o : e.orphan = false) (h : e.owner = .recovery) :
    e.row = .recoveryRead := by
  unfold InFlight.row
  rw [if_neg (by rw [o]; decide), h]

theorem State.exec_recoveryReadResponse {s : State} {rest : List InFlight} (r : MemResponse)
    (h : s.Awaits .recovery rest) :
    exec (.recoveryReadResponse r) s = .next ((s.answered rest).recoveryResponse r) := by
  obtain ⟨e, inflight, owner, orphan⟩ := h
  exact congrArg Host.Outcome.next (State.respond_of_row _ inflight (InFlight.row_of_recovery orphan owner))

/-- The part where the word of a recovery read has been dealt with, the path being FAILED still: an overtaken read's word is
dropped (R162), another's goes through the acceptance rule (R155, R161). -/
def State.wordRecovered (s : State) (d : Word) : State :=
  if s.events.overtaken then s else s.takeConsumer (field 0 16 d) true

/-- ERROR of a granted recovery read ends the read alone. -/
theorem State.recoveryResponse_error {s : State} (granted : s.events.recovery = .granted) :
    s.recoveryResponse .error = s.modEvents fun e => { e with recovery := .none, overtaken := false } :=
  if_pos granted

/-- OKAY of a granted recovery read makes the path OK, whatever becomes of the word. -/
theorem State.recoveryResponse_okay {s : State} (granted : s.events.recovery = .granted) (d : Word) :
    s.recoveryResponse (.okay d) = (s.wordRecovered d).pathRecovered := by
  have taken : s.recoveryResponse (.okay d) =
      if s.events.overtaken then s.pathRecovered else (s.takeConsumer (field 0 16 d) true).pathRecovered :=
    if_pos granted
  rw [taken, State.wordRecovered, apply_ite State.pathRecovered]

theorem State.wordRecovered_of_overtaken {s : State} (overtaken : s.events.overtaken = true) (d : Word) :
    s.wordRecovered d = s := if_pos overtaken

theorem State.wordRecovered_of_read {s : State} (read : s.events.overtaken = false) (d : Word) :
    s.wordRecovered d = s.takeConsumer (field 0 16 d) true := if_neg (by rw [read]; nofun)

/-- A rejected value leaves the restore owed and RING_MISUSE latched; its event may wait in the queue or be held (R155,
R169). -/
theorem State.takeConsumer_rejected_spec {s : State} {c : RingIndex}
    (h : ¬ (s.events.producer - c).toNat ≤ s.ringSlots) (bothLanes : Bool) :
    (∃ queue held phase, (s.takeConsumer c bothLanes).events =
      { s.events with restoreOwed := true, queue := queue, heldRejection := held, postPhase := phase }) ∧
    (s.takeConsumer c bothLanes).mgmt = { s.mgmt with faults := { s.mgmt.faults with ringMisuse := true } } ∧
    RingFrame s (s.takeConsumer c bothLanes) := by
  rw [State.takeConsumer_of_rejected h]
  obtain ⟨events, mgmt, frame⟩ := s.misused.createRejection_frame (consumerRejectedEvent c s.events.consumer)
  have misused : RingFrame s s.misused := ⟨rfl, rfl, rfl, rfl, rfl, rfl⟩
  exact ⟨events, mgmt, misused.trans frame⟩

/-- What the word of a recovery read can reach leaves the blocks alone, and PRODUCER. -/
theorem State.wordRecovered_frame (s : State) (d : Word) :
    RingFrame s (s.wordRecovered d) ∧ (s.wordRecovered d).events.producer = s.events.producer := by
  cases read : s.events.overtaken with
  | true =>
    rw [State.wordRecovered_of_overtaken read]
    exact ⟨.refl s, rfl⟩
  | false =>
    rw [State.wordRecovered_of_read read]
    by_cases accepts : (s.events.producer - field 0 16 d).toNat ≤ s.ringSlots
    · obtain ⟨⟨phase, events⟩, -, frame⟩ := State.takeConsumer_of_accepted accepts true
      exact ⟨frame, by rw [events]; rfl⟩
    · obtain ⟨⟨queue, held, phase, events⟩, -, frame⟩ := State.takeConsumer_rejected_spec accepts true
      exact ⟨frame, by rw [events]⟩

theorem State.clearEventPath_ring (s : State) : RingFrame s s.clearEventPath := ⟨rfl, rfl, rfl, rfl, rfl, rfl⟩

/-- The path is OK, the read is over and the latch is clear; a post may be claimed (R151, R161). -/
theorem State.pathRecovered_spec (s : State) :
    (∃ phase, s.pathRecovered.events =
      { s.events with path := .ok, recovery := .none, overtaken := false, postPhase := phase }) ∧
    s.pathRecovered.mgmt = { s.mgmt with faults := { s.mgmt.faults with eventPathFailed := false } } ∧
    RingFrame s s.pathRecovered := by
  unfold State.pathRecovered
  exact ⟨⟨_, State.raisePost_events_eq _⟩, State.raisePost_mgmt _,
    ((s.modEvents_ring _).trans (State.clearEventPath_ring _)).trans (State.raisePost_ring _)⟩

/-- The path's recovery in the words of the statement: by what became of the word (R155, R158, R159, R161, R162). -/
theorem State.recovered_spec (s : State) (d : Word) :
    let accepted := (s.events.producer - field 0 16 d).toNat ≤ s.ringSlots
    let t := (s.wordRecovered d).pathRecovered
    t.events.path = .ok ∧ t.events.recovery = .none ∧ t.events.overtaken = false ∧
    t.mgmt.faults.eventPathFailed = false ∧ t.events.producer = s.events.producer ∧
    (s.events.overtaken = true → t.events.consumer = s.events.consumer ∧
      t.events.restoreOwed = s.events.restoreOwed ∧ t.events.holdoff = s.events.holdoff ∧
      t.events.queue = s.events.queue ∧ t.mgmt.faults = { s.mgmt.faults with eventPathFailed := false }) ∧
    (s.events.overtaken = false → accepted → t.events.consumer = field 0 16 d ∧
      t.events.restoreOwed = false ∧ t.mgmt.faults = { s.mgmt.faults with eventPathFailed := false } ∧
      t.events.holdoff = (if s.events.producer = field 0 16 d then none else some 0) ∧
      t.events.attn = t.events.attnLevel s.ringSlots) ∧
    (s.events.overtaken = false → ¬ accepted → t.events.consumer = s.events.consumer ∧
      t.events.restoreOwed = true ∧
      t.mgmt.faults = { s.mgmt.faults with eventPathFailed := false, ringMisuse := true }) ∧
    t.channels = s.channels ∧ t.cells = s.cells ∧ t.mport = s.mport ∧ t.out = s.out := by
  intro accepted t
  obtain ⟨⟨phase, events⟩, mgmt, recovered⟩ := (s.wordRecovered d).pathRecovered_spec
  obtain ⟨frame, producer⟩ := s.wordRecovered_frame d
  obtain ⟨-, mport, -, channels, cells, out⟩ := frame.trans recovered
  have path : t.events = _ := events
  have latch : t.mgmt = _ := mgmt
  rw [path, latch]
  refine ⟨rfl, rfl, rfl, rfl, producer, fun overtaken => ?_, fun read accepts => ?_, fun read rejects => ?_, channels,
    cells, mport, out⟩
  · rw [State.wordRecovered_of_overtaken overtaken]
    exact ⟨rfl, rfl, rfl, rfl, rfl⟩
  · obtain ⟨⟨claim, taken⟩, same, -⟩ := State.takeConsumer_of_accepted accepts true
    rw [State.wordRecovered_of_read read, taken, same]
    exact ⟨rfl, rfl, rfl, rfl, rfl⟩
  · obtain ⟨⟨queue, held, claim, kept⟩, misuse, -⟩ := State.takeConsumer_rejected_spec rejects true
    rw [State.wordRecovered_of_read read, kept, misuse]
    exact ⟨rfl, rfl, rfl⟩

/-- The restore is the sixth write of a post, with CONSUMER as it is kept (R152). -/
theorem State.postWrites_restore (s : State) (ev : Event) : s.postWrites ev true =
    s.postWrites ev false ++ [.ofWrite (.post 5) (s.wordAddr 145) (s.events.consumer.setWidth 32)] := rfl

/-- Settles O51: the action by the path and the recovery read; the read's response by the word that it carries. -/
theorem eventPathResetAndRecovery : Obligations.EventPathResetAndRecovery := by
  intro rest s s' accepted
  refine ⟨fun soft => ?_, fun awaits granted => ⟨fun d => ?_, ?_⟩, s.postWrites_restore,
    fun p posted => ⟨State.failPost_latches posted, State.failPost_faultLine posted⟩⟩
  · let acked := s.shiftOut.ackWrite
    obtain ⟨response, pass, mport, -, channels, cells, -⟩ := acked.eventPathReset_frame
    refine ⟨_, State.exec_eventPathReset_of_passed soft, congrArg FrameResponse.status response, fun path read => ?_,
      fun path read => ?_, fun path => ?_, channels, cells, pass, mport⟩
    · rw [State.eventPathReset_of_no_read (s := acked) path read]
      exact ⟨rfl, rfl, rfl⟩
    · rw [State.eventPathReset_of_read (s := acked) path read]
      exact ⟨rfl, rfl, rfl⟩
    · rw [State.eventPathReset_of_ok (s := acked) path]
      exact ⟨rfl, rfl, rfl⟩
  · refine ⟨_, State.exec_recoveryReadResponse (.okay d) awaits, ?_⟩
    rw [State.recoveryResponse_okay (s := s.answered rest) granted]
    exact (s.answered rest).recovered_spec d
  · rw [State.exec_recoveryReadResponse .error awaits, State.recoveryResponse_error (s := s.answered rest) granted]
    rfl

end Sys2Proof.Machine
end

section
/-! PROOFS. The grant of a step of the enable sequence (R142, R179). -/

namespace Sys2Proof.Machine

/-! ## The group of a step, access by access (R179) -/

theorem enableGroup_accesses (l : List (Kind × Addr × Word)) :
    (enableGroup l).map (fun a => (a.kind, a.addr, a.data)) = l := by
  unfold enableGroup
  rw [List.map_map]
  exact List.zipIdx_map_fst 0 l

theorem enableGroup_lanes (l : List (Kind × Addr × Word)) : ∀ a ∈ enableGroup l, a.lanes = allLanes := by
  intro a mem
  obtain ⟨_, -, rfl⟩ := List.mem_map.1 mem
  rfl

theorem enableGroup_owners (l : List (Kind × Addr × Word)) :
    (enableGroup l).map (·.owner) = (List.range l.length).map fun i => .enable i (i + 1 == l.length) := by
  unfold enableGroup
  rw [List.map_map, List.range_eq_range', ← List.zipIdx_map_snd 0 l, List.map_map]
  rfl

/-! ## The grant -/

/-- The grant of step q starts one group with the accesses l, all lanes enabled, each owned by its place; a status word that
was due is carried by E5 (R133, R142, R179). -/
def State.EnableIssues (s : State) (q : SeqStep) (l : List (Kind × Addr × Word)) : Prop :=
  ∃ t first rest, exec .grantDecision s = .next t ∧ s.GroupStarted t (.upkeep .enable) first rest ∧
    (first :: rest).map (fun a => (a.kind, a.addr, a.data)) = l ∧
    (∀ a ∈ first :: rest, a.lanes = 0xF#4) ∧
    ((first :: rest).map (·.owner)) = (List.range l.length).map (fun i => .enable i (i + 1 == l.length)) ∧
    t.channels = s.channels ∧ t.events = s.events ∧ t.mgmt = s.mgmt ∧ t.pass = s.pass ∧
    (∀ k, t.cell k = if q = .e5 then { s.cell k with statusDue := false } else s.cell k)

theorem State.enableWrites_arbitrated (s : State) (g : Grant) (q : SeqStep) :
    (s.arbitrated g).enableWrites q = s.enableWrites q := by
  cases q <;> rfl

theorem State.grantEnable_of_step {s : State} {q : SeqStep} (step : s.mgmt.sequence = some q) : s.grantEnable =
    (s.clearStatusDue q).startGroup (.upkeep .enable) (enableGroup (s.enableWrites q)) none := by
  unfold State.grantEnable
  rw [step]

/-- What the grant does before its group starts: the cells alone change. -/
theorem State.clearStatusDue_eq (s : State) (q : SeqStep) :
    s.clearStatusDue q = { s with cells := (s.clearStatusDue q).cells } := by
  unfold State.clearStatusDue
  split <;> rfl

theorem State.clearStatusDue_cell (s : State) (q : SeqStep) (k : CellId) :
    (s.clearStatusDue q).cell k = if q = .e5 then { s.cell k with statusDue := false } else s.cell k := by
  unfold State.clearStatusDue
  split
  · exact s.cell_mapCells _ k
  · rfl

/-- The steps of the disable sequence issue no access (R181). -/
theorem State.enableWrites_of_disable (s : State) {q : SeqStep} (disable : q = .d1 ∨ q = .d2) : s.enableWrites q = [] := by
  rcases disable with rfl | rfl <;> rfl

/-- A step with an access issues its accesses as one group. -/
theorem State.exec_grant_enable {s : State} {q : SeqStep} (h : s.Grants (.upkeep .enable))
    (step : s.mgmt.sequence = some q) {l : List (Kind × Addr × Word)} (accesses : s.enableWrites q = l) (nonempty : l ≠ []) :
    s.EnableIssues q l := by
  obtain ⟨first, rest, group⟩ : ∃ first rest, enableGroup l = first :: rest := by
    refine List.exists_cons_of_ne_nil fun empty => nonempty ?_
    rw [← enableGroup_accesses l, empty]
    rfl
  have notD : q ≠ .d1 ∧ q ≠ .d2 :=
    not_or.1 fun disable => nonempty (accesses.symm.trans (s.enableWrites_of_disable disable))
  let a := s.arbitrated (.upkeep .enable)
  have performed : a.perform (.upkeep .enable) =
      (a.clearStatusDue q).startGroup (.upkeep .enable) (first :: rest) none := by
    rw [← group, ← accesses, ← s.enableWrites_arbitrated (.upkeep .enable)]
    exact State.grantEnable_of_step step
  obtain ⟨t, run, issued⟩ := State.exec_grant_group h performed
  have cells := a.clearStatusDue_eq q
  have only := issued.onlyDisableAdvances (s := s) (by rw [cells]; rfl) (by rw [cells]; rfl)
  obtain ⟨events, mgmt⟩ := only.2.2 (by simp [step, notD]) (by simp [step, notD])
  refine ⟨t, first, rest, run, issued.groupStarted (by rw [cells]; rfl) (by rw [cells]; rfl), ?_, ?_, ?_,
    issued.channels.trans (by rw [cells]; rfl), events, mgmt, issued.pass.trans (by rw [cells]; rfl), fun k => ?_⟩
  · rw [← group, enableGroup_accesses]
  · rw [← group]
    exact enableGroup_lanes l
  · rw [← group, enableGroup_owners]
  · exact (issued.cell k).trans (a.clearStatusDue_cell q k)

/-- Settles O44: each step's accesses, as the grant reads them from the part. -/
theorem enableGrantIssuesItsStep : Obligations.EnableGrantIssuesItsStep := by
  intro q s h step issues
  have grant : ∀ l, s.enableWrites q = l → l ≠ [] → issues l := fun _ => State.exec_grant_enable h step
  refine ⟨?_, ?_, ?_, fun k l => ?_, ?_⟩ <;> rintro rfl <;> exact grant _ rfl nofun

end Sys2Proof.Machine
end

section
/-! PROOFS. The frames of the management port: those that are answered, those that order an action, and those that are
discarded (R175, R176, R183). -/

namespace Sys2Proof.Machine

/-! ## Fields of a frame's word (R176) -/

/-- A field as the word shifted and masked. -/
theorem toNat_field (start len : Nat) (w : Word) {mask : Word} (ones : mask.toNat = 2 ^ len - 1) :
    (field start len w).toNat = ((w >>> start) &&& mask).toNat := by
  rw [BitVec.toNat_and, ones, Nat.and_two_pow_sub_one_eq_mod, field, BitVec.extractLsb'_toNat, BitVec.toNat_ushiftRight]

theorem actionCode_eq (data : Word) : actionCode data = (data &&& 0xFF#32).toNat := by
  unfold actionCode
  rw [toNat_field 0 8 data (mask := 0xFF#32) rfl, BitVec.ushiftRight_zero]

theorem ringSizeField_toNat (data : Word) : (ringSizeField data).toNat = ((data >>> 1) &&& 7#32).toNat :=
  toNat_field 1 3 data rfl

theorem breakRunField_eq_zero_iff (data : Word) : breakRunField data = 0#4 ↔ (data >>> 4) &&& 15#32 = 0#32 := by
  unfold breakRunField
  rw [← BitVec.toNat_inj, ← BitVec.toNat_inj, toNat_field 4 4 data (mask := 15#32) rfl]
  rfl

/-- An ACTION word: the code in its low byte, the channels in the next. -/
def actionWord (code mask : BitVec 8) : Word := code.setWidth 32 ||| (mask.setWidth 32 <<< 8)

theorem field_actionWord_code (code mask : BitVec 8) : field 0 8 (actionWord code mask) = code := by
  apply BitVec.eq_of_getLsbD_eq
  intro i hi
  rw [getLsbD_field]
  unfold actionWord
  simp [hi, show i < 32 by omega]

theorem field_actionWord_mask (code mask : BitVec 8) : field 8 8 (actionWord code mask) = mask := by
  apply BitVec.eq_of_getLsbD_eq
  intro i hi
  rw [getLsbD_field]
  unfold actionWord
  simp [hi, show 8 + i < 32 by omega]

/-! ## The registers that a frame names (R176) -/

theorem State.readRegister_of_ge (s : State) {index : Byte} (past : 6 ≤ index.toNat) : s.readRegister index = none := by
  obtain ⟨i, place⟩ := Nat.exists_eq_add_of_le' past
  unfold State.readRegister
  rw [place]
  rfl

theorem writeReg_eq_none {index : Byte} (none : index.toNat ∉ [1, 2, 4, 6]) : writeReg index = .none := by
  simp only [List.mem_cons, List.not_mem_nil, or_false, not_or] at none
  obtain ⟨not1, not2, not4, not6⟩ := none
  unfold writeReg
  split
  · exact absurd ‹_› not1
  · exact absurd ‹_› not2
  · exact absurd ‹_› not4
  · exact absurd ‹_› not6
  · rfl

/-! ## Values (R176) -/

theorem WriteReg.accepts_windowBase_iff (data : Word) :
    WriteReg.windowBase.accepts data = true ↔ data.toNat ≤ 0x3FFF800 ∧ data.toNat % 2048 = 0 := decide_eq_true_iff

theorem WriteReg.accepts_windowControl_iff (data : Word) : WriteReg.windowControl.accepts data = true ↔
    ¬ (5 ≤ ((data >>> 1) &&& 7#32).toNat ∨ (data >>> 4) &&& 15#32 = 0#32) := by
  rw [← breakRunField_eq_zero_iff, ← ringSizeField_toNat, not_or, Nat.not_le, Nat.lt_succ_iff]
  simp only [WriteReg.accepts, Bool.and_eq_true, decide_eq_true_eq, bne_iff_ne, ne_eq]

theorem WriteReg.accepts_action_iff (data : Word) : WriteReg.action.accepts data = true ↔
    1 ≤ (data &&& 0xFF#32).toNat ∧ (data &&& 0xFF#32).toNat ≤ 4 := by
  rw [← actionCode_eq]
  exact decide_eq_true_iff

/-- A SOFT_RESET that waits, and a window that is not DISABLED, forbid a WRITE of WINDOW_BASE (R178, R183). -/
theorem State.stateForbids_windowBase_iff (s : State) (data : Word) :
    s.stateForbids .windowBase data = true ↔ s.mgmt.softWaiting = true ∨ s.mgmt.windowState ≠ .disabled := by
  unfold State.stateForbids
  rw [Bool.or_eq_true, bne_iff_ne]

/-! ## Frames that are refused for their operation, index or value (R175) -/

/-- A frame that neither reads nor writes. -/
theorem State.takeFrame_of_unknown (s : State) {op : Byte} (read : op ≠ 0x01#8) (write : op ≠ 0x02#8) (index : Byte)
    (data : Word) : s.takeFrame op index data = s.shiftOut.respondFrame .nakIndex 0#32 := by
  unfold State.takeFrame
  rw [if_neg read, if_neg write]

/-- A READ frame whose index names a register. -/
theorem State.takeFrame_of_named {s : State} {index : Byte} {w : Word} (reg : s.readRegister index = some w)
    (data : Word) : s.takeFrame 0x01#8 index data = s.shiftOut.respondFrame .ack w := by
  change s.shiftOut.readFrame index = _
  rw [State.readFrame, show s.shiftOut.readRegister index = some w from reg]

/-- A READ frame whose index names no register that can be read. -/
theorem State.takeFrame_of_unnamed {s : State} {index : Byte} (reg : s.readRegister index = none) (data : Word) :
    s.takeFrame 0x01#8 index data = s.shiftOut.respondFrame .nakIndex 0#32 := by
  change s.shiftOut.readFrame index = _
  rw [State.readFrame, show s.shiftOut.readRegister index = none from reg]

/-- A WRITE frame whose index names no register that can be written. -/
theorem State.takeFrame_of_badIndex (s : State) {index : Byte} (reg : writeReg index = none) (data : Word) :
    s.takeFrame 0x02#8 index data = s.shiftOut.respondFrame .nakIndex 0#32 := by
  have judged : s.shiftOut.judgeWrite index data = .error .nakIndex := by rw [State.judgeWrite, reg]
  change s.shiftOut.writeFrame index data = _
  rw [State.writeFrame, judged]

/-- A WRITE frame whose value the register does not take. -/
theorem State.takeFrame_of_badValue (s : State) {index : Byte} {data : Word} {r : WriteReg}
    (reg : writeReg index = some r) (bad : ¬ r.accepts data = true) :
    s.takeFrame 0x02#8 index data = s.shiftOut.respondFrame .nakValue 0#32 := by
  have judged : s.shiftOut.judgeWrite index data = .error .nakValue := by
    simp only [State.judgeWrite, reg, Bool.eq_false_iff.2 bad, Bool.not_false, if_true]
  change s.shiftOut.writeFrame index data = _
  rw [State.writeFrame, judged]

/-! ## WINDOW_BASE, and discarded frames (R175, R176) -/

section
variable (s : State)

/-- The WRITE frames of WINDOW_BASE: the value, then the state (R175, R176). -/
theorem State.exec_writeWindowBase (data : Word) :
    let m := s.mgmt
    let run := exec (.registerWrite 0x02#8 0x01#8 data) s
    let answered := fun (st : FrameStatus) (d : Word) => s.shiftOut.respondFrame st d
    (¬ (data.toNat ≤ 0x3FFF800 ∧ data.toNat % 2048 = 0) → run = .next (answered .nakValue 0#32)) ∧
    (data.toNat ≤ 0x3FFF800 → data.toNat % 2048 = 0 →
      (m.softWaiting = true ∨ m.windowState ≠ .disabled → run = .next (answered .nakState 0#32)) ∧
      (m.softWaiting = false → m.windowState = .disabled → ∃ d, run = .next
        { answered .ack d with
          mgmt := { m with windowBase := BitVec.ofNat 26 data.toNat, response := { status := .ack, data := d }, frame := [] }
          freeCounter := s.freeCounter + 1 })) := by
  have accepts := WriteReg.accepts_windowBase_iff data
  have forbids := s.stateForbids_windowBase_iff data
  refine ⟨fun bad => ?_, fun range page => ⟨fun forbidden => ?_, fun soft off => ⟨Config.freeAckData s.freeCounter, ?_⟩⟩⟩
  · exact congrArg Host.Outcome.next (s.takeFrame_of_badValue rfl (accepts.not.2 bad))
  · exact congrArg Host.Outcome.next
      (State.takeFrame_of_forbidden rfl (accepts.2 ⟨range, page⟩) (forbids.2 forbidden))
  · have free : s.stateForbids .windowBase data = false := Bool.eq_false_iff.2 (forbids.not.2 (by simp [soft, off]))
    exact congrArg Host.Outcome.next (State.takeFrame_of_passed rfl (accepts.2 ⟨range, page⟩) free)

/-- A frame of other than six bytes (R175). -/
theorem State.exec_discardedFrame {bytes : List Byte} (other : bytes.length ≠ 6) : exec (.discardedFrame bytes) s = .next
    { s with out := s.out ++ [.shifted (s.discardedBytes bytes.length)]
             freeCounter := s.freeCounter + (bytes.length - 6) } := congrArg Host.Outcome.next (if_neg other)

/-- Up to the sixth byte only the held response leaves. -/
theorem State.discardedBytes_of_short {k : Nat} (short : k ≤ 6) : s.discardedBytes k = s.mgmt.response.bytes.take k := by
  rw [State.discardedBytes, Nat.sub_eq_zero_of_le short, List.range_zero, List.map_nil, List.append_nil]

/-- From the sixth byte on the held response leaves whole, and free values behind it (log 8). -/
theorem State.discardedBytes_of_long {k : Nat} (long : 6 ≤ k) :
    ∃ free, free.length = k - 6 ∧ s.discardedBytes k = s.mgmt.response.bytes ++ free := by
  refine ⟨(List.range (k - 6)).map fun i => Config.freeShiftedByte (s.freeCounter + i), by simp, ?_⟩
  rw [State.discardedBytes, List.take_of_length_le (show s.mgmt.response.bytes.length ≤ k from long)]

end

/-- Settles O53: a frame of six bytes by its operation, then by the judgement of its register; a discarded frame by its
length. -/
theorem framesAreJudgedAndAnswered : Obligations.FramesAreJudgedAndAnswered := by
  intro op index data bytes s held shifted answered run states m
  refine ⟨fun read write => ?_, ?_, ?_, fun short => ?_, fun long => ?_⟩
  · exact congrArg Host.Outcome.next (s.takeFrame_of_unknown read write index data)
  · rintro rfl
    have read : ∀ w, s.readRegister index = some w → run = .next (answered .ack w) := fun _ named =>
      congrArg Host.Outcome.next (State.takeFrame_of_named named data)
    refine ⟨?_, ?_, ?_, ?_, ?_, ?_, fun past =>
      congrArg Host.Outcome.next (State.takeFrame_of_unnamed (s.readRegister_of_ge past) data)⟩
    all_goals
      rintro rfl
      exact read _ rfl
  · rintro rfl
    refine ⟨fun unnamed => ?_, ?_, ?_, ?_⟩
    · exact congrArg Host.Outcome.next (s.takeFrame_of_badIndex (writeReg_eq_none unnamed) data)
    · rintro rfl
      exact s.exec_writeWindowBase data
    · rintro rfl bad
      exact congrArg Host.Outcome.next (s.takeFrame_of_badValue (r := .windowControl) rfl
        ((WriteReg.accepts_windowControl_iff data).not.2 (not_not.2 bad)))
    · rintro rfl bad
      exact congrArg Host.Outcome.next
        (s.takeFrame_of_badValue (r := .action) rfl ((WriteReg.accepts_action_iff data).not.2 bad))
  · rw [s.exec_discardedFrame short.ne, s.discardedBytes_of_short short.le, Nat.sub_eq_zero_of_le short.le]
    rfl
  · obtain ⟨free, length, leaves⟩ := s.discardedBytes_of_long long.le
    refine ⟨free, length, ?_⟩
    rw [s.exec_discardedFrame long.ne', leaves]
    rfl

/-! ## ACTION frames (R176, R183) -/

/-- The command c is an ACTION frame with this code and these channels (R175, R176). -/
def ActionFrame (c : Instr) (code mask : BitVec 8) : Prop :=
  ∀ s, exec c s = .next (s.takeFrame 0x02#8 0x06#8 (actionWord code mask))

section
variable {c : Instr} {code mask : BitVec 8} {s : State}

theorem WriteReg.accepts_actionWord (known : 1 ≤ code.toNat ∧ code.toNat ≤ 4) :
    WriteReg.action.accepts (actionWord code mask) = true := by
  refine decide_eq_true_iff.2 ?_
  rwa [actionCode, field_actionWord_code]

theorem ActionFrame.taken (frame : ActionFrame c code mask) (known : 1 ≤ code.toNat ∧ code.toNat ≤ 4)
    (soft : s.mgmt.softWaiting = false) :
    exec c s = .next (s.shiftOut.ackWrite.takeAction (actionWord code mask)) :=
  (frame s).trans (congrArg Host.Outcome.next (State.takeFrame_of_passed (r := .action) rfl
    (WriteReg.accepts_actionWord known) ((s.stateForbids_action _).trans soft)))

theorem ActionFrame.nak (frame : ActionFrame c code mask) (known : 1 ≤ code.toNat ∧ code.toNat ≤ 4)
    (soft : s.mgmt.softWaiting = true) : exec c s = .next (s.shiftOut.respondFrame .nakState 0#32) :=
  (frame s).trans (congrArg Host.Outcome.next (State.takeFrame_of_forbidden (r := .action) rfl
    (WriteReg.accepts_actionWord known) ((s.stateForbids_action _).trans soft)))

end

/-- CHANNEL_RESET adds its channels to those that wait (R183). -/
theorem State.takeAction_channelReset (s : State) (mask : BitVec 8) : s.takeAction (actionWord 3#8 mask) =
    s.modMgmt fun m => { m with resetMask := m.resetMask ||| mask } := by
  unfold State.takeAction
  rw [actionCode, field_actionWord_code, field_actionWord_mask]
  rfl

theorem actionFrame_flush : ActionFrame .flush 1#8 0#8 := fun _ => rfl

theorem actionFrame_eventPathReset : ActionFrame .eventPathReset 2#8 0#8 := fun _ => rfl

theorem actionFrame_channelReset (mask : BitVec 8) : ActionFrame (.channelReset mask) 3#8 mask := fun _ => rfl

theorem actionFrame_softReset : ActionFrame .softReset 4#8 0#8 := fun _ => rfl

/-- The four commands are ACTION frames with a code that names an action (R176). -/
theorem actionFrame_of_mem {c : Instr} {mask : BitVec 8}
    (mem : c ∈ [Instr.flush, .channelReset mask, .softReset, .eventPathReset]) :
    ∃ code m, ActionFrame c code m ∧ 1 ≤ code.toNat ∧ code.toNat ≤ 4 := by
  simp only [List.mem_cons, List.not_mem_nil, or_false] at mem
  rcases mem with rfl | rfl | rfl | rfl
  · exact ⟨_, _, actionFrame_flush, by decide⟩
  · exact ⟨_, _, actionFrame_channelReset mask, by decide⟩
  · exact ⟨_, _, actionFrame_softReset, by decide⟩
  · exact ⟨_, _, actionFrame_eventPathReset, by decide⟩

/-- Settles O58: ACTION frames by the judgement, and, where one passes, by its code. -/
theorem actionFramesOrder : Obligations.ActionFramesOrder := by
  intro mask s same
  refine ⟨fun soft => ⟨Config.freeAckData s.freeCounter, ?_, ?_, ?_⟩, fun soft c mem => ?_⟩
  · exact ⟨_, actionFrame_flush.taken (by decide) soft, ⟨rfl, rfl, rfl, rfl, rfl, rfl⟩, rfl⟩
  · have run := (actionFrame_channelReset mask).taken (by decide) soft
    rw [State.takeAction_channelReset] at run
    exact ⟨_, run, ⟨rfl, rfl, rfl, rfl, rfl, rfl⟩, rfl⟩
  · exact ⟨_, actionFrame_softReset.taken (by decide) soft, ⟨rfl, rfl, rfl, rfl, rfl, rfl⟩, rfl⟩
  · obtain ⟨code, m, frame, known⟩ := actionFrame_of_mem mem
    exact ⟨_, frame.nak known soft, ⟨rfl, rfl, rfl, rfl, rfl, rfl⟩, rfl⟩

end Sys2Proof.Machine
end

section
/-! PROOFS. What a step runs, and that each command answers a next state (logs 2, 3 and 9). -/

namespace Sys2Proof.Machine

/-- The other row of `step` is `State.step_of_idle`. -/
theorem State.step_of_front {s : State} {c : Instr} {rest : List Instr} (front : s.pending = c :: rest) :
    step s = exec c { s with pending := rest } := by
  unfold step
  rw [front]

/-- Settles O1: the queue's front decides the row of the step. -/
theorem stepRunsFrontCommand : Obligations.StepRunsFrontCommand :=
  fun _ _ _ => State.step_of_front rfl

/-- Settles O2: each command is a PartStep, and leaves every message already sent in place. -/
theorem everyCommandCompletes : Obligations.EveryCommandCompletes := by
  intro c s
  obtain ⟨t, run, part⟩ := exec_part c s
  obtain ⟨more, sent⟩ := part.out
  exact ⟨t, run, part.pending, more, sent.symm⟩

end Sys2Proof.Machine
end
